-- ==== Sys2Proof/Word.lean ====
section
/-! DEFINITION. The plainest types of the model: the byte of the link and the show-time value. -/

namespace Sys2Proof

/-- One byte on the link (spec/02, Table 2.1). -/
abbrev Byte := BitVec 8

/-- A show-time value or a difference of two: milliseconds (spec/00, 6.1). Show time itself is kept
within 48 bits by the rules; values formed from it are exact integers, because the manual compares
them as signed quantities (R48, R53, R98). -/
abbrev Time := Int

/-- The least number that does not fit the 48 bits of show time (R1). -/
def timeTop : Int := 281474976710656

end Sys2Proof
end

