-- ==== Sys2Proof/Syntax.lean ====
section
/-! DEFINITION. The commands of the engine: one constructor for each row of spec/opcode_table.json, in the
table's order. The table gives its rows no fields; the operands here are the model's (log entry 5): the
bytes of a received frame, the number of a run slot, a figure or a board, the strap level. -/

namespace Sys2Proof

/-- The two ports of the engine (spec/00, section 2). A frame that arrived at the head port is outbound,
one that arrived at the tail port inbound (R12). -/
inductive Port where
  | head
  | tail
  deriving DecidableEq, Repr

/-- The rows of the table of operations and events. A frame row carries every byte received of its frame,
header and CRC included. -/
inductive Instr where
  /-- POWER_ON (R170): Power-on puts every table, setting, counter and block state to its power-on value and leaves the engine in CONFIG. -/
  | powerOn (straps : Byte)
  /-- LOCAL_MILLISECOND (R1): Each local millisecond of the time base advances show time by one, or holds it and lowers freeze remaining while a freeze is outstanding. -/
  | localMillisecond
  /-- MALFORMED (R12): A received frame with a bad length or a LEN mismatch is dropped and MALFORMED rises. -/
  | malformed (port : Port) (frame : List Byte)
  /-- CRC_ERROR (R12): A received frame whose CRC does not match is dropped and CRC_ERROR rises. -/
  | crcError (port : Port) (frame : List Byte)
  /-- UNKNOWN_KIND (R15): A frame addressed to the engine with a kind or direction that the fixed path does not take is dropped and UNKNOWN_KIND rises. -/
  | unknownKind (port : Port) (frame : List Byte)
  /-- CLASSIFIER_WALK (R29): An arrived frame not addressed to the engine is walked through the parse table to a verdict. -/
  | classifierWalk (port : Port) (frame : List Byte)
  /-- BEACON (R3): A beacon delivered to the clock is checked, then accepted and used to slew or step show time. -/
  | beacon (frame : List Byte)
  /-- BEACON_LOST (R9): When show time reaches the loss deadline in SET, the clock becomes FREE_RUNNING and BEACON_LOST is raised. -/
  | beaconLost
  /-- QUIET (R158): A QUIET frame sets, replaces or clears the quiet override. -/
  | quiet (frame : List Byte)
  /-- QUIET_EXPIRY (R158): When show time reaches the override's expiry, the override ends and QUIET_OFF is raised. -/
  | quietExpiry
  /-- STRIKE_CUE (R174): A STRIKE cue sends each of its entries to the strike planner in order. -/
  | strikeCue (frame : List Byte)
  /-- MOTIF_PLAY (R94): A MOTIF_PLAY cue creates a motif run in a free slot, or is refused. -/
  | motifPlay (frame : List Byte)
  /-- SHOW_START (R142): A SHOW_START cue becomes a show request that joins the show queue or is refused. -/
  | showStart (frame : List Byte)
  /-- SHOW_STOP (R153): A SHOW_STOP cue cancels the show's run or removes its queue entry. -/
  | showStop (frame : List Byte)
  /-- FIGURE_GO (R122): A FIGURE_GO cue becomes a live move request for the figure, or is refused. -/
  | figureGo (frame : List Byte)
  /-- ALL_STOP (R174): An ALL_STOP cue empties the show queue, cancels every run, purges the launch queue and withdraws live moves. -/
  | allStop (frame : List Byte)
  /-- UNKNOWN_CUE_TYPE (R173): A cue of an unknown type, or one that cannot be read, is refused with BAD_CUE. -/
  | unknownCueType (frame : List Byte)
  /-- READ_RECORD (R171): READ_RECORD returns one part of a table record. -/
  | readRecord (frame : List Byte)
  /-- WRITE_PARSE (R25): WRITE_RECORD on table PARSE checks and stores a parse table entry. -/
  | writeParse (frame : List Byte)
  /-- WRITE_BELL (R39): WRITE_RECORD on table BELL checks and replaces a bell record and adjusts the bell state. -/
  | writeBell (frame : List Byte)
  /-- WRITE_MOTIF_DIR (R78): WRITE_RECORD on table MOTIF_DIR checks and replaces a directory entry, subject to the busy rule. -/
  | writeMotifDir (frame : List Byte)
  /-- WRITE_MOTIF_ROW (R79): WRITE_RECORD on table MOTIF_ROW checks and replaces a row, subject to the busy rule. -/
  | writeMotifRow (frame : List Byte)
  /-- WRITE_SHOW (R139): WRITE_RECORD on table SHOW checks and replaces a show record. -/
  | writeShow (frame : List Byte)
  /-- WRITE_MOVE (R140): WRITE_RECORD on table MOVE checks and replaces a move entry. -/
  | writeMove (frame : List Byte)
  /-- WRITE_VECTOR (R156): WRITE_RECORD on table VECTOR replaces a vector table entry. -/
  | writeVector (frame : List Byte)
  /-- WRITE_SCHEDULE (R155): WRITE_RECORD on table SCHEDULE_SHADOW writes a shadow bank entry or header. -/
  | writeSchedule (frame : List Byte)
  /-- WRITE_FIGURE (R100): WRITE_RECORD on table FIGURE checks and replaces a figure record, possibly making the figure UNHOMED. -/
  | writeFigure (frame : List Byte)
  /-- WRITE_BOARD (R126): WRITE_RECORD on table BOARD, in CONFIG, replaces a board record and may reset the board state. -/
  | writeBoard (frame : List Byte)
  /-- WRITE_GROUP (R136): WRITE_RECORD on table GROUP, in CONFIG, replaces a supply group record. -/
  | writeGroup (frame : List Byte)
  /-- WRITE_SETTINGS (R171): WRITE_RECORD on table SETTINGS, in CONFIG, checks and replaces the settings record. -/
  | writeSettings (frame : List Byte)
  /-- READ_STATE (R172): READ_STATE returns one part of an object's state. -/
  | readState (frame : List Byte)
  /-- CLEAR_COUNTERS (R172): CLEAR_COUNTERS sets the engine's counters to 0, with ACCEPTED set to the entries held. -/
  | clearCounters (frame : List Byte)
  /-- ENGINE_RUN (R169): ENGINE_RUN enters RUN, derives the calendar position and optionally homes figures. -/
  | engineRun (frame : List Byte)
  /-- ENGINE_STOP (R169): ENGINE_STOP empties the show queue, cancels runs, purges strikes, brings figures to rest and enters CONFIG. -/
  | engineStop (frame : List Byte)
  /-- ENGINE_RESET (R170): ENGINE_RESET returns the runtime state to its starting values and enters CONFIG. -/
  | engineReset (frame : List Byte)
  /-- SEASON_SWITCH (R164): SEASON_SWITCH validates the shadow bank and makes a switch pending or takes it into effect at once. -/
  | seasonSwitch (frame : List Byte)
  /-- SEASON_CANCEL (R166): SEASON_CANCEL withdraws a pending switch. -/
  | seasonCancel (frame : List Byte)
  /-- FIGURE_HOME (R120): FIGURE_HOME makes a homing the figure's current move, waiting for zones and supply. -/
  | figureHome (frame : List Byte)
  /-- FAULT_CLEAR (R119): FAULT_CLEAR sends CLEAR_FAULT for faulted figures without current and makes them UNHOMED. -/
  | faultClear (frame : List Byte)
  /-- SET_EVENT_MASK (R172): SET_EVENT_MASK replaces the event class mask. -/
  | setEventMask (frame : List Byte)
  /-- UNKNOWN_REQUEST (R171): A request with an unknown code, table or object, or a short payload, is answered BAD_REQUEST. -/
  | unknownRequest (frame : List Byte)
  /-- BOARD_ANSWER (R130): A BOARD_ANSWER is matched to the board's command in handshake and completes, rejects or is found stale. -/
  | boardAnswer (frame : List Byte)
  /-- BOARD_STATUS (R132): A BOARD_STATUS makes the board PRESENT, renews its deadline and passes its rail and channel reports on. -/
  | boardStatus (frame : List Byte)
  /-- FIRE_HEAD_ENTRY (R63): The due head of the waiting list is removed and fired by the strike planner. -/
  | fireHeadEntry
  /-- STRIKE_WINDOW_END (R137): When show time reaches the end of strike pulse windows, their currents are released and the group is reported. -/
  | strikeWindowEnd
  /-- EXPANSION_STEP (R84): A run whose expansion condition holds processes its next row or the end of its motif. -/
  | expansionStep (slot : Fin 4)
  /-- RUN_PAUSE_RESUME (R87): At the launch queue's room notice, a paused run sends its NOTE row again. -/
  | runPauseResume (slot : Fin 4)
  /-- RUN_COMPLETE (R95): A DRAINING run with no waiting strikes and all its moves ended becomes FREE and raises SHOW_DONE or MOTIF_DONE. -/
  | runComplete (slot : Fin 4)
  /-- BARRIER_MARK_TIME (R150): When show time reaches a set barrier's mark time, the run becomes HOLDING. -/
  | barrierMarkTime (slot : Fin 4)
  /-- BARRIER_CLEAR (R151): When the awaited moves have ended, the barrier clears and the run expands again, shifted by any hold. -/
  | barrierClear (slot : Fin 4)
  /-- HOLD_DEADLINE (R152): When show time reaches the hold deadline, the barrier is released and LATE_FIGURE is raised. -/
  | holdDeadline (slot : Fin 4)
  /-- MOVE_START_TIME (R148): When show time reaches a move's start time, the move is issued to the figure controller. -/
  | moveStartTime (slot : Fin 4)
  /-- SHOW_ADMISSION (R146): The head of the show queue is admitted: a run is created and its figures are owned. -/
  | showAdmission
  /-- ENTRY_LEAD_JUDGE (R145): When show time reaches an entry time less 300 ms, the head of the show queue is judged. -/
  | entryLeadJudge
  /-- ZONE_GRANT (R107): An arbitration pass grants waiting figures their whole needed zone sets by priority. -/
  | zoneGrant
  /-- FIGURE_SUPPLY_ADMIT (R109): A figure's run current is admitted, and the MOVE or HOME command is requested. -/
  | figureSupplyAdmit (figure : Fin 16)
  /-- ZONE_WAIT_DEADLINE (R108): When the zone wait runs out, the move is abandoned and MOVE_ABANDONED is raised. -/
  | zoneWaitDeadline (figure : Fin 16)
  /-- TRAVEL_DEADLINE (R113): When a MOVING figure's travel deadline is reached, STOP is requested and the figure faults with STALL. -/
  | travelDeadline (figure : Fin 16)
  /-- HOMING_DEADLINE (R121): When a homing's limit is reached first, the figure faults with HOME_FAILED. -/
  | homingDeadline (figure : Fin 16)
  /-- ANSWER_TIMEOUT (R131): When an answer timer runs out, the command is re-sent once, or the board becomes ABSENT. -/
  | answerTimeout (board : Fin 32)
  /-- REJECT_HOLDOFF_END (R130): When a reject holdoff ends, the command becomes waiting again. -/
  | rejectHoldoffEnd (board : Fin 32)
  /-- STATUS_DEADLINE (R133): When a PRESENT board's status deadline is reached, the board becomes ABSENT. -/
  | statusDeadline (board : Fin 32)
  /-- COMMAND_QUEUE_PLACE (R128): When a place in the command queue frees, unplaced commands are offered it in order. -/
  | commandQueuePlace
  /-- CYCLE_RESTART (R157): When show time reaches the cycle's end, the cycle start advances and the show unit is told. -/
  | cycleRestart
  /-- ENTRY_TIME (R157): When show time reaches a schedule entry's time, the list gates take that entry's gates. -/
  | entryTime
  /-- TRIGGER_TIME (R161): When show time reaches a trigger time beyond the watermark, in RUN, the trigger is issued. -/
  | triggerTime
  /-- PENDING_SWITCH_BASE (R165): When show time reaches a pending switch's base, the switch takes effect. -/
  | pendingSwitchBase
  /-- TAIL_PORT_FREE (R18): When the tail port becomes free, it starts a strike, command or pass frame by priority. -/
  | tailPortFree
  /-- HEAD_PORT_FREE (R22): When the head port becomes free, it starts a response, event report or pass frame. -/
  | headPortFree
  /-- PENDING_RESPONSE_PLACE (R20): When the head report queue frees a place, the pending response takes it. -/
  | pendingResponsePlace
  /-- EVENT_REPORT_FORM (R21): Up to four event records are formed into one event report that joins the head report queue. -/
  | eventReportForm
  deriving DecidableEq, Repr

end Sys2Proof
end

