-- ==== Sys2Proof/Decode.lean ====
section
/-! DEFINITION. Decoding of table words. No row of spec/opcode_table.json gives bits ("n_rows_with_fields": 0 in
spec/98_reader.md), so no word spells a command. Frames are read in Sys2Proof/Machine/Frames.lean and
Sys2Proof/Machine/Operands.lean. -/

namespace Sys2Proof

/-- The command a word spells by the table's bits: none, for every word. -/
def decodeTableWord (_nbits _w : Nat) : Option Instr := none

end Sys2Proof
end

