-- ==== Sys2Proof/Machine/Bytes.lean ====
section
/-! DEFINITION. Byte order, field reading and the CRC of the link (R13, R176, and 6.3 of spec/00). -/

namespace Sys2Proof.Machine

/-- The low byte of a number. -/
def byteOf (n : Nat) : Byte := BitVec.ofNat 8 n

/-- `k` bytes of a number, least significant byte first (R176). -/
def leBytes : Nat → Nat → List Byte
  | 0, _ => []
  | k + 1, n => byteOf n :: leBytes k (n / 256)

/-- The number whose bytes are given, least significant byte first (R176). -/
def leNat : List Byte → Nat
  | [] => 0
  | b :: bs => b.toNat + 256 * leNat bs

/-- `k` bytes of a signed value in two's complement, least significant byte first (R176). A show time is
encoded so in 6 bytes (log entry 9). -/
def leInt (k : Nat) (z : Int) : List Byte := leBytes k (z % (256 ^ k : Nat)).toNat

/-- The number in the `k` bytes of `d` from byte `o` on (R176). -/
def numAt (k : Nat) (d : List Byte) (o : Nat) : Nat := leNat ((d.drop o).take k)

/-- The one-byte number at byte `o`. -/
def u8 (d : List Byte) (o : Nat) : Nat := numAt 1 d o

/-- The two-byte number at byte `o`. -/
def u16 (d : List Byte) (o : Nat) : Nat := numAt 2 d o

/-- The four-byte number at byte `o`. -/
def u32 (d : List Byte) (o : Nat) : Nat := numAt 4 d o

/-- The show time at byte `o`: 6 bytes (R176). -/
def u48 (d : List Byte) (o : Nat) : Nat := numAt 6 d o

/-- The flag at byte `o`: "A flag byte is set when it is not 0" (R176). -/
def flagAt (d : List Byte) (o : Nat) : Bool := u8 d o != 0

/-- The signed byte at byte `o`, in two's complement (R176). -/
def s8 (d : List Byte) (o : Nat) : Int := if u8 d o < 128 then u8 d o else (u8 d o : Int) - 256

/-- A yes-or-no field as a byte (R177). Yes is sent as 1 (the model's choice, log entry 51). -/
def boolByte (b : Bool) : Byte := if b then 1 else 0

/-- One bit through the CRC register (R13). -/
def crcBit (r : BitVec 16) (b : Bool) : BitVec 16 :=
  if b != r.msb then (r <<< 1) ^^^ 0x1021#16 else r <<< 1

/-- One byte through the CRC register, least significant bit first (R13). -/
def crcByte (r : BitVec 16) (b : Byte) : BitVec 16 :=
  [0, 1, 2, 3, 4, 5, 6, 7].foldl (fun r i => crcBit r (b.getLsbD i)) r

/-- The CRC of a run of bytes, from 0xFFFF and without final inversion (R13). -/
def crc16 (bs : List Byte) : BitVec 16 := bs.foldl crcByte 0xFFFF#16

/-- A number below `n` as an index, if it is one. -/
def fin? (n k : Nat) : Option (Fin n) := if h : k < n then some ⟨k, h⟩ else none

/-- `x` clamped to `lo` to `hi` (spec/00, 6.4). -/
def clamp (lo hi x : Nat) : Nat := if x < lo then lo else if hi < x then hi else x

/-- A signed `x` clamped to `lo` to `hi` (spec/00, 6.4). -/
def clampInt (lo hi x : Int) : Int := if x < lo then lo else if hi < x then hi else x

/-- A counter of the given width after a rise of `n`: it saturates at its largest value (R10, R36, R75). -/
def satAdd (bits n c : Nat) : Nat := min (c + n) (2 ^ bits - 1)

/-- A 32-bit saturating counter after a rise of one. -/
def inc32 (c : Nat) : Nat := satAdd 32 1 c

/-- A 16-bit saturating counter after a rise of one (Tables 5.3, 6.2 and 7.2). -/
def inc16 (c : Nat) : Nat := satAdd 16 1 c

/-- All indices below `n`, in rising order. -/
def indices (n : Nat) : List (Fin n) := List.finRange n

end Sys2Proof.Machine
end

