-- ==== Sys2Proof/Machine/Frames.lean ====
section
/-! DEFINITION. The frame of the link: its fields, the three checks at reception, the forming of a frame
(spec/02, 2.1; R12, R13, R17). -/

namespace Sys2Proof.Machine

/-- The frame kinds of Table 2.2. -/
def kindCue : Nat := 0x21
def kindBeacon : Nat := 0x22
def kindQuiet : Nat := 0x23
def kindMgmtRequest : Nat := 0x30
def kindReport : Nat := 0x31
def kindStrike : Nat := 0x40
def kindBoardCommand : Nat := 0x41
def kindBoardAnswer : Nat := 0x42
def kindBoardStatus : Nat := 0x43

/-- DEST is byte 0 of a frame (Table 10.5). -/
def frameDest (f : List Byte) : Byte := f.getD 0 0
/-- SRC is byte 1. -/
def frameSrc (f : List Byte) : Byte := f.getD 1 0
/-- KIND is byte 2. -/
def frameKind (f : List Byte) : Nat := u8 f 2
/-- LEN is byte 3. -/
def frameLen (f : List Byte) : Nat := u8 f 3
/-- The payload is bytes 4 to LEN + 3. -/
def framePayload (f : List Byte) : List Byte := (f.drop 4).take (frameLen f)

/-- What the checks at reception find (R12). -/
inductive Reception where
  | malformed
  | crcError
  | arrived
  deriving DecidableEq, Repr

/-- The three checks of R12 on the bytes received, in order. -/
def reception (f : List Byte) : Reception :=
  if f.length < 6 ∨ 62 < f.length then .malformed
  else if 56 < frameLen f ∨ f.length ≠ frameLen f + 6 then .malformed
  else if leNat (f.drop (f.length - 2)) = (crc16 (f.take (f.length - 2))).toNat then .arrived
  else .crcError

/-- The blocks the fixed path hands a frame to, by its KIND and the port it arrived at (R15). -/
inductive FixedBlock where
  | management
  | cues
  | clock
  | calendar
  | boardAnswer
  | boardStatus
  deriving DecidableEq, Repr

/-- The table of R15: the block that takes a frame addressed to the engine, or none (UNKNOWN_KIND). -/
def fixedBlock (port : Port) (kind : Nat) : Option FixedBlock :=
  match port with
  | .head =>
    if kind = kindMgmtRequest then some .management
    else if kind = kindCue then some .cues
    else if kind = kindBeacon then some .clock
    else if kind = kindQuiet then some .calendar
    else none
  | .tail =>
    if kind = kindBoardAnswer then some .boardAnswer
    else if kind = kindBoardStatus then some .boardStatus
    else none

/-- A frame the engine forms: header, payload and CRC, low byte first (R13, R17). -/
def formFrame (dest src : Byte) (kind : Nat) (payload : List Byte) : List Byte :=
  let body := [dest, src, byteOf kind, byteOf payload.length] ++ payload
  body ++ leBytes 2 (crc16 body).toNat

end Sys2Proof.Machine
end

