-- ==== Sys2Proof/Machine/Records.lean ====
section
/-! DEFINITION. The records of the engine's tables and the enumerations they use, with their power-on
values (spec/02 to spec/10). A field that is an index of another table is of that table's index type. -/

namespace Sys2Proof.Machine

/-! Parse table (spec/02, Tables 2.4 and 2.5). -/

/-- Direction filter of a parse entry. -/
inductive DirFilter where
  | outbound
  | inbound
  | both
  deriving DecidableEq, Repr

/-- The test of a parse entry (R28). -/
inductive Comparison where
  | equal
  | notEqual
  | atMost
  | atLeast
  deriving DecidableEq, Repr

/-- The levels of a quiet override. -/
inductive QuietLevel where
  | bells
  | all
  deriving DecidableEq, Repr

/-- The action of a verdict; QUIET alone carries a level and a hold (Table 2.5). -/
inductive Action where
  | none
  | cue
  | beacon
  | quiet (level : QuietLevel) (hold : Nat)
  | board
  deriving DecidableEq, Repr

/-- A verdict (Table 2.5). -/
structure Verdict where
  action : Action
  forward : Bool
  deriving DecidableEq, Repr

/-- An outcome of a parse entry: the index of a later entry, or a verdict. -/
inductive ParseOutcome where
  | next (n : Nat)
  | verdict (v : Verdict)
  deriving DecidableEq, Repr

/-- The verdict with action NONE and forward yes, the power-on outcome everywhere (R24). -/
def Verdict.pass : Verdict := { action := .none, forward := true }

/-- A parse table entry (Table 2.4). -/
structure ParseEntry where
  filter : DirFilter
  rightmost : Nat
  width : Nat
  mask : BitVec 16
  matchValue : BitVec 16
  comparison : Comparison
  onTrue : ParseOutcome
  onFalse : ParseOutcome
  deriving DecidableEq, Repr

/-- The power-on parse entry (R24). -/
def ParseEntry.initial : ParseEntry :=
  { filter := .both, rightmost := 0, width := 0, mask := 0, matchValue := 0, comparison := .equal,
    onTrue := .verdict Verdict.pass, onFalse := .verdict Verdict.pass }

/-! Bells (spec/03, Tables 3.2 and 3.3). -/

/-- Velocity curve of a bell (R46). -/
inductive Curve where
  | linear
  | square
  deriving DecidableEq, Repr

/-- A bell record (Table 3.2). -/
structure BellRec where
  enabled : Bool
  board : Fin 32
  channel : Fin 16
  curve : Curve
  pulseMin : Nat
  pulseMax : Nat
  pulseCeiling : Nat
  flightSoft : Nat
  flightLoud : Nat
  recovery : Nat
  coilCurrent : Nat
  heatLimit : Nat
  coolRate : Nat
  deriving DecidableEq, Repr

/-- The power-on bell record (Table 3.2). -/
def BellRec.initial : BellRec :=
  { enabled := false, board := 0, channel := 0, curve := .linear, pulseMin := 200, pulseMax := 200,
    pulseCeiling := 200, flightSoft := 0, flightLoud := 0, recovery := 20, coilCurrent := 100,
    heatLimit := 1000, coolRate := 0 }

/-- The state of a bell (Table 3.3). -/
structure BellState where
  heat : Nat
  heatAt : Time
  lastFire : Option Time
  unavailable : Bool
  deriving DecidableEq, Repr

/-- A bell's state at a power-on or an ENGINE_RESET at show time `now` (R40). -/
def BellState.initial (now : Time) : BellState :=
  { heat := 0, heatAt := now, lastFire := none, unavailable := false }

/-! Motif store (spec/05, Tables 5.1 and 5.2). -/

/-- A motif directory entry (Table 5.1). -/
structure MotifDir where
  firstRow : Nat
  rowCount : Nat
  deriving DecidableEq, Repr

/-- The power-on directory entry (R78). -/
def MotifDir.initial : MotifDir := { firstRow := 0, rowCount := 0 }

/-- A row of the row store (Table 5.2). -/
inductive Row where
  | note (bell : Fin 48) (velocity delta : Nat)
  | rest (delta : Nat)
  | nest (motif : Fin 64) (times : Nat) (transpose : Int) (scale : Nat)
  | mark (mark : Fin 16)
  deriving DecidableEq, Repr

/-! Figures (spec/06, Table 6.1). -/

/-- How a figure's positions are read. -/
inductive FigKind where
  | linear
  | rotary
  deriving DecidableEq, Repr

/-- A zone span of a figure record. -/
structure ZoneSpan where
  zone : Fin 24
  lo : Nat
  hi : Nat
  deriving DecidableEq, Repr

/-- A figure record (Table 6.1). -/
structure FigRec where
  enabled : Bool
  board : Fin 32
  channel : Fin 4
  kind : FigKind
  span : Nat
  softLo : Nat
  softHi : Nat
  home : Nat
  maxSpeed : Nat
  runCurrent : Nat
  priority : Nat
  tolerance : Nat
  spans : List ZoneSpan
  deriving DecidableEq, Repr

/-- The power-on figure record (Table 6.1). -/
def FigRec.initial : FigRec :=
  { enabled := false, board := 0, channel := 0, kind := .linear, span := 1, softLo := 0, softHi := 1,
    home := 0, maxSpeed := 1, runCurrent := 100, priority := 0, tolerance := 0, spans := [] }

/-! Boards and supply groups (spec/07, Tables 7.1 and 7.5). -/

/-- The kind of a driver board. -/
inductive BoardKind where
  | bell
  | motion
  deriving DecidableEq, Repr

/-- A board record (Table 7.1). -/
structure BoardRec where
  enabled : Bool
  address : Byte
  kind : BoardKind
  group : Fin 4
  deriving DecidableEq, Repr

/-- The power-on board record (Table 7.1). -/
def BoardRec.initial : BoardRec := { enabled := false, address := 0, kind := .bell, group := 0 }

/-- A supply group record (Table 7.5). -/
structure GroupRec where
  limit : Nat
  reserve : Nat
  deriving DecidableEq, Repr

/-- The power-on group record (Table 7.5). -/
def GroupRec.initial : GroupRec := { limit := 1000, reserve := 0 }

/-- A channel entry of a MOTION board's status (R112). -/
structure ChanReport where
  position : Nat
  moving : Bool
  arrived : Bool
  homed : Bool
  overcurrent : Bool
  limit : Bool
  deriving DecidableEq, Repr

/-- A cleared channel entry (Table 7.2). -/
def ChanReport.clear : ChanReport :=
  { position := 0, moving := false, arrived := false, homed := false, overcurrent := false, limit := false }

/-! Shows (spec/08, Tables 8.1 and 8.2). -/

/-- The gates a show needs. -/
inductive GateNeed where
  | bells
  | figures
  | both
  deriving DecidableEq, Repr

/-- A show record (Table 8.1). -/
structure ShowRec where
  enabled : Bool
  topMotif : Fin 64
  tempo : Nat
  declaredLength : Nat
  need : GateNeed
  firstMove : Nat
  moveCount : Nat
  grace : Nat
  deriving DecidableEq, Repr

/-- The power-on show record (Table 8.1). -/
def ShowRec.initial : ShowRec :=
  { enabled := false, topMotif := 0, tempo := 100, declaredLength := 1000, need := .both,
    firstMove := 0, moveCount := 0, grace := 0 }

/-- The way round of a move (Table 8.2, R103). -/
inductive Way where
  | forward
  | backward
  | shorter
  deriving DecidableEq, Repr

/-- A move entry (Table 8.2). -/
structure MoveEntry where
  figure : Fin 16
  target : Nat
  speedPercent : Nat
  way : Way
  startMark : Fin 16
  startDelay : Nat
  arriveMark : Option (Fin 16)
  deriving DecidableEq, Repr

/-- The power-on move entry (Table 8.2). -/
def MoveEntry.initial : MoveEntry :=
  { figure := 0, target := 0, speedPercent := 100, way := .shorter, startMark := 0, startDelay := 0,
    arriveMark := none }

/-! Calendar (spec/09, Tables 9.1 and 9.2). -/

/-- A gate of the calendar. -/
inductive Gate where
  | opened
  | closed
  deriving DecidableEq, Repr

/-- The count source of a trigger (R160). -/
inductive CountSource where
  | none
  | hour12
  | hour24
  | fixed (n : Nat)
  deriving DecidableEq, Repr

/-- A trigger of a schedule entry; the vector is stored as written (Table 9.2). -/
structure Trigger where
  vector : Nat
  source : CountSource
  deriving DecidableEq, Repr

/-- A schedule entry (Table 9.2). -/
structure SchedEntry where
  offset : Nat
  bellGate : Gate
  figureGate : Gate
  trigger : Option Trigger
  deriving DecidableEq, Repr

/-- The power-on schedule entry (Table 9.2). -/
def SchedEntry.initial : SchedEntry :=
  { offset := 0, bellGate := .opened, figureGate := .opened, trigger := none }

/-- A schedule bank: its header (Table 9.1) and 64 entries. -/
structure Bank where
  base : Time
  cycle : Nat
  count : Nat
  entries : Vector SchedEntry 64
  deriving DecidableEq, Repr

/-- The power-on bank (R155). -/
def Bank.initial : Bank :=
  { base := 0, cycle := 86400000, count := 0, entries := Vector.replicate 64 SchedEntry.initial }

/-! Settings (spec/10, Table 10.2). -/

/-- The settings record (Table 10.2). The classifier settings of R24 are four of its fields. -/
structure Settings where
  vnom : Nat
  expiry : Nat
  lookahead : Nat
  lead : Nat
  catchUp : Nat
  starvation : Nat
  zoneWait : Nat
  strikeGuard : Nat
  reportDest : Byte
  fallback : Verdict
  stepLimit : Nat
  liveEntries : Nat
  answerTimeout : Nat
  rejectHoldoff : Nat
  retries : Nat
  statusTimeout : Nat
  homeOnRun : Bool
  deriving DecidableEq, Repr

/-- The power-on settings (Table 10.2). -/
def Settings.initial : Settings :=
  { vnom := 24000, expiry := 10, lookahead := 1500, lead := 2000, catchUp := 300000, starvation := 2,
    zoneWait := 30000, strikeGuard := 1, reportDest := 0, fallback := Verdict.pass, stepLimit := 48,
    liveEntries := 0, answerTimeout := 10, rejectHoldoff := 20, retries := 3, statusTimeout := 250,
    homeOnRun := false }

end Sys2Proof.Machine
end

