-- ==== Sys2Proof/Machine/Operands.lean ====
section
/-! DEFINITION. The operand forms: every payload the engine receives, read by the layouts of R176, R177 and
Table 10.5 into a typed operand. A reader answers `none` for a payload shorter than its layout. -/

namespace Sys2Proof.Machine

/-! Beacons and QUIET frames. -/

/-- The BEACON payload: day and millisecond of the day (Table 10.5). -/
def readBeacon (p : List Byte) : Option (Nat × Nat) :=
  if p.length < 6 then none else some (u16 p 0, u32 p 2)

/-- A QUIET level as sent: CLEAR, or a level of the override. -/
inductive QuietRequest where
  | clear
  | level (l : QuietLevel)
  deriving DecidableEq, Repr

/-- The QUIET level codes: 0 CLEAR, 1 BELLS, 2 ALL (Table 10.5). -/
def quietRequestOf (n : Nat) : Option QuietRequest :=
  if n = 0 then some .clear else if n = 1 then some (.level .bells) else if n = 2 then some (.level .all) else none

/-- The QUIET payload, or `none` for one that R158 ignores: too short, or of an unknown level. -/
def readQuiet (p : List Byte) : Option (QuietRequest × Nat) :=
  if p.length < 5 then none else (quietRequestOf (u8 p 0)).map (fun q => (q, u32 p 1))

/-! Board frames. -/

/-- The BOARD_ANSWER payload: the tag, and whether the verdict is ACK (R130, Table 10.5). -/
def readAnswer (p : List Byte) : Option (Byte × Bool) :=
  if p.length < 2 then none
  else if u8 p 1 = 0 then some (p.getD 0 0, true)
  else if u8 p 1 = 1 then some (p.getD 0 0, false)
  else none

/-- The BOARD_STATUS payload of a BELL board: rail and 16 coil fault flags. -/
def readBellStatus (p : List Byte) : Option (Nat × Vector Bool 16) :=
  if p.length < 18 then none else some (u16 p 0, Vector.ofFn (fun i : Fin 16 => flagAt p (2 + i.val)))

/-- The entry of a MOTION status at byte `o`. -/
def chanReportAt (p : List Byte) (o : Nat) : ChanReport :=
  { position := u16 p o, moving := flagAt p (o + 2), arrived := flagAt p (o + 3), homed := flagAt p (o + 4),
    overcurrent := flagAt p (o + 5), limit := flagAt p (o + 6) }

/-- The BOARD_STATUS payload of a MOTION board: rail and four channel entries. -/
def readMotionStatus (p : List Byte) : Option (Nat × Vector ChanReport 4) :=
  if p.length < 30 then none else some (u16 p 0, Vector.ofFn (fun i : Fin 4 => chanReportAt p (2 + 7 * i.val)))

/-! Cues (Table 10.5). -/

/-- One entry of a STRIKE cue. -/
structure CueStrike where
  bell : Nat
  velocity : Nat
  offset : Nat
  deriving DecidableEq, Repr

/-- A cue that can be read (R173, R174). Times of 0 stand for "as soon as possible". -/
inductive Cue where
  | strike (base : Nat) (entries : List CueStrike)
  | motifPlay (motif anchor tempo : Nat) (transpose : Int) (scale count : Nat)
  | showStart (showId anchor tempo count : Nat)
  | showStop (showId : Nat)
  | figureGo (figure target speedPercent : Nat) (way : Way)
  | allStop
  deriving DecidableEq, Repr

/-- The codes of a way round: 0 FORWARD, 1 BACKWARD, 2 SHORTER (Table 10.5). -/
def wayOf (n : Nat) : Option Way :=
  if n = 0 then some .forward else if n = 1 then some .backward else if n = 2 then some .shorter else none

/-- The entry of a STRIKE cue at byte `o`. -/
def cueStrikeAt (p : List Byte) (o : Nat) : CueStrike :=
  { bell := u8 p o, velocity := u8 p (o + 1), offset := u16 p (o + 2) }

/-- A cue payload, or `none` for one that cannot be read (R173, step 2). -/
def readCue (p : List Byte) : Option Cue :=
  match p with
  | [] => none
  | _ =>
    if u8 p 0 = 1 then
      if p.length < 8 ∨ 8 < u8 p 7 ∨ p.length < 8 + 4 * u8 p 7 then none
      else some (.strike (u48 p 1) ((List.range (u8 p 7)).map (fun i => cueStrikeAt p (8 + 4 * i))))
    else if u8 p 0 = 2 then
      if p.length < 12 then none
      else some (.motifPlay (u8 p 1) (u48 p 2) (u8 p 8) (s8 p 9) (u8 p 10) (u8 p 11))
    else if u8 p 0 = 3 then
      if p.length < 10 then none else some (.showStart (u8 p 1) (u48 p 2) (u8 p 8) (u8 p 9))
    else if u8 p 0 = 4 then
      if p.length < 2 then none else some (.showStop (u8 p 1))
    else if u8 p 0 = 5 then
      if p.length < 6 then none else (wayOf (u8 p 5)).map (fun w => .figureGo (u8 p 1) (u16 p 2) (u8 p 4) w)
    else if u8 p 0 = 6 then some .allStop
    else none

/-- Whether a cue carries an absolute time (R173, step 3). -/
def Cue.timed : Cue → Bool
  | .strike base _ => base != 0
  | .motifPlay _ anchor _ _ _ _ => anchor != 0
  | .showStart _ anchor _ _ => anchor != 0
  | .showStop _ => false
  | .figureGo _ _ _ _ => false
  | .allStop => false

/-! Records in WRITE_RECORD (R177). Each reader takes the record bytes `d`; the outer `none` is data shorter
than the table's encoding (BAD_REQUEST), the inner `none` a field outside its range (BAD_VALUE). -/

/-- A condition as an `Option`, for a chain of range checks. -/
def check (p : Bool) : Option Unit := if p then some () else none

/-- A verdict's action with its quiet level and hold (R25; level codes 1 BELLS, 2 ALL, log entry 20). -/
def actionOf (code level hold : Nat) : Option Action :=
  if code = 0 then some .none
  else if code = 1 then some .cue
  else if code = 2 then some .beacon
  else if code = 3 then
    if hold = 0 ∨ 600000 < hold then none
    else if level = 1 then some (.quiet .bells hold)
    else if level = 2 then some (.quiet .all hold)
    else none
  else if code = 4 then some .board
  else none

/-- The verdict at byte `o`: action, forward, quiet level, quiet hold, 7 bytes (R177). -/
def verdictAt (d : List Byte) (o : Nat) : Option Verdict :=
  (actionOf (u8 d o) (u8 d (o + 2)) (u32 d (o + 3))).map (fun a => { action := a, forward := flagAt d (o + 1) })

/-- What an outcome field of a parse entry reads as, with its size. -/
inductive OutcomeField where
  | short
  | badKind
  | field (size : Nat) (value : Option ParseOutcome)
  deriving DecidableEq, Repr

/-- The outcome at byte `o` of the data for entry `index`: a kind byte, then n or a verdict (R25, R177). A kind byte
that is neither leaves the outcome's length unknown: the record is BAD_VALUE, and its length is checked no further (the
model's choice, log entry 24). -/
def outcomeAt (index : Nat) (d : List Byte) (o : Nat) : OutcomeField :=
  if d.length < o + 1 then .short
  else if u8 d o = 0 then
    if d.length < o + 2 then .short
    else .field 2 (if index < u8 d (o + 1) ∧ u8 d (o + 1) ≤ 47 then some (.next (u8 d (o + 1))) else none)
  else if u8 d o = 1 then
    if d.length < o + 8 then .short
    else .field 8 ((verdictAt d (o + 1)).map .verdict)
  else .badKind

def dirFilterOf (n : Nat) : Option DirFilter :=
  if n = 0 then some .outbound else if n = 1 then some .inbound else if n = 2 then some .both else none

def comparisonOf (n : Nat) : Option Comparison :=
  if n = 0 then some .equal else if n = 1 then some .notEqual
  else if n = 2 then some .atMost else if n = 3 then some .atLeast else none

/-- The fields of a parse entry before its outcomes, checked by R25. -/
def parseEntryOf (d : List Byte) (onTrue onFalse : Option ParseOutcome) : Option ParseEntry := do
  let filter ← dirFilterOf (u8 d 0)
  check (u8 d 2 ≤ 16)
  let comparison ← comparisonOf (u8 d 7)
  let t ← onTrue
  let f ← onFalse
  pure { filter := filter, rightmost := u8 d 1, width := u8 d 2, mask := BitVec.ofNat 16 (u16 d 3),
         matchValue := BitVec.ofNat 16 (u16 d 5), comparison := comparison, onTrue := t, onFalse := f }

/-- A PARSE record for entry `index` (Table 2.4, R25). -/
def readParse (index : Nat) (d : List Byte) : Option (Option ParseEntry) :=
  if d.length < 8 then none
  else match outcomeAt index d 8 with
    | .short => none
    | .badKind => some none
    | .field n t => match outcomeAt index d (8 + n) with
      | .short => none
      | .badKind => some none
      | .field _ f => some (parseEntryOf d t f)

def curveOf (n : Nat) : Option Curve :=
  if n = 0 then some .linear else if n = 1 then some .square else none

/-- The fields of a bell record, checked by Table 3.2 and R39. -/
def bellRecOf (d : List Byte) : Option BellRec := do
  let board ← fin? 32 (u8 d 1)
  let channel ← fin? 16 (u8 d 2)
  let curve ← curveOf (u8 d 3)
  check (200 ≤ u16 d 4 ∧ u16 d 4 ≤ 20000)
  check (u16 d 4 ≤ u16 d 6 ∧ u16 d 6 ≤ 20000)
  check (u16 d 6 ≤ u16 d 8 ∧ u16 d 8 ≤ 20000)
  check (u8 d 10 ≤ 250 ∧ u8 d 11 ≤ u8 d 10)
  check (20 ≤ u16 d 12 ∧ u16 d 12 ≤ 2000)
  check (100 ≤ u16 d 14 ∧ u16 d 14 ≤ 10000)
  check (1000 ≤ u32 d 16 ∧ u32 d 16 ≤ 200000)
  check (u32 d 20 ≤ 100000)
  pure { enabled := flagAt d 0, board := board, channel := channel, curve := curve,
         pulseMin := u16 d 4, pulseMax := u16 d 6, pulseCeiling := u16 d 8,
         flightSoft := u8 d 10, flightLoud := u8 d 11, recovery := u16 d 12,
         coilCurrent := u16 d 14, heatLimit := u32 d 16, coolRate := u32 d 20 }

/-- A BELL record (Table 3.2). -/
def readBell (d : List Byte) : Option (Option BellRec) :=
  if d.length < 24 then none else some (bellRecOf d)

/-- A MOTIF_DIR record (Table 5.1, R78). -/
def readMotifDir (d : List Byte) : Option (Option MotifDir) :=
  if d.length < 4 then none
  else some (if u16 d 0 ≤ 1023 ∧ u16 d 2 ≤ 1024 ∧ u16 d 0 + u16 d 2 ≤ 1024
    then some { firstRow := u16 d 0, rowCount := u16 d 2 } else none)

/-- A NOTE row's fields. -/
def noteOf (d : List Byte) : Option Row := do
  let bell ← fin? 48 (u8 d 1)
  check (1 ≤ u8 d 2 ∧ u8 d 2 ≤ 127)
  pure (.note bell (u8 d 2) (u16 d 3))

/-- A NEST row's fields. -/
def nestOf (d : List Byte) : Option Row := do
  let motif ← fin? 64 (u8 d 1)
  check (-24 ≤ s8 d 3 ∧ s8 d 3 ≤ 24)
  check (1 ≤ u8 d 4 ∧ u8 d 4 ≤ 128)
  pure (.nest motif (u8 d 2) (s8 d 3) (u8 d 4))

/-- A MOTIF_ROW record: the kind, then that kind's fields (Table 5.2, R79; log entry 19). A kind above 3 has
no length of its own, and its record is read whatever its length is (the model's choice, log entry 24). -/
def readRow (d : List Byte) : Option (Option Row) :=
  if d.length < 1 then none
  else if u8 d 0 = 0 then if d.length < 5 then none else some (noteOf d)
  else if u8 d 0 = 1 then if d.length < 3 then none else some (some (.rest (u16 d 1)))
  else if u8 d 0 = 2 then if d.length < 5 then none else some (nestOf d)
  else if u8 d 0 = 3 then if d.length < 2 then none else some ((fin? 16 (u8 d 1)).map .mark)
  else some none

def gateNeedOf (n : Nat) : Option GateNeed :=
  if n = 0 then some .bells else if n = 1 then some .figures else if n = 2 then some .both else none

/-- The fields of a show record, checked by Table 8.1 (R139). -/
def showRecOf (d : List Byte) : Option ShowRec := do
  let top ← fin? 64 (u8 d 1)
  check (50 ≤ u8 d 2 ∧ u8 d 2 ≤ 200)
  check (1000 ≤ u32 d 3 ∧ u32 d 3 ≤ 1800000)
  let need ← gateNeedOf (u8 d 7)
  check (u16 d 8 ≤ 511 ∧ u8 d 10 ≤ 32 ∧ u16 d 8 + u8 d 10 ≤ 512)
  check (u16 d 11 ≤ 60000)
  pure { enabled := flagAt d 0, topMotif := top, tempo := u8 d 2, declaredLength := u32 d 3, need := need,
         firstMove := u16 d 8, moveCount := u8 d 10, grace := u16 d 11 }

/-- A SHOW record (Table 8.1). -/
def readShow (d : List Byte) : Option (Option ShowRec) :=
  if d.length < 13 then none else some (showRecOf d)

/-- An optional index: a presence byte, then the index (R177). A presence byte that is not 0 reads as present, as R176
reads a flag byte (log entry 44). -/
def optFinAt (n : Nat) (d : List Byte) (o : Nat) : Option (Option (Fin n)) :=
  if flagAt d o then (fin? n (u8 d (o + 1))).map some else some none

/-- The fields of a move entry, checked by Table 8.2 (R140). -/
def moveEntryOf (d : List Byte) : Option MoveEntry := do
  let figure ← fin? 16 (u8 d 0)
  check (1 ≤ u8 d 3 ∧ u8 d 3 ≤ 100)
  let way ← wayOf (u8 d 4)
  let startMark ← fin? 16 (u8 d 5)
  let arriveMark ← optFinAt 16 d 8
  pure { figure := figure, target := u16 d 1, speedPercent := u8 d 3, way := way, startMark := startMark,
         startDelay := u16 d 6, arriveMark := arriveMark }

/-- A MOVE record (Table 8.2). -/
def readMove (d : List Byte) : Option (Option MoveEntry) :=
  if d.length < 10 then none else some (moveEntryOf d)

/-- A VECTOR record: an optional show id (R156; log entry 21). -/
def readVector (d : List Byte) : Option (Option (Option (Fin 32))) :=
  if d.length < 2 then none else some (optFinAt 32 d 0)

def gateOf (n : Nat) : Option Gate :=
  if n = 0 then some .opened else if n = 1 then some .closed else none

/-- A count source and its number (R155; log entry 19). -/
def countSourceOf (code n : Nat) : Option CountSource :=
  if code = 0 then some .none else if code = 1 then some .hour12
  else if code = 2 then some .hour24 else if code = 3 then some (.fixed n) else none

/-- The fields of a schedule entry (Table 9.2, R155). Its trigger is present when the presence byte is not 0 (log entry
44). -/
def schedEntryOf (d : List Byte) : Option SchedEntry := do
  let bellGate ← gateOf (u8 d 4)
  let figureGate ← gateOf (u8 d 5)
  let trigger ← if flagAt d 6 then (countSourceOf (u8 d 8) (u8 d 9)).map (fun c => some { vector := u8 d 7, source := c })
                else some none
  pure { offset := u32 d 0, bellGate := bellGate, figureGate := figureGate, trigger := trigger }

/-- What a write of table SCHEDULE_SHADOW carries: an entry, the header's cycle and entry count, or an index
above 64 (R155). -/
inductive ScheduleItem where
  | entry (index : Fin 64) (e : Option SchedEntry)
  | header (h : Option (Nat × Nat))
  | badIndex
  deriving DecidableEq, Repr

/-- A SCHEDULE_SHADOW record for the index. The header is base, cycle, entry count; its base is not stored. -/
def readSchedule (index : Nat) (d : List Byte) : Option ScheduleItem :=
  if h : index < 64 then
    if d.length < 10 then none else some (.entry ⟨index, h⟩ (schedEntryOf d))
  else if index = 64 then
    if d.length < 11 then none
    else some (.header (if u8 d 10 ≤ 64 then some (u32 d 6, u8 d 10) else none))
  else some .badIndex

def figKindOf (n : Nat) : Option FigKind :=
  if n = 0 then some .linear else if n = 1 then some .rotary else none

/-- Whether `p` is a position of a figure of the kind and span (Table 6.1). -/
def isPosition (kind : FigKind) (span p : Nat) : Bool :=
  match kind with
  | .linear => p ≤ span
  | .rotary => p < span

/-- The zone span at byte `o` of a figure of the kind and span (R100). -/
def zoneSpanAt (kind : FigKind) (span : Nat) (d : List Byte) (o : Nat) : Option ZoneSpan := do
  let zone ← fin? 24 (u8 d o)
  let lo := u16 d (o + 1)
  let hi := u16 d (o + 3)
  check (isPosition kind span lo && isPosition kind span hi)
  check (kind = .rotary ∨ lo ≤ hi)
  pure { zone := zone, lo := lo, hi := hi }

/-- The least span of a kind (Table 6.1). -/
def spanLeast (kind : FigKind) : Nat :=
  match kind with
  | .linear => 1
  | .rotary => 2

/-- The fields of a figure record, checked by Table 6.1 and R100. -/
def figRecOf (d : List Byte) : Option FigRec := do
  let board ← fin? 32 (u8 d 1)
  let channel ← fin? 4 (u8 d 2)
  let kind ← figKindOf (u8 d 3)
  let span := u16 d 4
  check (spanLeast kind ≤ span)
  check (u16 d 6 ≤ u16 d 8 ∧ u16 d 8 ≤ span)
  check (isPosition kind span (u16 d 10))
  check (1 ≤ u16 d 12 ∧ u16 d 12 ≤ 20000)
  check (100 ≤ u16 d 14 ∧ u16 d 14 ≤ 20000)
  check (u8 d 16 ≤ 15)
  let spans ← (List.range (u8 d 18)).mapM (fun i => zoneSpanAt kind span d (19 + 5 * i))
  pure { enabled := flagAt d 0, board := board, channel := channel, kind := kind, span := span,
         softLo := u16 d 6, softHi := u16 d 8, home := u16 d 10, maxSpeed := u16 d 12,
         runCurrent := u16 d 14, priority := u8 d 16, tolerance := u8 d 17, spans := spans }

/-- A FIGURE record (Table 6.1): 18 bytes, then the count of zone spans and the spans. A count above 4 is BAD_VALUE
whether or not the data holds as many spans (the model's choice, log entry 24). -/
def readFigure (d : List Byte) : Option (Option FigRec) :=
  if d.length < 19 then none
  else if 4 < u8 d 18 then some none
  else if d.length < 19 + 5 * u8 d 18 then none
  else some (figRecOf d)

def boardKindOf (n : Nat) : Option BoardKind :=
  if n = 0 then some .bell else if n = 1 then some .motion else none

/-- The fields of a board record, checked by Table 7.1. -/
def boardRecOf (d : List Byte) : Option BoardRec := do
  check (u8 d 1 ≤ 254)
  let kind ← boardKindOf (u8 d 2)
  let group ← fin? 4 (u8 d 3)
  pure { enabled := flagAt d 0, address := byteOf (u8 d 1), kind := kind, group := group }

/-- A BOARD record (Table 7.1). -/
def readBoard (d : List Byte) : Option (Option BoardRec) :=
  if d.length < 4 then none else some (boardRecOf d)

/-- A GROUP record (Table 7.5, R136). -/
def readGroup (d : List Byte) : Option (Option GroupRec) :=
  if d.length < 4 then none
  else some (if 1000 ≤ u16 d 0 ∧ u16 d 0 ≤ 60000 ∧ u16 d 2 ≤ u16 d 0
    then some { limit := u16 d 0, reserve := u16 d 2 } else none)

/-- The fields of the settings record, checked by Table 10.2 and, for the fallback verdict, by R25. -/
def settingsOf (d : List Byte) : Option Settings := do
  check (6000 ≤ u16 d 0 ∧ u16 d 0 ≤ 48000)
  check (u8 d 2 ≤ 50)
  check (200 ≤ u16 d 3 ∧ u16 d 3 ≤ 5000)
  check (500 ≤ u16 d 5 ∧ u16 d 5 ≤ 10000)
  check (u32 d 7 ≤ 1800000)
  check (u8 d 11 = 1 ∨ u8 d 11 = 2 ∨ u8 d 11 = 4 ∨ u8 d 11 = 8)
  check (1000 ≤ u32 d 12 ∧ u32 d 12 ≤ 600000)
  check (u8 d 16 ≤ 3)
  let fallback ← verdictAt d 18
  check (1 ≤ u8 d 25 ∧ u8 d 25 ≤ 48)
  check (u8 d 26 ≤ 48)
  check (2 ≤ u8 d 27 ∧ u8 d 27 ≤ 100)
  check (5 ≤ u16 d 28 ∧ u16 d 28 ≤ 500)
  check (u8 d 30 ≤ 7)
  check (100 ≤ u16 d 31 ∧ u16 d 31 ≤ 2000)
  pure { vnom := u16 d 0, expiry := u8 d 2, lookahead := u16 d 3, lead := u16 d 5, catchUp := u32 d 7,
         starvation := u8 d 11, zoneWait := u32 d 12, strikeGuard := u8 d 16, reportDest := byteOf (u8 d 17),
         fallback := fallback, stepLimit := u8 d 25, liveEntries := u8 d 26, answerTimeout := u8 d 27,
         rejectHoldoff := u16 d 28, retries := u8 d 30, statusTimeout := u16 d 31, homeOnRun := flagAt d 33 }

/-- A SETTINGS record (Table 10.2). -/
def readSettings (d : List Byte) : Option (Option Settings) :=
  if d.length < 34 then none else some (settingsOf d)

/-! Requests (Table 10.5). -/

/-- A request that can be read. An inner `none` of a write is a field outside its range. The selector is 0 for
every table but SCHEDULE_SHADOW (log entry 23). -/
inductive Request where
  | readRecord (table selector index part : Nat)
  | writeParse (index : Nat) (r : Option ParseEntry)
  | writeBell (index : Nat) (r : Option BellRec)
  | writeMotifDir (index : Nat) (r : Option MotifDir)
  | writeMotifRow (index : Nat) (r : Option Row)
  | writeShow (index : Nat) (r : Option ShowRec)
  | writeMove (index : Nat) (r : Option MoveEntry)
  | writeVector (index : Nat) (r : Option (Option (Fin 32)))
  | writeSchedule (selector : Nat) (item : ScheduleItem)
  | writeFigure (index : Nat) (r : Option FigRec)
  | writeBoard (index : Nat) (r : Option BoardRec)
  | writeGroup (index : Nat) (r : Option GroupRec)
  | writeSettings (index : Nat) (r : Option Settings)
  | readState (object index part : Nat)
  | clearCounters
  | engineRun
  | engineStop
  | engineReset
  | seasonSwitch (base : Nat)
  | seasonCancel
  | figureHome (figure : Nat)
  | faultClear (scope index : Nat)
  | setEventMask (mask : Vector Bool 6)
  deriving DecidableEq, Repr

/-- A record with a selector other than 0 has a field outside its range (log entry 23). -/
def forSelector {α : Type} (selector : Nat) (r : Option α) : Option α := if selector = 0 then r else none

/-- A WRITE_RECORD of the table with the record bytes `d` (R171, R177; tables numbered by Table 10.5). -/
def readWrite (table selector index : Nat) (d : List Byte) : Option Request :=
  if table = 0 then (readParse index d).map (fun r => .writeParse index (forSelector selector r))
  else if table = 1 then (readBell d).map (fun r => .writeBell index (forSelector selector r))
  else if table = 2 then (readMotifDir d).map (fun r => .writeMotifDir index (forSelector selector r))
  else if table = 3 then (readRow d).map (fun r => .writeMotifRow index (forSelector selector r))
  else if table = 4 then (readShow d).map (fun r => .writeShow index (forSelector selector r))
  else if table = 5 then (readMove d).map (fun r => .writeMove index (forSelector selector r))
  else if table = 6 then (readVector d).map (fun r => .writeVector index (forSelector selector r))
  else if table = 7 then (readSchedule index d).map (fun r => .writeSchedule selector r)
  else if table = 8 then (readFigure d).map (fun r => .writeFigure index (forSelector selector r))
  else if table = 9 then (readBoard d).map (fun r => .writeBoard index (forSelector selector r))
  else if table = 10 then (readGroup d).map (fun r => .writeGroup index (forSelector selector r))
  else if table = 11 then (readSettings d).map (fun r => .writeSettings index (forSelector selector r))
  else none

/-- A request payload, or `none` for one that is answered BAD_REQUEST (R171, step 1). -/
def readRequest (p : List Byte) : Option Request :=
  if p.length < 2 then none
  else if u8 p 1 = 1 then
    if p.length < 7 ∨ 11 < u8 p 2 then none else some (.readRecord (u8 p 2) (u8 p 3) (u16 p 4) (u8 p 6))
  else if u8 p 1 = 2 then
    if p.length < 6 then none else readWrite (u8 p 2) (u8 p 3) (u16 p 4) (p.drop 6)
  else if u8 p 1 = 3 then
    if p.length < 5 ∨ 8 < u8 p 2 then none else some (.readState (u8 p 2) (u8 p 3) (u8 p 4))
  else if u8 p 1 = 4 then some .clearCounters
  else if u8 p 1 = 5 then some .engineRun
  else if u8 p 1 = 6 then some .engineStop
  else if u8 p 1 = 7 then some .engineReset
  else if u8 p 1 = 8 then if p.length < 8 then none else some (.seasonSwitch (u48 p 2))
  else if u8 p 1 = 9 then some .seasonCancel
  else if u8 p 1 = 10 then if p.length < 3 then none else some (.figureHome (u8 p 2))
  else if u8 p 1 = 11 then if p.length < 4 then none else some (.faultClear (u8 p 2) (u8 p 3))
  else if u8 p 1 = 12 then
    if p.length < 8 then none else some (.setEventMask (Vector.ofFn (fun i : Fin 6 => flagAt p (2 + i.val))))
  else none

/-! Which row of the table a cue or a request belongs to. -/

/-- The rows that are cues. -/
inductive CueRow where
  | strike
  | motifPlay
  | showStart
  | showStop
  | figureGo
  | allStop
  | unreadable
  deriving DecidableEq, Repr

/-- The row of a cue payload (R173): its type's, or UNKNOWN_CUE_TYPE for one that cannot be read. -/
def cueRow (p : List Byte) : CueRow :=
  match readCue p with
  | some (.strike _ _) => .strike
  | some (.motifPlay _ _ _ _ _ _) => .motifPlay
  | some (.showStart _ _ _ _) => .showStart
  | some (.showStop _) => .showStop
  | some (.figureGo _ _ _ _) => .figureGo
  | some .allStop => .allStop
  | none => .unreadable

/-- The rows that are management requests. -/
inductive RequestRow where
  | readRecord
  | writeParse
  | writeBell
  | writeMotifDir
  | writeMotifRow
  | writeShow
  | writeMove
  | writeVector
  | writeSchedule
  | writeFigure
  | writeBoard
  | writeGroup
  | writeSettings
  | readState
  | clearCounters
  | engineRun
  | engineStop
  | engineReset
  | seasonSwitch
  | seasonCancel
  | figureHome
  | faultClear
  | setEventMask
  | unreadable
  deriving DecidableEq, Repr

/-- The row of a request. -/
def Request.row : Request → RequestRow
  | .readRecord _ _ _ _ => .readRecord
  | .writeParse _ _ => .writeParse
  | .writeBell _ _ => .writeBell
  | .writeMotifDir _ _ => .writeMotifDir
  | .writeMotifRow _ _ => .writeMotifRow
  | .writeShow _ _ => .writeShow
  | .writeMove _ _ => .writeMove
  | .writeVector _ _ => .writeVector
  | .writeSchedule _ _ => .writeSchedule
  | .writeFigure _ _ => .writeFigure
  | .writeBoard _ _ => .writeBoard
  | .writeGroup _ _ => .writeGroup
  | .writeSettings _ _ => .writeSettings
  | .readState _ _ _ => .readState
  | .clearCounters => .clearCounters
  | .engineRun => .engineRun
  | .engineStop => .engineStop
  | .engineReset => .engineReset
  | .seasonSwitch _ => .seasonSwitch
  | .seasonCancel => .seasonCancel
  | .figureHome _ => .figureHome
  | .faultClear _ _ => .faultClear
  | .setEventMask _ => .setEventMask

/-- The row of a request payload (R171): its request's, or UNKNOWN_REQUEST for one answered BAD_REQUEST. -/
def requestRow (p : List Byte) : RequestRow :=
  match readRequest p with
  | some r => r.row
  | none => .unreadable

/-- Whether a received frame passes the checks of R12 and the fixed path would hand it to the block (R15). -/
def fitsBlock (port : Port) (f : List Byte) (b : FixedBlock) : Bool :=
  reception f = .arrived && fixedBlock port (frameKind f) = some b

/-- Whether a received frame is a cue of the row. -/
def fitsCue (f : List Byte) (r : CueRow) : Bool :=
  fitsBlock .head f .cues && cueRow (framePayload f) = r

/-- Whether a received frame is a request of the row. -/
def fitsRequest (f : List Byte) (r : RequestRow) : Bool :=
  fitsBlock .head f .management && requestRow (framePayload f) = r

end Sys2Proof.Machine
end

