-- ==== Sys2Proof/Config.lean ====
section
/-! DEFINITION. The free values of the model: constants with no body, so that no proof can see a value
the spec does not state. Each is applied to the plain counter `State.freeCount`, which the step that
draws a value advances. -/

namespace Sys2Proof.Config

/-- What show time holds after the local millisecond that would carry it past its 48 bits. R1 says only
that "the count cannot wrap in service" (log entry 8). -/
opaque countAfterTop : Nat → BitVec 48

/-- The tag echoed in the response to a request whose payload holds no tag byte (R171; log entry 8). -/
opaque missingTag : Nat → Byte

/-- The request code echoed for a request whose payload holds no code byte (R171; log entry 8). -/
opaque missingCode : Nat → Byte

/-- The cue type reported in arg2 of CUE_REFUSED for a cue with an empty payload (R173; log entry 8). -/
opaque missingCueType : Nat → Byte

end Sys2Proof.Config
end

