-- ==== Sys2Proof/Machine/State.lean ====
section
/-! DEFINITION. The state of the engine: every piece of state that spec/01 to spec/10 give it, as plain data,
and the state after power-on. Run counts, held zones and motor accounts are views of the waiting list, the
zone table and the figures (Machine/Ops.lean); they are stored once. -/

namespace Sys2Proof.Machine

/-! Show clock (spec/01). -/

/-- Table 1.1. -/
inductive ClockState where
  | unset
  | set
  | freeRunning
  deriving DecidableEq, Repr

/-- The show clock's state. -/
structure Clock where
  time : Time
  state : ClockState
  freeze : Nat
  lossDeadline : Option Time
  lastDiff : Int
  beaconsAccepted : Nat
  badBeacon : Nat
  steps : Nat
  deriving DecidableEq, Repr

/-! Ports and classifier (spec/02). -/

/-- The three counters of a port (R36). -/
structure PortCounters where
  crcError : Nat
  malformed : Nat
  passOverrun : Nat
  deriving DecidableEq, Repr

/-- Whose turn it is at the head port (R22). -/
inductive Turn where
  | events
  | pass
  deriving DecidableEq, Repr

/-- A REPORT frame in the head report queue: a response or an event report (Table 2.3). -/
structure ReportFrame where
  isEvent : Bool
  bytes : List Byte
  deriving DecidableEq, Repr

/-- The head port: its queues, the pending response (R20), the turn and the frame in transmission. -/
structure HeadPort where
  passQueue : List (List Byte)
  reportQueue : List ReportFrame
  pendingResponse : Option (List Byte)
  turn : Turn
  sending : Option (List Byte)
  counters : PortCounters
  deriving DecidableEq, Repr

/-- A BOARD_COMMAND frame in the tail port's command queue: the command it is for and the DEST formed with
it. Its tag is taken when it starts (R129). -/
structure CommandFrame where
  board : Fin 32
  id : Nat
  dest : Byte
  deriving DecidableEq, Repr

/-- The tail port: its queues and the frame in transmission. -/
structure TailPort where
  strikeQueue : List (List Byte)
  commandQueue : List CommandFrame
  passQueue : List (List Byte)
  sending : Option (List Byte)
  counters : PortCounters
  deriving DecidableEq, Repr

/-- The nine classifier counters (R36). -/
structure ClassifierCounters where
  classified : Nat
  dropped : Nat
  fallback : Nat
  liveExceeded : Nat
  stepExceeded : Nat
  offsetBeyond : Nat
  actionMisdirected : Nat
  unknownKind : Nat
  mgmtOverrun : Nat
  deriving DecidableEq, Repr

/-! Launch queue (spec/04). -/

/-- The origin of a launch entry (R44). -/
inductive StrikeOrigin where
  | cue
  | run (slot : Fin 4)
  deriving DecidableEq, Repr

/-- A launch entry (Table 4.1). -/
structure LaunchEntry where
  bell : Fin 48
  shaped : Nat
  sound : Time
  fire : Time
  fire0 : Time
  origin : StrikeOrigin
  deferred : Nat
  deriving DecidableEq, Repr

/-- An open frame of the assembly: its board and its pairs of channel and pulse width (R66). -/
structure OpenFrame where
  board : Fin 32
  pairs : List (Fin 16 × Nat)
  deriving DecidableEq, Repr

/-- The strike counters, in the order of Table 4.2. -/
structure StrikeCounters where
  accepted : Nat
  emitted : Nat
  gated : Nat
  skipped : Nat
  skipRecovery : Nat
  skipHeat : Nat
  skipBudget : Nat
  skipBoardAbsent : Nat
  skipOutOverrun : Nat
  purged : Nat
  stepPurged : Nat
  runPurged : Nat
  stopPurged : Nat
  heatTrimmed : Nat
  deferrals : Nat
  lateFired : Nat
  refusedLate : Nat
  refusedBeyondHorizon : Nat
  refusedQueueFull : Nat
  refusedBellInvalid : Nat
  deriving DecidableEq, Repr

/-- The launch queue: the waiting list in fire-time order, the assembly in order of first emission, the
counters and the greatest lateness. -/
structure Launch where
  waiting : List LaunchEntry
  assembly : List OpenFrame
  counters : StrikeCounters
  greatestLateness : Nat
  deriving DecidableEq, Repr

/-! Runs (spec/05). -/

/-- Table 5.5. -/
inductive RunState where
  | free
  | playing
  | holding
  | draining
  deriving DecidableEq, Repr

/-- What created a run. -/
inductive RunKind where
  | show
  | motif
  deriving DecidableEq, Repr

/-- Where a run's or a show's request came from (Tables 5.3 and 8.3). -/
inductive RequestOrigin where
  | calendar (vector : Fin 16)
  | cue
  deriving DecidableEq, Repr

/-- A frame of the nesting stack (Table 5.4). -/
structure StackFrame where
  motif : Fin 64
  nextRow : Nat
  repeatsLeft : Nat
  transpose : Int
  scale : Nat
  deriving DecidableEq, Repr

/-- Where a move of a show stands (Table 5.3). -/
inductive Progress where
  | notIssued
  | issued
  | arrived
  | failed
  | unreached
  deriving DecidableEq, Repr

/-- A barrier: the mark awaited and its mark time. -/
structure Barrier where
  mark : Fin 16
  time : Time
  deriving DecidableEq, Repr

/-- A run record (Table 5.3). The stack is held top frame first. `roomNotice` is the model's: the launch
queue has told this paused run that it has room (R61) and the run has not yet acted on it (log entry 14). -/
structure Run where
  state : RunState
  kind : RunKind
  showId : Option (Fin 32)
  topMotif : Fin 64
  origin : RequestOrigin
  anchor : Time
  tempo : Nat
  count : Nat
  position : Nat
  stack : List StackFrame
  barrier : Option Barrier
  marks : Vector (Option Time) 16
  paused : Bool
  roomNotice : Bool
  zeroCount : Nat
  cursor : Nat
  progress : List Progress
  planned : Nat
  lost : Nat
  nestTooDeep : Nat
  holdTotal : Nat
  deriving DecidableEq, Repr

/-- The run record of R81. -/
def Run.initial : Run :=
  { state := .free, kind := .motif, showId := none, topMotif := 0, origin := .cue, anchor := 0, tempo := 100,
    count := 0, position := 0, stack := [], barrier := none, marks := Vector.replicate 16 none,
    paused := false, roomNotice := false, zeroCount := 0, cursor := 0, progress := [], planned := 0, lost := 0,
    nestTooDeep := 0, holdTotal := 0 }

/-! Figures (spec/06). -/

/-- Table 6.3. -/
inductive FigState where
  | unhomed
  | homing
  | idle
  | waitZone
  | waitSupply
  | starting
  | moving
  | stopping
  | held
  | fault
  deriving DecidableEq, Repr

/-- Who asked for a move (section 6.2). -/
inductive Requester where
  | run (slot : Fin 4) (index : Nat)
  | cue
  | mgmt
  deriving DecidableEq, Repr

/-- What a move does, in working form (R103), or a homing. -/
inductive MoveGoal where
  | go (target speedPercent : Nat) (way : Way)
  | home
  deriving DecidableEq, Repr

/-- A move or a homing with its requester. `withdrawn` is the model's: the move has ended already and its
stop's completion gives it no outcome (R115, R123, R124; log entry 14). -/
structure Move where
  goal : MoveGoal
  requester : Requester
  withdrawn : Bool
  deriving DecidableEq, Repr

/-- Where a STOPPING figure goes (Table 6.2). -/
inductive StopEnd where
  | held
  | idle
  deriving DecidableEq, Repr

/-- Why a figure is in FAULT (Table 6.2). -/
inductive FaultCause where
  | stall
  | boardAbsent
  | boardBusy
  | overcurrent
  | limit
  | homeFailed
  deriving DecidableEq, Repr

/-- The state of a figure (Table 6.2, with the recorded channel flags and the needed zones of R125). The last
four fields are the model's (log entry 14): whether the STOP or HOME in hand has been reported completed
(R115, R117, R121), the way resolved for the path (R103), and the distance and speed of the MOVE in hand (R110). -/
structure Figure where
  state : FigState
  position : Option Nat
  current : Option Move
  nextMove : Option Move
  owner : Option (Fin 4)
  admitted : Option (Nat × Fin 4)
  waitStart : Option Time
  waitUsed : Nat
  travelDeadline : Option Time
  stopEnd : StopEnd
  faultCause : Option FaultCause
  movesArrived : Nat
  movesFailed : Nat
  moveReplaced : Nat
  moveAbandoned : Nat
  flags : ChanReport
  needed : List (Fin 24)
  commandDone : Bool
  resolvedWay : Way
  legDistance : Nat
  legSpeed : Nat
  deriving DecidableEq, Repr

/-- A figure at power-on and at ENGINE_RESET (R102). -/
def Figure.initial : Figure :=
  { state := .unhomed, position := none, current := none, nextMove := none, owner := none, admitted := none,
    waitStart := none, waitUsed := 0, travelDeadline := none, stopEnd := .idle, faultCause := none,
    movesArrived := 0, movesFailed := 0, moveReplaced := 0, moveAbandoned := 0, flags := ChanReport.clear,
    needed := [], commandDone := false, resolvedWay := .forward, legDistance := 0, legSpeed := 0 }

/-! Boards and supply (spec/07). -/

/-- Table 7.3. -/
inductive Presence where
  | unknown
  | present
  | absent
  deriving DecidableEq, Repr

/-- A command's kind and parameters (Table 7.4). The way of a MOVE is FORWARD or BACKWARD. -/
inductive CommandOp where
  | move (target : Nat) (way : Way) (speed : Nat)
  | home
  | stop
  | clearFault
  deriving DecidableEq, Repr

/-- The condition of a command, with the end of its holdoff or its answer timer (section 7.3). -/
inductive CommandCondition where
  | waiting
  | holdoff (until_ : Time)
  | outstanding (timer : Time)
  | resend
  deriving DecidableEq, Repr

/-- A command in a board's list. `channel` is absent for ALL; `id` gives the order of request (R128). -/
structure Command where
  id : Nat
  op : CommandOp
  channel : Option (Fin 4)
  condition : CommandCondition
  tag : Option Byte
  rejects : Nat
  resendUsed : Bool
  owners : List (Fin 16)
  deriving DecidableEq, Repr

/-- The state of a board (Table 7.2). -/
structure BoardState where
  presence : Presence
  rail : Option Nat
  statusDeadline : Option Time
  coilFlags : Vector Bool 16
  motors : Vector ChanReport 4
  commands : List Command
  nextTag : Byte
  sent : Nat
  rejected : Nat
  timedOut : Nat
  statusTaken : Nat
  deriving DecidableEq, Repr

/-- A board at power-on and at ENGINE_RESET (R127). -/
def BoardState.initial : BoardState :=
  { presence := .unknown, rail := none, statusDeadline := none, coilFlags := Vector.replicate 16 false,
    motors := Vector.replicate 4 ChanReport.clear, commands := [], nextTag := 0, sent := 0, rejected := 0,
    timedOut := 0, statusTaken := 0 }

/-- The board unit's own state: its counters (R127) and the number of the next command request. -/
structure BoardUnit where
  staleAnswer : Nat
  badBoardFrame : Nat
  nextId : Nat
  deriving DecidableEq, Repr

/-- An admission of the strike account: the group, the bell, the coil current and the end of the window (R136). -/
structure StrikeAdmission where
  group : Fin 4
  bell : Fin 48
  current : Nat
  windowEnd : Time
  deriving DecidableEq, Repr

/-! Shows (spec/08). -/

/-- A show queue entry (Table 8.3). -/
structure ShowRequest where
  showId : Fin 32
  count : Nat
  tempo : Nat
  anchor : Option Time
  origin : RequestOrigin
  cyclesWaited : Nat
  deriving DecidableEq, Repr

/-- The show counters, in the order of R154. -/
structure ShowCounters where
  requests : Nat
  admitted : Nat
  invalid : Nat
  duplicate : Nat
  fitsNowhere : Nat
  queueFull : Nat
  starved : Nat
  moveUnreached : Nat
  lateFigure : Nat
  deriving DecidableEq, Repr

/-- The show unit's queue, capture (R143) and counters. -/
structure ShowUnit where
  queue : List ShowRequest
  capture : Option (Fin 32 × Nat)
  counters : ShowCounters
  deriving DecidableEq, Repr

/-! Calendar (spec/09). -/

/-- The name of a bank. -/
inductive BankName where
  | a
  | b
  deriving DecidableEq, Repr

/-- The quiet override (R158). -/
structure QuietOverride where
  level : QuietLevel
  expiry : Time
  deriving DecidableEq, Repr

/-- The calendar counters, in the order of R167. -/
structure CalendarCounters where
  triggersIssued : Nat
  missed : Nat
  badQuiet : Nat
  switches : Nat
  switchRefused : Nat
  deriving DecidableEq, Repr

/-- The programme calendar. The last two fields are the model's (log entry 14): the show times up to which
entry times (R157) and lead times (R145) have been taken. -/
structure Calendar where
  bankA : Bank
  bankB : Bank
  active : BankName
  cycleStart : Time
  listBells : Gate
  listFigures : Gate
  override : Option QuietOverride
  pendingSwitch : Option Time
  watermark : Time
  vectors : Vector (Option (Fin 32)) 16
  counters : CalendarCounters
  entriesTaken : Time
  leadsTaken : Time
  deriving DecidableEq, Repr

/-! Management (spec/10). -/

/-- Table 10.1. -/
inductive EngineState where
  | config
  | run
  deriving DecidableEq, Repr

/-- The events of Table 10.6. -/
inductive EventKind where
  | timeStep
  | beaconLost
  | showStarted
  | showDone
  | motifStarted
  | motifDone
  | runCancelled
  | runLoopFault
  | showDropped
  | lateFigure
  | figureFault
  | figureHomed
  | moveAbandoned
  | figureHeld
  | liveMoveDone
  | boardPresent
  | boardAbsent
  | commandFailed
  | coilFault
  | quietOn
  | quietOff
  | triggersMissed
  | switchDone
  | switchRefused
  | cueRefused
  deriving DecidableEq, Repr

/-- An event record (Table 10.4); `time` is the low 32 bits of show time. -/
structure EventRecord where
  kind : EventKind
  time : Nat
  arg1 : Int
  arg2 : Int
  deriving DecidableEq, Repr

/-- The management unit: engine state, settings, event queue with its lost count, and the event class mask
in class order. -/
structure Management where
  engine : EngineState
  settings : Settings
  events : List EventRecord
  lost : Nat
  mask : Vector Bool 6
  deriving DecidableEq, Repr

/-- The state of the engine, with the queue of commands waiting to be taken, first in first out. -/
structure State where
  clock : Clock
  node : Byte
  head : HeadPort
  tail : TailPort
  parse : Vector ParseEntry 48
  classifier : ClassifierCounters
  bellRecs : Vector BellRec 48
  bells : Vector BellState 48
  launch : Launch
  motifDirs : Vector MotifDir 64
  rows : Vector Row 1024
  runs : Vector Run 4
  figRecs : Vector FigRec 16
  figs : Vector Figure 16
  zones : Vector (Option (Fin 16)) 24
  boardRecs : Vector BoardRec 32
  boards : Vector BoardState 32
  boardUnit : BoardUnit
  groups : Vector GroupRec 4
  strikeAccount : List StrikeAdmission
  shows : Vector ShowRec 32
  moves : Vector MoveEntry 512
  showUnit : ShowUnit
  calendar : Calendar
  mgmt : Management
  freeCount : Nat
  pending : List Instr
  deriving DecidableEq, Repr

/-- Why the engine stops: never. "Faults pass upward from block to block as changes to records. The engine
does not halt on them" (spec/00, 3.2), so there is no constructor, and no step ends in a fault. -/
inductive Fault where
  deriving DecidableEq, Repr

/-- Why a step has no meaning. -/
inductive Refusal where
  /-- Raised by Machine/Dispatch.lean alone, for a row whose meaning is not written yet. Safe: nothing can be
  proved of what such a row does. No arm of this model raises it. -/
  | notModelled (mnemonic : String)
  deriving DecidableEq, Repr

/-! The state after power-on (R170 and each chapter's reset rule). -/

def PortCounters.zero : PortCounters := { crcError := 0, malformed := 0, passOverrun := 0 }

def ClassifierCounters.zero : ClassifierCounters :=
  { classified := 0, dropped := 0, fallback := 0, liveExceeded := 0, stepExceeded := 0, offsetBeyond := 0,
    actionMisdirected := 0, unknownKind := 0, mgmtOverrun := 0 }

def StrikeCounters.zero : StrikeCounters :=
  { accepted := 0, emitted := 0, gated := 0, skipped := 0, skipRecovery := 0, skipHeat := 0, skipBudget := 0,
    skipBoardAbsent := 0, skipOutOverrun := 0, purged := 0, stepPurged := 0, runPurged := 0, stopPurged := 0,
    heatTrimmed := 0, deferrals := 0, lateFired := 0, refusedLate := 0, refusedBeyondHorizon := 0,
    refusedQueueFull := 0, refusedBellInvalid := 0 }

def ShowCounters.zero : ShowCounters :=
  { requests := 0, admitted := 0, invalid := 0, duplicate := 0, fitsNowhere := 0, queueFull := 0, starved := 0,
    moveUnreached := 0, lateFigure := 0 }

def CalendarCounters.zero : CalendarCounters :=
  { triggersIssued := 0, missed := 0, badQuiet := 0, switches := 0, switchRefused := 0 }

/-- The clock at power-on (R2). -/
def Clock.initial : Clock :=
  { time := 0, state := .unset, freeze := 0, lossDeadline := none, lastDiff := 0, beaconsAccepted := 0,
    badBeacon := 0, steps := 0 }

/-- The head port at power-on (R37). -/
def HeadPort.initial : HeadPort :=
  { passQueue := [], reportQueue := [], pendingResponse := none, turn := .events, sending := none,
    counters := PortCounters.zero }

/-- The tail port at power-on (R37). -/
def TailPort.initial : TailPort :=
  { strikeQueue := [], commandQueue := [], passQueue := [], sending := none, counters := PortCounters.zero }

/-- The launch queue at power-on (R74). -/
def Launch.initial : Launch :=
  { waiting := [], assembly := [], counters := StrikeCounters.zero, greatestLateness := 0 }

/-- The board unit at power-on (R127). -/
def BoardUnit.initial : BoardUnit := { staleAnswer := 0, badBoardFrame := 0, nextId := 0 }

/-- The show unit at power-on (R141, R143, R154). -/
def ShowUnit.initial : ShowUnit := { queue := [], capture := none, counters := ShowCounters.zero }

/-- The calendar at power-on (R155, R156, R167). -/
def Calendar.initial : Calendar :=
  { bankA := Bank.initial, bankB := Bank.initial, active := .a, cycleStart := 0, listBells := .opened,
    listFigures := .opened, override := none, pendingSwitch := none, watermark := 0,
    vectors := Vector.replicate 16 none, counters := CalendarCounters.zero, entriesTaken := 0, leadsTaken := 0 }

/-- The management unit at power-on (R168, R170, Table 10.2). -/
def Management.initial : Management :=
  { engine := .config, settings := Settings.initial, events := [], lost := 0, mask := Vector.replicate 6 true }

/-- The engine right after a power-on that sampled the straps as `node` (after R14). -/
def State.poweredOn (node : Byte) : State :=
  { clock := Clock.initial, node := node, head := HeadPort.initial, tail := TailPort.initial,
    parse := Vector.replicate 48 ParseEntry.initial, classifier := ClassifierCounters.zero,
    bellRecs := Vector.replicate 48 BellRec.initial, bells := Vector.replicate 48 (BellState.initial 0),
    launch := Launch.initial, motifDirs := Vector.replicate 64 MotifDir.initial,
    rows := Vector.replicate 1024 (.rest 0), runs := Vector.replicate 4 Run.initial,
    figRecs := Vector.replicate 16 FigRec.initial, figs := Vector.replicate 16 Figure.initial,
    zones := Vector.replicate 24 none, boardRecs := Vector.replicate 32 BoardRec.initial,
    boards := Vector.replicate 32 BoardState.initial, boardUnit := BoardUnit.initial,
    groups := Vector.replicate 4 GroupRec.initial, strikeAccount := [],
    shows := Vector.replicate 32 ShowRec.initial, moves := Vector.replicate 512 MoveEntry.initial,
    showUnit := ShowUnit.initial, calendar := Calendar.initial, mgmt := Management.initial,
    freeCount := 0, pending := [] }

/-- The machine right after reset: a power-on with the straps at 0 (DESIGN CHOICE, log entry 7: the spec leaves
the strap level to the installation). -/
def State.reset : State := State.poweredOn 0

end Sys2Proof.Machine
end

