-- ==== Sys2Proof/Machine/Ops.lean ====
section
/-! DEFINITION. The named operations over the state: one update for each part of it, the views that are
computed from stored state, and the raising of events. -/

namespace Sys2Proof.Machine

namespace State

/-! Readings. -/

/-- Show time (R1). -/
def now (s : State) : Time := s.clock.time

/-- The settings record (Table 10.2). -/
def settings (s : State) : Settings := s.mgmt.settings

/-- Whether the engine is in RUN (R168). -/
def running (s : State) : Bool := s.mgmt.engine = .run

/-- The number of entries the launch queue holds: waiting entries and strikes in the assembly (R61). -/
def held (s : State) : Nat := s.launch.waiting.length + (s.launch.assembly.map (fun f => f.pairs.length)).sum

/-- The run count of a slot: its waiting entries (R62). -/
def runCount (s : State) (k : Fin 4) : Nat := s.launch.waiting.countP (fun e => e.origin = .run k)

/-- The zones a figure holds (Table 6.2). -/
def heldZones (s : State) (f : Fin 16) : List (Fin 24) := (indices 24).filter (fun z => s.zones[z] = some f)

/-- S_g: the sum of the group's strike admissions not yet released (R136). -/
def strikeSum (s : State) (g : Fin 4) : Nat :=
  ((s.strikeAccount.filter (fun a => a.group = g)).map (fun a => a.current)).sum

/-- The current a figure has admitted to the group. -/
def motorShare (s : State) (g : Fin 4) (f : Fin 16) : Nat :=
  match s.figs[f].admitted with
  | some (ma, h) => if h = g then ma else 0
  | none => 0

/-- M_g: the sum of the admitted run currents of the group's figures (R136), in whatever state they are: a HOMING
figure's current counts against a strike too, though R56 names STARTING, MOVING and STOPPING (the model's
reading of R136 and R137, log entry 38). -/
def motorSum (s : State) (g : Fin 4) : Nat := ((indices 16).map (s.motorShare g)).sum

/-- The moves of a show record, in index order (spec/08, 8.1). -/
def movesOf (s : State) (w : ShowRec) : List MoveEntry := (s.moves.toList.drop w.firstMove).take w.moveCount

/-- The moves of a run: those of its show; a motif run has none (R82). -/
def runMoves (s : State) (r : Run) : List MoveEntry :=
  match r.showId with
  | some w => s.movesOf s.shows[w]
  | none => []

/-! Updates, one for each field. -/

def modClock (s : State) (g : Clock → Clock) : State := { s with clock := g s.clock }
def modHead (s : State) (g : HeadPort → HeadPort) : State := { s with head := g s.head }
def modTail (s : State) (g : TailPort → TailPort) : State := { s with tail := g s.tail }
def setParse (s : State) (i : Fin 48) (x : ParseEntry) : State := { s with parse := s.parse.set i.val x i.isLt }
def modClassifier (s : State) (g : ClassifierCounters → ClassifierCounters) : State := { s with classifier := g s.classifier }
def setBellRec (s : State) (i : Fin 48) (x : BellRec) : State := { s with bellRecs := s.bellRecs.set i.val x i.isLt }
def setBell (s : State) (i : Fin 48) (x : BellState) : State := { s with bells := s.bells.set i.val x i.isLt }
def setBells (s : State) (x : Vector BellState 48) : State := { s with bells := x }
def modLaunch (s : State) (g : Launch → Launch) : State := { s with launch := g s.launch }
def setMotifDir (s : State) (i : Fin 64) (x : MotifDir) : State := { s with motifDirs := s.motifDirs.set i.val x i.isLt }
def setRow (s : State) (i : Fin 1024) (x : Row) : State := { s with rows := s.rows.set i.val x i.isLt }
def modRuns (s : State) (g : Run → Run) : State := { s with runs := s.runs.map g }
def setRun (s : State) (i : Fin 4) (x : Run) : State := { s with runs := s.runs.set i.val x i.isLt }
def setFigRec (s : State) (i : Fin 16) (x : FigRec) : State := { s with figRecs := s.figRecs.set i.val x i.isLt }
def modFigs (s : State) (g : Figure → Figure) : State := { s with figs := s.figs.map g }
def setFig (s : State) (i : Fin 16) (x : Figure) : State := { s with figs := s.figs.set i.val x i.isLt }
def setZones (s : State) (g : Fin 24 → Option (Fin 16)) : State := { s with zones := Vector.ofFn g }
def setBoardRec (s : State) (i : Fin 32) (x : BoardRec) : State := { s with boardRecs := s.boardRecs.set i.val x i.isLt }
def modBoards (s : State) (g : BoardState → BoardState) : State := { s with boards := s.boards.map g }
def setBoard (s : State) (i : Fin 32) (x : BoardState) : State := { s with boards := s.boards.set i.val x i.isLt }
def modBoardUnit (s : State) (g : BoardUnit → BoardUnit) : State := { s with boardUnit := g s.boardUnit }
def setGroup (s : State) (i : Fin 4) (x : GroupRec) : State := { s with groups := s.groups.set i.val x i.isLt }
def setStrikeAccount (s : State) (x : List StrikeAdmission) : State := { s with strikeAccount := x }
def setShow (s : State) (i : Fin 32) (x : ShowRec) : State := { s with shows := s.shows.set i.val x i.isLt }
def setMove (s : State) (i : Fin 512) (x : MoveEntry) : State := { s with moves := s.moves.set i.val x i.isLt }
def modShowUnit (s : State) (g : ShowUnit → ShowUnit) : State := { s with showUnit := g s.showUnit }
def modCalendar (s : State) (g : Calendar → Calendar) : State := { s with calendar := g s.calendar }
def modMgmt (s : State) (g : Management → Management) : State := { s with mgmt := g s.mgmt }
def drawFree (s : State) : State := { s with freeCount := s.freeCount + 1 }

/-- An update of one run record. -/
def modRun (s : State) (i : Fin 4) (g : Run → Run) : State := s.setRun i (g s.runs[i])
/-- An update of one figure. -/
def modFig (s : State) (i : Fin 16) (g : Figure → Figure) : State := s.setFig i (g s.figs[i])
/-- An update of one board's state. -/
def modBoard (s : State) (i : Fin 32) (g : BoardState → BoardState) : State := s.setBoard i (g s.boards[i])
/-- An update of the strike counters. -/
def modStrikeCounters (s : State) (g : StrikeCounters → StrikeCounters) : State :=
  s.modLaunch (fun l => { l with counters := g l.counters })
/-- An update of the show counters. -/
def modShowCounters (s : State) (g : ShowCounters → ShowCounters) : State :=
  s.modShowUnit (fun u => { u with counters := g u.counters })
/-- An update of the calendar counters. -/
def modCalendarCounters (s : State) (g : CalendarCounters → CalendarCounters) : State :=
  s.modCalendar (fun c => { c with counters := g c.counters })
/-- An update of the counters of the port. -/
def modPortCounters (s : State) (p : Port) (g : PortCounters → PortCounters) : State :=
  match p with
  | .head => s.modHead (fun h => { h with counters := g h.counters })
  | .tail => s.modTail (fun t => { t with counters := g t.counters })

end State

/-! Events (R175, Table 10.6). -/

/-- The class of an event: TIME 0, SHOW 1, FIGURE 2, BOARD 3, CALENDAR 4, CUE 5. -/
def EventKind.cls : EventKind → Fin 6
  | .timeStep => 0
  | .beaconLost => 0
  | .showStarted => 1
  | .showDone => 1
  | .motifStarted => 1
  | .motifDone => 1
  | .runCancelled => 1
  | .runLoopFault => 1
  | .showDropped => 1
  | .lateFigure => 1
  | .figureFault => 2
  | .figureHomed => 2
  | .moveAbandoned => 2
  | .figureHeld => 2
  | .liveMoveDone => 2
  | .boardPresent => 3
  | .boardAbsent => 3
  | .commandFailed => 3
  | .coilFault => 3
  | .quietOn => 4
  | .quietOff => 4
  | .triggersMissed => 4
  | .switchDone => 4
  | .switchRefused => 4
  | .cueRefused => 5

/-- The code of an event within its class. -/
def EventKind.code : EventKind → Nat
  | .timeStep => 1
  | .beaconLost => 2
  | .showStarted => 1
  | .showDone => 2
  | .motifStarted => 3
  | .motifDone => 4
  | .runCancelled => 5
  | .runLoopFault => 6
  | .showDropped => 7
  | .lateFigure => 8
  | .figureFault => 1
  | .figureHomed => 2
  | .moveAbandoned => 3
  | .figureHeld => 4
  | .liveMoveDone => 5
  | .boardPresent => 1
  | .boardAbsent => 2
  | .commandFailed => 3
  | .coilFault => 4
  | .quietOn => 1
  | .quietOff => 2
  | .triggersMissed => 3
  | .switchDone => 4
  | .switchRefused => 5
  | .cueRefused => 1

/-- The low 32 bits of a show time (Table 10.4). -/
def low32 (t : Time) : Nat := (t % 4294967296).toNat

/-- An event offered to the event queue of the management unit (R175): masked, lost, or queued. -/
def Management.offer (m : Management) (e : EventRecord) : Management :=
  if m.mask[e.kind.cls] = false then m
  else if 32 ≤ m.events.length then { m with lost := min (m.lost + 1) 255 }
  else { m with events := m.events ++ [e] }

/-- An event raised at the present show time (R175). -/
def State.raise (s : State) (k : EventKind) (arg1 arg2 : Int) : State :=
  s.modMgmt (fun m => m.offer { kind := k, time := low32 s.now, arg1 := arg1, arg2 := arg2 })

end Sys2Proof.Machine
end

