-- ==== Sys2Proof/Machine/Flags.lean ====
section
/-! DEFINITION. The conditions that rules compute from the state and that other rules read: effective gates,
the strike guard, readiness of commands, what a supply group can admit, whether a bank lets a show play. -/

namespace Sys2Proof.Machine

/-! Effective gates (R159). -/

/-- The effective bell gate is open when the list bell gate is OPEN and no override is in force. -/
def Calendar.bellsOpen (c : Calendar) : Bool := c.listBells = .opened && c.override.isNone

/-- Whether the quiet override has level ALL. -/
def Calendar.quietAll (c : Calendar) : Bool :=
  match c.override with
  | some o => o.level = .all
  | none => false

/-- The effective figure gate is open when the list figure gate is OPEN and the override is not ALL. -/
def Calendar.figuresOpen (c : Calendar) : Bool := c.listFigures = .opened && !c.quietAll

/-- Whether a pair of open gates opens every required gate (R143, R144). -/
def GateNeed.met (n : GateNeed) (bells figures : Bool) : Bool :=
  match n with
  | .bells => bells
  | .figures => figures
  | .both => bells && figures

/-! The strike guard (R19). -/

/-- The guard holds while the launch queue's head has a fire time at or before show time plus the setting. -/
def State.guardHolds (s : State) : Bool :=
  match s.launch.waiting with
  | [] => false
  | e :: _ => decide (e.fire ≤ s.now + s.settings.strikeGuard)

/-- Whether the head of the waiting list is due (R63). -/
def State.headDue (s : State) : Bool :=
  match s.launch.waiting with
  | [] => false
  | e :: _ => decide (e.fire ≤ s.now)

/-! Commands (R129). -/

/-- Whether a command is a STOP. -/
def CommandOp.isStop : CommandOp → Bool
  | .stop => true
  | .move _ _ _ => false
  | .home => false
  | .clearFault => false

def CommandCondition.isWaiting : CommandCondition → Bool
  | .waiting => true
  | .holdoff _ => false
  | .outstanding _ => false
  | .resend => false

def CommandCondition.isHoldoff : CommandCondition → Bool
  | .waiting => false
  | .holdoff _ => true
  | .outstanding _ => false
  | .resend => false

/-- Whether a command is in handshake: outstanding or in re-send (section 7.3). -/
def CommandCondition.inHandshake : CommandCondition → Bool
  | .waiting => false
  | .holdoff _ => false
  | .outstanding _ => true
  | .resend => true

/-- Whether the command numbered `id`, waiting, is ready within its board's list: it is the first waiting
command, and no earlier one is in holdoff unless it is a STOP (R129). -/
def readyInList (id : Nat) : List Command → Bool → Bool
  | [], _ => false
  | c :: cs, holdoffBefore =>
    if c.condition.isWaiting then c.id = id && (c.op.isStop || !holdoffBefore)
    else readyInList id cs (holdoffBefore || c.condition.isHoldoff)

/-- The command of a board with the number, if the list holds it. -/
def BoardState.command? (b : BoardState) (id : Nat) : Option Command := b.commands.find? (fun c => c.id = id)

/-- Whether a frame of the command queue is ready to send (R129). A frame for re-send is ready in CONFIG too, whatever its
command (the model's choice, log entry 49). -/
def State.commandReady (s : State) (f : CommandFrame) : Bool :=
  match s.boards[f.board].command? f.id with
  | none => false
  | some c =>
    match c.condition with
    | .resend => true
    | .waiting =>
      (s.boards[f.board].commands.all (fun d => !d.condition.inHandshake))
        && readyInList f.id s.boards[f.board].commands false
        && (s.running || c.op.isStop)
    | .holdoff _ => false
    | .outstanding _ => false

/-! Supply (R137). -/

/-- The motor rule: M_g + r + S_g ≤ limit_g − reserve_g. -/
def State.admitsMotor (s : State) (g : Fin 4) (r : Nat) : Bool :=
  s.motorSum g + r + s.strikeSum g + s.groups[g].reserve ≤ s.groups[g].limit

/-- The strike rule: S_g + c + M_g ≤ limit_g. -/
def State.admitsStrike (s : State) (g : Fin 4) (c : Nat) : Bool :=
  s.strikeSum g + c + s.motorSum g ≤ s.groups[g].limit

/-! Boards and figures. -/

/-- Whether a board record is an enabled MOTION board (R105). -/
def BoardRec.isMotion (b : BoardRec) : Bool := b.enabled && b.kind = .motion

/-- A figure is healthy when its record is enabled and it is in neither FAULT nor UNHOMED (R144). -/
def State.healthy (s : State) (f : Fin 16) : Bool :=
  s.figRecs[f].enabled && s.figs[f].state != .fault && s.figs[f].state != .unhomed

/-- Whether a move's progress is an end: ARRIVED, FAILED or UNREACHED (R92, R95). -/
def Progress.ended : Progress → Bool
  | .notIssued => false
  | .issued => false
  | .arrived => true
  | .failed => true
  | .unreached => true

/-! Banks (R157, R143, R144). -/

/-- The entries in use of a bank, in index order. -/
def Bank.used (b : Bank) : List SchedEntry := b.entries.toList.take b.count

/-- The active bank. -/
def Calendar.activeBank (c : Calendar) : Bank :=
  match c.active with
  | .a => c.bankA
  | .b => c.bankB

/-- The shadow bank. -/
def Calendar.shadowBank (c : Calendar) : Bank :=
  match c.active with
  | .a => c.bankB
  | .b => c.bankA

/-- The entry whose gates hold at a position of the cycle: the latest at or below it, or the last entry in use
while the position is below the first entry's offset; none with an entry count of 0 (R157). -/
def entryAt (es : List SchedEntry) (position : Int) : Option SchedEntry :=
  match (es.filter (fun e => (e.offset : Int) ≤ position)).getLast? with
  | some e => some e
  | none => es.getLast?

/-- The list gates at a position of the cycle (R157). -/
def gatesAt (es : List SchedEntry) (position : Int) : Gate × Gate :=
  match entryAt es position with
  | some e => (e.bellGate, e.figureGate)
  | none => (.opened, .opened)

/-- The list gates the active bank gives at show time `t`, its cycle repeated from the cycle start (R144). -/
def Calendar.gatesAtTime (c : Calendar) (t : Time) : Gate × Gate :=
  gatesAt c.activeBank.used (if t < c.cycleStart then t - c.cycleStart else (t - c.cycleStart) % c.activeBank.cycle)

/-- Whether a schedule entry's gates open every required gate (R143). -/
def SchedEntry.opens (e : SchedEntry) (n : GateNeed) : Bool := n.met (e.bellGate = .opened) (e.figureGate = .opened)

/-- The spans of a bank for a show's required gates: each entry's length and whether it is open (R143). The
last span reaches to the first entry of the next cycle. -/
def spansFrom (cycle first : Nat) (n : GateNeed) : List SchedEntry → List (Nat × Bool)
  | [] => []
  | [e] => [(first + cycle - e.offset, e.opens n)]
  | e :: e' :: es => (e'.offset - e.offset, e.opens n) :: spansFrom cycle first n (e' :: es)

/-- The greatest sum of lengths of consecutive open spans in a list. -/
def longestRun : List (Nat × Bool) → Nat → Nat → Nat
  | [], run, best => max run best
  | (len, true) :: rest, run, best => longestRun rest (run + len) best
  | (_, false) :: rest, run, best => longestRun rest 0 (max run best)

/-- The longest open stretch of a bank that has a closed span, taken round the cycle as a ring: since a
stretch meets no closed span, it lies whole in the spans written twice (R143). -/
def longestStretch (spans : List (Nat × Bool)) : Nat := longestRun (spans ++ spans) 0 0

/-- The spans of the bank for the required gates (R143). -/
def Bank.spans (b : Bank) (n : GateNeed) : List (Nat × Bool) :=
  spansFrom b.cycle (match b.used with | [] => 0 | e :: _ => e.offset) n b.used

/-- The fits-nowhere check (R143): whether a show of the scaled length and required gates fits the bank. -/
def Bank.fits (b : Bank) (n : GateNeed) (scaledLength : Nat) : Bool :=
  b.used.isEmpty || (b.spans n).all (fun p => p.2) || scaledLength ≤ longestStretch (b.spans n)

/-- Whether some entry of the active bank that closes a required gate has its entry time strictly between
`start` and `start + len` in the cycle that begins `k` cycles after the cycle start (R144). -/
def Calendar.closesInCycle (c : Calendar) (n : GateNeed) (start : Time) (len k : Nat) : Bool :=
  c.activeBank.used.any (fun e =>
    let te : Time := c.cycleStart + k * c.activeBank.cycle + e.offset
    decide (start < te ∧ te < start + len) && !e.opens n)

/-- The fourth check of R144: the gates at `start` open every required gate and none closes before
`start + len`. -/
def Calendar.openOver (c : Calendar) (n : GateNeed) (start : Time) (len : Nat) : Bool :=
  let g := c.gatesAtTime start
  n.met (g.1 = .opened) (g.2 = .opened) &&
    (List.range ((start + len - c.cycleStart).toNat / c.activeBank.cycle + 1)).all
      (fun k => !c.closesInCycle n start len k)

/-- The scaled length of a show at a tempo (R143). -/
def scaledLength (w : ShowRec) (tempo : Nat) : Nat := (w.declaredLength * 100 + tempo / 2) / tempo

end Sys2Proof.Machine
end

