-- ==== Sys2Proof/Machine/Boards.lean ====
section
/-! DEFINITION. The command lists of the boards and the tail port's command queue: requests, placing, withdrawal
and sending (R128, R129, R131, R134), and the meaning of COMMAND_QUEUE_PLACE. -/

namespace Sys2Proof.Machine

/-! Frames of commands. -/

/-- Frames of the board's commands whose numbers `p` picks leave the command queue (R128, R130, R133). -/
def State.dropFrames (s : State) (b : Fin 32) (p : Nat → Bool) : State :=
  s.modTail (fun t => { t with commandQueue := t.commandQueue.filter (fun f => !(f.board = b && p f.id)) })

/-- A command's frame joins the command queue, or stays unplaced when the queue holds 16 frames (R128). Its
DEST is the board's node address at its forming (R129). -/
def State.placeFrame (s : State) (b : Fin 32) (id : Nat) : State :=
  if s.tail.commandQueue.length < 16 then
    s.modTail (fun t => { t with commandQueue := t.commandQueue ++
      [{ board := b, id := id, dest := s.boardRecs[b].address }] })
  else s

/-! Placing. -/

/-- Whether a command of the board waits for a place in the command queue (R128, R131). -/
def State.unplaced (s : State) (b : Fin 32) (c : Command) : Bool :=
  (match c.condition with
    | .waiting => true
    | .resend => true
    | .holdoff _ => false
    | .outstanding _ => false) && !s.tail.commandQueue.any (fun f => f.board = b && f.id = c.id)

/-- The class of an unplaced command in the offer: frames for re-send, then STOPs, then the others (R128). -/
def Command.offerClass (c : Command) : Nat :=
  match c.condition with
  | .resend => 0
  | .waiting => if c.op.isStop then 1 else 2
  | .holdoff _ => 2
  | .outstanding _ => 2

/-- The unplaced commands of all boards with their boards. -/
def State.unplacedCommands (s : State) : List (Fin 32 × Command) :=
  (indices 32).flatMap (fun b => (s.boards[b].commands.filter (s.unplaced b)).map (fun c => (b, c)))

/-- Whether the first command is offered a place before the second: by class, then by order of request (R128). -/
def offeredBefore (x y : Command) : Bool :=
  x.offerClass < y.offerClass || (x.offerClass = y.offerClass && x.id < y.id)

/-- The command that is offered a place first. -/
def firstOffered : List (Fin 32 × Command) → Option (Fin 32 × Command)
  | [] => none
  | x :: xs => match firstOffered xs with
    | none => some x
    | some y => some (if offeredBefore y.2 x.2 then y else x)

/-- COMMAND_QUEUE_PLACE: a free place is taken by the first of the unplaced commands (R128). -/
def State.placeNext (s : State) : State :=
  match firstOffered s.unplacedCommands with
  | none => s
  | some (b, c) => s.placeFrame b c.id

/-- The free places of the command queue, at most `n` of them, taken by the unplaced commands in their order (R128). -/
def State.fillPlaces : Nat → State → State
  | 0, s => s
  | n + 1, s =>
    match firstOffered s.unplacedCommands with
    | none => s
    | some (b, c) => State.fillPlaces n (s.placeFrame b c.id)

/-- The unplaced commands take the free places of the command queue, while there are both: a command that joins or
comes back takes a place behind those that wait for one (R128). -/
def State.fillQueue (s : State) : State := s.fillPlaces (16 - s.tail.commandQueue.length)

/-! Requests. -/

def CommandOp.isMoveOrHome : CommandOp → Bool
  | .move _ _ _ => true
  | .home => true
  | .stop => false
  | .clearFault => false

/-- Whether a command has not been sent, or has come back: waiting or in holdoff. -/
def CommandCondition.atRest (c : CommandCondition) : Bool := c.isWaiting || c.isHoldoff

/-- Whether a STOP for the channel withdraws the command: a MOVE or HOME for it, waiting or in holdoff (R128). -/
def Command.yieldsTo (ch : Option (Fin 4)) (c : Command) : Bool :=
  ch.isSome && c.channel = ch && c.op.isMoveOrHome && c.condition.atRest

/-- Whether a waiting command already serves a STOP for the channel: a STOP for it or for ALL (R128). -/
def Command.servesStop (ch : Option (Fin 4)) (c : Command) : Bool :=
  ch.isSome && c.op.isStop && c.condition.isWaiting && (c.channel = ch || c.channel = none)

/-- A STOP's place in the list: ahead of every waiting or holdoff command that is not a STOP (R128). It stands ahead of
a STOP that is behind such a command too, where R128 asks for both sides of it: a waiting STOP behind a rejected command
in holdoff, or a STOP in holdoff (the model's choice, log entry 30). -/
def insertStop (x : Command) : List Command → List Command
  | [] => [x]
  | c :: cs => if c.condition.atRest && !c.op.isStop then x :: c :: cs else c :: insertStop x cs

/-- The first waiting STOP that serves the channel takes one more owner (R128; that it is the first is the model's choice,
log entry 30). -/
def addOwner (ch : Option (Fin 4)) (owner : Option (Fin 16)) : List Command → List Command
  | [] => []
  | c :: cs =>
    if c.servesStop ch then { c with owners := c.owners ++ owner.toList } :: cs else c :: addOwner ch owner cs

/-- The command made of a request. -/
def newCommand (id : Nat) (op : CommandOp) (ch : Option (Fin 4)) (owner : Option (Fin 16)) : Command :=
  { id := id, op := op, channel := ch, condition := .waiting, tag := none, rejects := 0, resendUsed := false,
    owners := owner.toList }

/-- The board's commands that `p` picks are withdrawn without outcome, with their frames (R128, R134). -/
def State.withdrawCommands (s : State) (b : Fin 32) (p : Command → Bool) : State :=
  (s.dropFrames b (fun id => s.boards[b].commands.any (fun c => c.id = id && p c))).modBoard b
    (fun t => { t with commands := t.commands.filter (fun c => !p c) })

/-- A new command joins its board's list, and the free places are taken in the order of R128. -/
def State.joinCommands (s : State) (b : Fin 32) (op : CommandOp) (ch : Option (Fin 4)) (owner : Option (Fin 16)) :
    State :=
  let x := newCommand s.boardUnit.nextId op ch owner
  ((s.modBoardUnit (fun u => { u with nextId := u.nextId + 1 })).modBoard b (fun t => { t with
    commands := if op.isStop then insertStop x t.commands else t.commands ++ [x] })).fillQueue

/-- COMMAND_REQUEST: a request to a board, taken or refused with board absent (R128). Answers whether it was
taken. -/
def State.requestCommand (s : State) (b : Fin 32) (op : CommandOp) (ch : Option (Fin 4))
    (owner : Option (Fin 16)) : State × Bool :=
  if s.boards[b].presence = .absent then (s, false)
  else if op.isStop then
    let s1 := s.withdrawCommands b (Command.yieldsTo ch)
    if s1.boards[b].commands.any (Command.servesStop ch) then
      (s1.modBoard b (fun t => { t with commands := addOwner ch owner t.commands }), true)
    else (s1.joinCommands b op ch owner, true)
  else (s.joinCommands b op ch owner, true)

/-! Changes of one command. -/

/-- The command with the number is changed. -/
def State.modCommand (s : State) (b : Fin 32) (id : Nat) (g : Command → Command) : State :=
  s.modBoard b (fun t => { t with commands := t.commands.map (fun c => if c.id = id then g c else c) })

/-- The command with the number leaves its list, its frame with it (R128, R130). -/
def State.removeCommand (s : State) (b : Fin 32) (id : Nat) : State := s.withdrawCommands b (fun c => c.id = id)

/-- A command becomes waiting again and is offered a place; in CONFIG, one other than STOP is withdrawn
without outcome instead (R130, R134). -/
def State.rewait (s : State) (b : Fin 32) (c : Command) : State :=
  if s.running || c.op.isStop then (s.modCommand b c.id (fun d => { d with condition := .waiting })).fillQueue
  else s.removeCommand b c.id

/-- A command goes into holdoff; in CONFIG, one other than STOP is withdrawn without outcome instead (R130, R134). -/
def State.holdOff (s : State) (b : Fin 32) (c : Command) : State :=
  if s.running || c.op.isStop then
    s.modCommand b c.id (fun d => { d with condition := .holdoff (s.now + s.settings.rejectHoldoff) })
  else s.removeCommand b c.id

/-- A command enters re-send and its frame joins the command queue or waits unplaced; in CONFIG, one other
than STOP is withdrawn without outcome instead (R131, R134). -/
def State.enterResend (s : State) (b : Fin 32) (c : Command) : State :=
  if s.running || c.op.isStop then
    (s.modCommand b c.id (fun d => { d with condition := .resend, resendUsed := true })).fillQueue
  else s.removeCommand b c.id

/-- REJECT_HOLDOFF_END: the board's first command whose holdoff show time has reached becomes waiting again (R130; that it
is the first in the list is the model's choice, log entry 50). -/
def State.endHoldoff (s : State) (b : Fin 32) : State :=
  match s.boards[b].commands.find? (fun c => match c.condition with
    | .holdoff t => decide (t ≤ s.now)
    | .waiting => false
    | .outstanding _ => false
    | .resend => false) with
  | none => s
  | some c => s.rewait b c

/-! Sending. -/

/-- The command's code: 0 MOVE, 1 HOME, 2 STOP, 3 CLEAR_FAULT (R138, Table 10.5). -/
def CommandOp.code : CommandOp → Nat
  | .move _ _ _ => 0
  | .home => 1
  | .stop => 2
  | .clearFault => 3

/-- The channel's code, 15 for ALL (R138, Table 10.5). -/
def channelCode (ch : Option (Fin 4)) : Nat :=
  match ch with
  | some c => c.val
  | none => 15

/-- A direction's code (Table 10.5). -/
def Way.code : Way → Nat
  | .forward => 0
  | .backward => 1
  | .shorter => 2

/-- The target, direction and speed of a command: those of a MOVE, zeros for the others (Table 10.5). -/
def CommandOp.parameters : CommandOp → Nat × Nat × Nat
  | .move target way speed => (target, way.code, speed)
  | .home => (0, 0, 0)
  | .stop => (0, 0, 0)
  | .clearFault => (0, 0, 0)

/-- The BOARD_COMMAND payload: tag, command, channel, target, direction, speed (Table 10.5). -/
def commandPayload (tag : Byte) (c : Command) : List Byte :=
  let p := c.op.parameters
  [tag, byteOf c.op.code, byteOf (channelCode c.channel)] ++ leBytes 2 p.1 ++ [byteOf p.2.1] ++ leBytes 2 p.2.2

/-- The tag a transmission takes: a re-send keeps the tag it repeats, any other takes the next tag (R129). -/
def sendTag (t : BoardState) (c : Command) : Byte :=
  match c.condition with
  | .resend => c.tag.getD t.nextTag
  | .waiting => t.nextTag
  | .holdoff _ => t.nextTag
  | .outstanding _ => t.nextTag

/-- The next tag after a transmission (R129). -/
def tagAfter (t : BoardState) (c : Command) : Byte :=
  match c.condition with
  | .resend => t.nextTag
  | .waiting => t.nextTag + 1
  | .holdoff _ => t.nextTag + 1
  | .outstanding _ => t.nextTag + 1

/-- COMMAND_SEND: the frame of a command starts at the tail port (R129). -/
def State.sendCommand (s : State) (f : CommandFrame) (c : Command) : State :=
  let tag := sendTag s.boards[f.board] c
  let s1 := s.modTail (fun t => { t with
    commandQueue := t.commandQueue.filter (fun g => g ≠ f),
    sending := some (formFrame f.dest s.node kindBoardCommand (commandPayload tag c)) })
  let s2 := s1.modCommand f.board c.id (fun d => { d with
    condition := .outstanding (s.now + s.settings.answerTimeout), tag := some tag })
  s2.modBoard f.board (fun t => { t with nextTag := tagAfter s.boards[f.board] c, sent := inc16 t.sent })

/-! The meanings. -/

/-- COMMAND_QUEUE_PLACE (R128). -/
def execCommandQueuePlace (s : State) : Host.Outcome State Fault Refusal := .next s.placeNext

/-- REJECT_HOLDOFF_END (R130). -/
def execRejectHoldoffEnd (b : Fin 32) (s : State) : Host.Outcome State Fault Refusal := .next (s.endHoldoff b)

end Sys2Proof.Machine
end

