-- ==== Sys2Proof/Machine/Figures.lean ====
section
/-! DEFINITION. The figure controller and the zone arbiter (R103 to R124), the release of motor currents (R137), and
the meaning of ZONE_GRANT. -/

namespace Sys2Proof.Machine

/-! Distances, paths and zones (R103, R104). -/

/-- The counts from `a` to `b` by rising positions of a revolution. -/
def riseMod (n a b : Nat) : Nat := (b % n + n - a % n) % n

/-- The distance from `p` to `t` in the way; for a LINEAR figure the way is not used (R103). -/
def distanceBy (r : FigRec) (w : Way) (p t : Nat) : Nat :=
  match r.kind with
  | .linear => (p - t) + (t - p)
  | .rotary => match w with
    | .forward => riseMod r.span p t
    | .backward => riseMod r.span t p
    | .shorter => min (riseMod r.span p t) (riseMod r.span t p)

/-- The way of a path: a LINEAR target decides it; SHORTER is the way of the smaller distance, FORWARD when
the two are equal (R103). -/
def resolveWay (r : FigRec) (w : Way) (p t : Nat) : Way :=
  match r.kind with
  | .linear => if p ≤ t then .forward else .backward
  | .rotary => match w with
    | .forward => .forward
    | .backward => .backward
    | .shorter => if riseMod r.span p t ≤ riseMod r.span t p then .forward else .backward

/-- Whether a span contains the position; one with lo above hi wraps through 0 (R104). -/
def ZoneSpan.contains (sp : ZoneSpan) (p : Nat) : Bool :=
  if sp.lo ≤ sp.hi then sp.lo ≤ p && p ≤ sp.hi else sp.lo ≤ p || p ≤ sp.hi

/-- Whether two stretches of a revolution, each given by its first position and its length, share a position. -/
def arcsMeet (n a la b lb : Nat) : Bool := riseMod n a b ≤ la || riseMod n b a ≤ lb

/-- Whether a span meets the path from `p` to `t` in the resolved way (R104). -/
def ZoneSpan.meets (r : FigRec) (w : Way) (p t : Nat) (sp : ZoneSpan) : Bool :=
  match r.kind with
  | .linear => sp.lo ≤ max p t && min p t ≤ sp.hi
  | .rotary => match w with
    | .forward => arcsMeet r.span p (riseMod r.span p t) sp.lo (riseMod r.span sp.lo sp.hi)
    | .backward => arcsMeet r.span t (riseMod r.span t p) sp.lo (riseMod r.span sp.lo sp.hi)
    | .shorter => false

/-- The zones of the spans that `p` picks, in zone order. -/
def zonesWhere (r : FigRec) (p : ZoneSpan → Bool) : List (Fin 24) :=
  (indices 24).filter (fun z => r.spans.any (fun sp => sp.zone = z && p sp))

/-- The zones of all of a figure's spans, needed by a homing (R104). -/
def allZones (r : FigRec) : List (Fin 24) := zonesWhere r (fun _ => true)

/-- The zones whose spans contain the position; none when the position is absent. -/
def zonesAt (r : FigRec) (p : Option Nat) : List (Fin 24) :=
  match p with
  | some q => zonesWhere r (fun sp => sp.contains q)
  | none => []

/-- The way resolved for a goal from a position. A homing has none (log entry 16). -/
def goalWay (r : FigRec) (g : MoveGoal) (p : Option Nat) : Way :=
  match g, p with
  | .go t _ w, some q => resolveWay r w q t
  | .go _ _ _, none => .forward
  | .home, _ => .forward

/-- The needed zones of a goal from a position (R104). -/
def neededZones (r : FigRec) (g : MoveGoal) (p : Option Nat) : List (Fin 24) :=
  match g, p with
  | .go t _ w, some q => zonesWhere r (ZoneSpan.meets r (resolveWay r w q t) q t)
  | .go _ _ _, none => allZones r
  | .home, _ => allZones r

/-- The working form of a move (R103). -/
def workingForm (r : FigRec) (target speedPercent : Nat) (w : Way) : MoveGoal :=
  .go (match r.kind with
    | .linear => clamp r.softLo r.softHi target
    | .rotary => target % r.span) (clamp 1 100 speedPercent) w

/-- Whether a position lies within the arrive tolerance of the goal's target (R111). -/
def withinTolerance (r : FigRec) (p : Nat) (g : MoveGoal) : Bool :=
  match g with
  | .go t _ _ => distanceBy r .shorter p t ≤ r.tolerance
  | .home => false

def MoveGoal.isHome : MoveGoal → Bool
  | .go _ _ _ => false
  | .home => true

/-- Whether the figure's current move is a homing. -/
def Figure.homingNow (f : Figure) : Bool :=
  match f.current with
  | some m => m.goal.isHome
  | none => false

/-! Zones of a figure. -/

/-- The figure releases the zones it holds outside `keep`. -/
def State.releaseZones (s : State) (f : Fin 16) (keep : List (Fin 24)) : State :=
  s.setZones (fun z => if s.zones[z] = some f && !keep.contains z then none else s.zones[z])

/-- The figure releases every held zone whose span does not contain its position, all of them when the
position is absent (R108, R111, R115, R121, R123, R124). -/
def State.keepResting (s : State) (f : Fin 16) : State := s.releaseZones f (zonesAt s.figRecs[f] s.figs[f].position)

/-- Whether every needed zone of the figure is held by no figure or by itself (R107). -/
def State.zonesFree (s : State) (f : Fin 16) : Bool :=
  s.figs[f].needed.all (fun z => s.zones[z] = none || s.zones[z] = some f)

/-- Whether a figure in `x` is taken before one in `y` by priority, the lower index among equals (R107, R109). -/
def State.goesBefore (s : State) (x y : Fin 16) : Bool :=
  s.figRecs[y].priority < s.figRecs[x].priority || (s.figRecs[x].priority = s.figRecs[y].priority && x.val < y.val)

/-- A figure placed among figures in priority order. -/
def State.insertByPriority (s : State) (f : Fin 16) : List (Fin 16) → List (Fin 16)
  | [] => [f]
  | g :: gs => if s.goesBefore f g then f :: g :: gs else g :: s.insertByPriority f gs

/-- The figures in the state, in order of priority (R107, R109). -/
def State.byPriority (s : State) (st : FigState) : List (Fin 16) :=
  ((indices 16).filter (fun f => s.figs[f].state = st)).foldr s.insertByPriority []

/-- One waiter of a pass: granted its whole needed set, or nothing (R107). -/
def State.grantOne (s : State) (f : Fin 16) : State :=
  if s.zonesFree f then
    (s.setZones (fun z => if s.figs[f].needed.contains z then some f else s.zones[z])).modFig f
      (fun x => { x with state := .waitSupply })
  else s

/-- An arbitration pass (R107). The supply requests it leads to are rows of their own. -/
def State.arbitrate (s : State) : State := (s.byPriority .waitZone).foldl State.grantOne s

/-- A pass, if the update from `before` released a zone (R107). -/
def State.passIfReleased (before s : State) : State := if s.zones = before.zones then s else s.arbitrate

/-! Supply and commands of a figure. -/

/-- MOTOR_RELEASE: the admitted current of the figure is released (R137). -/
def State.releaseCurrent (s : State) (f : Fin 16) : State := s.modFig f (fun x => { x with admitted := none })

/-- STOP is asked of the board unit for the figure's channel. Answers whether the board took it. -/
def State.askStop (s : State) (f : Fin 16) : State × Bool :=
  let r := s.figRecs[f]
  let a := s.requestCommand r.board .stop (some r.channel) (some f)
  (a.1.modFig f (fun x => { x with commandDone := false }), a.2)

/-! Outcomes of moves. -/

/-- The outcome of a run's move recorded in its progress (R149). -/
def State.recordOutcome (s : State) (k : Fin 4) (i : Nat) (p : Progress) : State :=
  if s.runs[k].state = .free then s else s.modRun k (fun r => { r with progress := r.progress.set i p })

/-- A move of the figure ends with an outcome, which is counted and reported to its requester (R106). A
homing is reported by the events of its own rules. -/
def State.endMove (s : State) (f : Fin 16) (m : Move) (arrived : Bool) : State :=
  let s1 := s.modFig f (fun x =>
    if arrived then { x with movesArrived := inc16 x.movesArrived } else { x with movesFailed := inc16 x.movesFailed })
  match m.requester with
  | .run k i => s1.recordOutcome k i (if arrived then .arrived else .failed)
  | .cue => s1.raise .liveMoveDone f.val (if arrived then 1 else 0)
  | .mgmt => s1

/-- The current move fails, unless it has ended already (R106, R117). -/
def State.failCurrent (s : State) (f : Fin 16) : State :=
  match s.figs[f].current with
  | some m => if m.withdrawn then s else s.endMove f m false
  | none => s

/-- The move in the next-move slot fails. -/
def State.failNext (s : State) (f : Fin 16) : State :=
  match s.figs[f].nextMove with
  | some m => s.endMove f m false
  | none => s

/-! Faults (R117, R118). -/

/-- The cause code of FIGURE_FAULT (R117). -/
def FaultCause.code : FaultCause → Nat
  | .stall => 1
  | .boardAbsent => 2
  | .boardBusy => 3
  | .overcurrent => 4
  | .limit => 5
  | .homeFailed => 6

/-- Whether a cause asks for STOP at its entry from STARTING, MOVING or HOMING (R117). -/
def FaultCause.asksStop : FaultCause → Bool
  | .overcurrent => true
  | .limit => true
  | .homeFailed => true
  | .stall => false
  | .boardAbsent => false
  | .boardBusy => false

/-- Whether the motor of a figure in the state may have been started with no STOP in hand. -/
def FigState.underWay : FigState → Bool
  | .starting => true
  | .moving => true
  | .homing => true
  | .unhomed => false
  | .idle => false
  | .waitZone => false
  | .waitSupply => false
  | .stopping => false
  | .held => false
  | .fault => false

/-- STOP asked for a figure in FAULT; an absent board releases its current at once (R117, R128). -/
def State.stopFaulted (s : State) (f : Fin 16) : State :=
  let a := s.askStop f
  if a.2 then a.1 else a.1.releaseCurrent f

/-- FIGURE_FAULT: the figure enters FAULT, from any state other than UNHOMED and FAULT, its effects in the order in which
R117 names them (log entry 46). -/
def State.enterFault (s : State) (f : Fin 16) (c : FaultCause) : State :=
  let st := s.figs[f].state
  if st = .unhomed ∨ st = .fault then s
  else
    let s1 := (s.modFig f (fun x => { x with state := .fault, faultCause := some c })).raise .figureFault f.val c.code
    let s2 := ((s1.failCurrent f).failNext f).modFig f (fun x => { x with
      current := none, nextMove := none, travelDeadline := none, waitStart := none, stopEnd := .idle, waitUsed := 0 })
    if st.underWay && c.asksStop then s2.stopFaulted f else s2

/-- The board's absence reaches one figure: it faults, and its current is released (R118). -/
def State.absentFigure (s : State) (b : Fin 32) (f : Fin 16) : State :=
  if s.figRecs[f].board = b then
    (if s.figRecs[f].enabled then s.enterFault f .boardAbsent else s).releaseCurrent f
  else s

/-- A figure is stopped into STOPPING; an absent board faults it instead (R114, R123, R124, R128). -/
def State.stopFigure (s : State) (f : Fin 16) (e : StopEnd) : State :=
  let a := s.askStop f
  if a.2 then a.1.modFig f (fun x => { x with state := .stopping, stopEnd := e, travelDeadline := none })
  else (a.1.enterFault f .boardAbsent).releaseCurrent f

/-! Taking moves (R105). -/

/-- The figure's current move enters WAIT_ZONE: its path and needed zones are computed from the position held
(R104, R105, R116). -/
def State.enterWaitZone (s : State) (f : Fin 16) : State :=
  s.modFig f (fun x => match x.current with
    | none => x
    | some m => { x with state := .waitZone, waitStart := some s.now,
                         needed := neededZones s.figRecs[f] m.goal x.position,
                         resolvedWay := goalWay s.figRecs[f] m.goal x.position })

/-- Whether a goal's distance from the position is 0. -/
def atTarget (r : FigRec) (g : MoveGoal) (p : Option Nat) : Bool :=
  match g, p with
  | .go t _ w, some q => distanceBy r w q t = 0
  | .go _ _ _, none => false
  | .home, _ => false

/-- The move becomes the current move of the figure: WAIT_ZONE, or HELD with the figure gate closed (R105,
R120). In HELD the needed zones are left as they were last computed (the model's choice, log entry 48). -/
def State.beginMove (s : State) (f : Fin 16) (m : Move) : State :=
  let s1 := s.modFig f (fun x => { x with current := some m, waitUsed := 0 })
  if s.calendar.figuresOpen then s1.enterWaitZone f
  else s1.modFig f (fun x => { x with state := .held, waitStart := none })

/-- The move goes into the next-move slot; a move there fails and MOVE_REPLACED rises (R105). -/
def State.takeNextSlot (s : State) (f : Fin 16) (m : Move) : State :=
  match s.figs[f].nextMove with
  | none => s.modFig f (fun x => { x with nextMove := some m })
  | some old => (s.endMove f old false).modFig f
      (fun x => { x with nextMove := some m, moveReplaced := inc16 x.moveReplaced })

/-- MOVE_REQUEST: a move in working form is taken by the figure according to its state (R105). -/
def State.takeMove (s : State) (f : Fin 16) (m : Move) : State :=
  let r := s.figRecs[f]
  if !r.enabled || !s.boardRecs[r.board].isMotion then s.endMove f m false
  else match s.figs[f].state with
    | .idle => if atTarget r m.goal s.figs[f].position then s.endMove f m true else s.beginMove f m
    | .waitZone => s.takeNextSlot f m
    | .waitSupply => s.takeNextSlot f m
    | .starting => s.takeNextSlot f m
    | .moving => s.takeNextSlot f m
    | .held => s.takeNextSlot f m
    | .unhomed => s.endMove f m false
    | .homing => s.endMove f m false
    | .stopping => s.endMove f m false
    | .fault => s.endMove f m false

/-- A move request put into working form at its arrival and taken (R103, R105). -/
def State.requestMove (s : State) (f : Fin 16) (target speedPercent : Nat) (w : Way) (q : Requester) : State :=
  s.takeMove f { goal := workingForm s.figRecs[f] target speedPercent w, requester := q, withdrawn := false }

/-- The move in the next-move slot is taken as a new request (R108, R111, R115, R121, R123). -/
def State.takeWaiting (s : State) (f : Fin 16) : State :=
  match s.figs[f].nextMove with
  | none => s
  | some m => (s.modFig f (fun x => { x with nextMove := none })).takeMove f m

/-- The figure comes to rest with no current move: IDLE, or UNHOMED after a homing (R108, R115, R123, R124). -/
def State.restFigure (s : State) (f : Fin 16) : State :=
  s.modFig f (fun x => { x with state := if x.homingNow then .unhomed else .idle, current := none, waitStart := none })

/-! Supply and start (R109). -/

/-- The speed of a MOVE: (max speed × speed percent + 99) div 100 (R109). -/
def legSpeedOf (r : FigRec) (pct : Nat) : Nat := (r.maxSpeed * pct + 99) / 100

/-- The distance of the leg from the position at admission (R110). -/
def legDistanceOf (r : FigRec) (x : Figure) (t : Nat) : Nat :=
  match x.position with
  | some p => distanceBy r x.resolvedWay p t
  | none => 0

/-- The command of an admitted move is asked of the board unit and the figure enters STARTING or HOMING; an
absent board faults it and releases its current (R109, R117, R120, R128). -/
def State.startMove (s : State) (f : Fin 16) (g : MoveGoal) : State :=
  let r := s.figRecs[f]
  match g with
  | .go t pct _ =>
    let v := legSpeedOf r pct
    let a := s.requestCommand r.board (.move t s.figs[f].resolvedWay v) (some r.channel) (some f)
    let s1 := a.1.modFig f (fun x => { x with
      state := .starting, legDistance := legDistanceOf r x t, legSpeed := v, commandDone := false })
    if a.2 then s1 else (s1.enterFault f .boardAbsent).releaseCurrent f
  | .home =>
    let a := s.requestCommand r.board .home (some r.channel) (some f)
    let s1 := a.1.modFig f (fun x => { x with
      state := .homing, travelDeadline := some (s.now + 120000), commandDone := false })
    if a.2 then s1 else (s1.enterFault f .boardAbsent).releaseCurrent f

/-- The waiting time now spent on a move, kept within its range of 0 to 600,000 (Table 6.2; log entry 17). -/
def waitSpent (x : Figure) (now : Time) : Nat :=
  match x.waitStart with
  | some w => (clampInt 0 600000 (x.waitUsed + (now - w))).toNat
  | none => x.waitUsed

/-- The admission of the figure's run current and what follows it (R109). -/
def State.admitFigure (s : State) (f : Fin 16) : State :=
  let r := s.figRecs[f]
  let s1 := s.modFig f (fun x => { x with
    admitted := some (r.runCurrent, s.boardRecs[r.board].group), waitUsed := waitSpent x s.now, waitStart := none })
  match s1.figs[f].current with
  | some m => s1.startMove f m.goal
  | none => s1

/-- Whether supply admits a figure in WAIT_SUPPLY (R109, R137). -/
def State.supplyAdmits (s : State) (f : Fin 16) : Bool :=
  s.figs[f].state = .waitSupply && s.figs[f].current.isSome &&
    s.admitsMotor s.boardRecs[s.figRecs[f].board].group s.figRecs[f].runCurrent

/-- Whether it is the figure's turn: of the figures that wait on its group and that supply admits, none goes
before it (R109). -/
def State.supplyTurn (s : State) (f : Fin 16) : Bool :=
  s.supplyAdmits f && (indices 16).all (fun g =>
    !(s.goesBefore g f && s.boardRecs[s.figRecs[g].board].group = s.boardRecs[s.figRecs[f].board].group
      && s.supplyAdmits g))

/-! Outcomes of commands (R110, R115, R117, R121). -/

/-- The travel time limit of a MOVE: (expected × 3) div 2 + 500 (R110). -/
def stallLimit (distance v : Nat) : Nat := ((distance * 1000 + v - 1) / v * 3) / 2 + 500

/-- The owner of a command is told completed (R110, R115, R121). -/
def State.toldCompleted (s : State) (op : CommandOp) (f : Fin 16) : State :=
  match op with
  | .move _ _ _ =>
    if s.figs[f].state = .starting then
      s.modFig f (fun x => { x with state := .moving,
                                    travelDeadline := some (s.now + stallLimit x.legDistance x.legSpeed) })
    else s
  | .home => if s.figs[f].state = .homing then s.modFig f (fun x => { x with commandDone := true }) else s
  | .stop =>
    if s.figs[f].state = .stopping ∨ s.figs[f].state = .fault then s.modFig f (fun x => { x with commandDone := true })
    else s
  | .clearFault => s

/-- The owner of a command is told failed (R110, R115, R117, R121). The current of a rejected MOVE or HOME is
released; that of a failed STOP stays. -/
def State.toldFailed (s : State) (op : CommandOp) (f : Fin 16) : State :=
  match op with
  | .move _ _ _ => if s.figs[f].state = .starting then (s.enterFault f .boardBusy).releaseCurrent f else s
  | .home => if s.figs[f].state = .homing then (s.enterFault f .boardBusy).releaseCurrent f else s
  | .stop => if s.figs[f].state = .stopping then s.enterFault f .boardBusy else s
  | .clearFault => s

/-! Holds (R114, R116). -/

/-- FIGURE_HELD is raised for a figure that has entered STOPPING or HELD at the closing (R114). -/
def State.noteHeld (s : State) (f : Fin 16) : State :=
  if s.figs[f].state = .stopping ∨ s.figs[f].state = .held then s.raise .figureHeld f.val 1 else s

/-- A waiting figure enters HELD with its waiting time spent (R108, R114). -/
def State.holdWaiter (s : State) (f : Fin 16) : State :=
  s.modFig f (fun x => { x with state := .held, waitUsed := waitSpent x s.now, waitStart := none })

/-- The gate closes on one figure (R114). -/
def State.holdFigure (s : State) (f : Fin 16) : State :=
  match s.figs[f].state with
  | .starting => (s.stopFigure f .held).noteHeld f
  | .moving => (s.stopFigure f .held).noteHeld f
  | .homing => (s.stopFigure f .held).noteHeld f
  | .waitZone => (s.holdWaiter f).noteHeld f
  | .waitSupply => (s.holdWaiter f).noteHeld f
  | .idle => s
  | .unhomed => s
  | .held => s
  | .stopping => s
  | .fault => s

/-- FIGURE_HOLD: the figure gate closes, on the figures in index order (R114; the order is the model's choice, log entry
45). -/
def State.holdFigures (s : State) : State := (indices 16).foldl State.holdFigure s

/-- A figure leaves the hold: its move enters WAIT_ZONE and the zones it no longer needs are released (R116). -/
def State.leaveHold (s : State) (f : Fin 16) : State :=
  let s1 := s.enterWaitZone f
  (s1.releaseZones f s1.figs[f].needed).raise .figureHeld f.val 0

/-- The gate opens on one figure (R116). -/
def State.resumeFigure (s : State) (f : Fin 16) : State := if s.figs[f].state = .held then s.leaveHold f else s

/-- FIGURE_HOLD_RELEASE: the figure gate opens, on the figures in index order (R116). -/
def State.resumeFigures (s : State) : State := (indices 16).foldl State.resumeFigure s

/-! Status (R111, R112, R115, R121). -/

/-- The position a status gives a figure: taken modulo span for a ROTARY one (R112). -/
def reportedPosition (r : FigRec) (p : Nat) : Nat :=
  match r.kind with
  | .linear => p
  | .rotary => p % r.span

/-- Whether a figure in the state takes reported positions (R112). -/
def FigState.takesPosition : FigState → Bool
  | .unhomed => false
  | .homing => false
  | .idle => true
  | .waitZone => true
  | .waitSupply => true
  | .starting => true
  | .moving => true
  | .stopping => true
  | .held => true
  | .fault => true

/-- FIGURE_ARRIVAL: the current move ends ARRIVED (R111). -/
def State.arriveFigure (s : State) (f : Fin 16) (m : Move) : State :=
  let s1 := s.modFig f (fun x => { x with state := .idle, travelDeadline := none, current := none })
  let s2 := State.passIfReleased s1 (s1.keepResting f)
  ((s2.releaseCurrent f).endMove f m true).takeWaiting f

/-- The end of a hold's stop, or of one whose gate has opened (R115). -/
def State.settleStop (s : State) (f : Fin 16) (m : Move) : State :=
  if (match s.figs[f].position with
      | some p => withinTolerance s.figRecs[f] p m.goal
      | none => false) then
    let s1 := s.restFigure f
    ((State.passIfReleased s1 (s1.keepResting f)).endMove f m true).takeWaiting f
  else if s.calendar.figuresOpen then s.leaveHold f
  else s.modFig f (fun x => { x with state := .held })

/-- STOP_COMPLETE: a STOPPING figure's stop completes (R115). -/
def State.completeStop (s : State) (f : Fin 16) : State :=
  let s1 := s.releaseCurrent f
  match s1.figs[f].stopEnd, s1.figs[f].current with
  | .held, some m => s1.settleStop f m
  | .held, none => (State.passIfReleased (s1.restFigure f) ((s1.restFigure f).keepResting f)).takeWaiting f
  | .idle, _ => (State.passIfReleased (s1.restFigure f) ((s1.restFigure f).keepResting f)).takeWaiting f

/-- FIGURE_HOMED: a homing ends at home (R121). -/
def State.endHoming (s : State) (f : Fin 16) : State :=
  let s1 := s.modFig f (fun x => { x with
    state := .idle, position := some s.figRecs[f].home, travelDeadline := none, current := none })
  let s2 := State.passIfReleased s1 (s1.keepResting f)
  ((s2.releaseCurrent f).raise .figureHomed f.val s.figRecs[f].home).takeWaiting f

/-- The current of a faulted figure is released at a status with MOVING clear after its STOP's completion (R117). -/
def State.faultStill (s : State) (f : Fin 16) (r : ChanReport) : State :=
  if s.figs[f].state = .fault && s.figs[f].commandDone && !r.moving then s.releaseCurrent f else s

/-- The flags of a status act on a figure by its state (R111, R115, R121). -/
def State.actOnFlags (s : State) (f : Fin 16) (r : ChanReport) : State :=
  match s.figs[f].state with
  | .moving =>
    match s.figs[f].current with
    | some m =>
      if r.arrived && withinTolerance s.figRecs[f] (reportedPosition s.figRecs[f] r.position) m.goal
      then s.arriveFigure f m else s
    | none => s
  | .stopping => if s.figs[f].commandDone && !r.moving then s.completeStop f else s
  | .homing => if s.figs[f].commandDone && r.homed then s.endHoming f else s
  | .unhomed => s
  | .idle => s
  | .waitZone => s
  | .waitSupply => s
  | .starting => s
  | .held => s
  | .fault => s

/-- FIGURE_STATUS: a channel's entry reaches its figure (R112). -/
def State.figureStatus (s : State) (f : Fin 16) (r : ChanReport) : State :=
  let s1 := s.modFig f (fun x => { x with
    flags := r,
    position := if x.state.takesPosition && x.position.isSome then some (reportedPosition s.figRecs[f] r.position)
                else x.position })
  if r.overcurrent && s1.figs[f].state != .unhomed && s1.figs[f].state != .fault
  then (s1.enterFault f .overcurrent).faultStill f r
  else if r.limit && s1.figs[f].state != .unhomed && s1.figs[f].state != .fault
  then (s1.enterFault f .limit).faultStill f r
  else (s1.actOnFlags f r).faultStill f r

/-- The enabled figure whose record names the board and channel (R112). -/
def State.figureOf (s : State) (b : Fin 32) (ch : Fin 4) : Option (Fin 16) :=
  (indices 16).find? (fun f => s.figRecs[f].enabled && s.figRecs[f].board = b && s.figRecs[f].channel = ch)

/-! Deadlines (R108, R113, R121). -/

/-- The wait deadline of a figure: wait start + zone wait − wait used (R108). -/
def State.waitDeadline (s : State) (f : Fin 16) : Option Time :=
  (s.figs[f].waitStart).map (fun w => w + s.settings.zoneWait - s.figs[f].waitUsed)

/-- Whether show time has reached an optional deadline (R1). -/
def reached (now : Time) (d : Option Time) : Bool :=
  match d with
  | some t => decide (t ≤ now)
  | none => false

/-- The requester's code in MOVE_ABANDONED: slot 0 to 3, 4 for CUE, 5 for MGMT (R125). -/
def Requester.code : Requester → Nat
  | .run k _ => k.val
  | .cue => 4
  | .mgmt => 5

/-- The code of the requester of a figure's current move. -/
def Figure.requesterCode (x : Figure) : Nat :=
  match x.current with
  | some m => m.requester.code
  | none => 5

/-- ZONE_WAIT_DEADLINE: the move of a waiting figure is abandoned, its effects in the order in which R108 names them
(log entry 46). -/
def State.abandonMove (s : State) (f : Fin 16) : State :=
  if (s.figs[f].state = .waitZone ∨ s.figs[f].state = .waitSupply) ∧ reached s.now (s.waitDeadline f) then
    let s1 := s.restFigure f
    let s2 := match s.figs[f].current with
      | some m => (s1.keepResting f).endMove f m false
      | none => s1.keepResting f
    let s3 := (s2.modFig f (fun x => { x with moveAbandoned := inc16 x.moveAbandoned })).raise
      .moveAbandoned f.val s.figs[f].requesterCode
    (State.passIfReleased s s3).takeWaiting f
  else s

/-- TRAVEL_DEADLINE: a MOVING figure stalls (R113). -/
def State.stallFigure (s : State) (f : Fin 16) : State :=
  if s.figs[f].state = .moving ∧ reached s.now s.figs[f].travelDeadline then
    let a := s.askStop f
    if a.2 then a.1.enterFault f .stall else (a.1.enterFault f .stall).releaseCurrent f
  else s

/-- HOMING_DEADLINE: a homing's limit is reached (R121). -/
def State.failHoming (s : State) (f : Fin 16) : State :=
  if s.figs[f].state = .homing ∧ reached s.now s.figs[f].travelDeadline then s.enterFault f .homeFailed else s

/-! Withdrawal and rest (R123, R124, R174). -/

/-- Whether a move still under way has a requester that `p` picks. -/
def moveBy (p : Requester → Bool) (m : Option Move) : Bool :=
  match m with
  | some x => p x.requester && !x.withdrawn
  | none => false

/-- The current move of a figure is marked as ended: its stop's completion gives it no outcome. -/
def Figure.markWithdrawn (x : Figure) : Figure :=
  { x with current := x.current.map (fun m => { m with withdrawn := true }) }

/-- The current move of a figure is withdrawn (the table of R123). -/
def State.withdrawCurrent (s : State) (f : Fin 16) : State :=
  match s.figs[f].state with
  | .waitZone => (s.restFigure f).keepResting f
  | .waitSupply => (s.restFigure f).keepResting f
  | .held => (s.restFigure f).keepResting f
  | .starting => (s.modFig f Figure.markWithdrawn).stopFigure f .idle
  | .moving => (s.modFig f Figure.markWithdrawn).stopFigure f .idle
  | .homing => (s.modFig f Figure.markWithdrawn).stopFigure f .idle
  | .stopping => s.modFig f (fun x => { x.markWithdrawn with stopEnd := .idle })
  | .unhomed => s
  | .idle => s
  | .fault => s

/-- A figure that has come to rest takes the move left in its slot (R123). -/
def State.takeAtRest (s : State) (f : Fin 16) : State :=
  match s.figs[f].state with
  | .idle => s.takeWaiting f
  | .unhomed => s.takeWaiting f
  | .homing => s
  | .waitZone => s
  | .waitSupply => s
  | .starting => s
  | .moving => s
  | .stopping => s
  | .held => s
  | .fault => s

/-- MOVE_WITHDRAW for one figure: its next move and its current move of the run are withdrawn (R123). They are not
reported, and MOVES_FAILED does not rise for them (the model's choice, log entry 15). -/
def State.withdrawRunFrom (s : State) (k : Fin 4) (f : Fin 16) : State :=
  let mine : Requester → Bool := fun q => match q with
    | .run j _ => j = k
    | .cue => false
    | .mgmt => false
  let s1 := if moveBy mine s.figs[f].nextMove then s.modFig f (fun x => { x with nextMove := none }) else s
  if moveBy mine s1.figs[f].current then (s1.withdrawCurrent f).takeAtRest f else s1

/-- MOVE_WITHDRAW: every move of a cancelled run is withdrawn from every figure, in index order (R123; log entry 45). -/
def State.withdrawRun (s : State) (k : Fin 4) : State := (indices 16).foldl (fun t f => t.withdrawRunFrom k f) s

/-- The live moves of one figure are withdrawn and reported FAILED (R174). -/
def State.withdrawLiveFrom (s : State) (f : Fin 16) : State :=
  let live : Requester → Bool := fun q => match q with
    | .run _ _ => false
    | .cue => true
    | .mgmt => false
  let current := moveBy live s.figs[f].current
  let s1 := if current then s.failCurrent f else s
  let s2 := if moveBy live s.figs[f].nextMove
    then (s1.failNext f).modFig f (fun x => { x with nextMove := none }) else s1
  if current then (s2.withdrawCurrent f).takeAtRest f else s2

/-- Every live move is withdrawn, in order of figure index (R174; the order is the model's choice, log entry 39). -/
def State.withdrawLive (s : State) : State := (indices 16).foldl State.withdrawLiveFrom s

/-- The current move of a figure ends at ENGINE_STOP, reported where its requester remains: a live move as
FAILED, a homing by MOVE_ABANDONED (R124). -/
def State.endAtStop (s : State) (f : Fin 16) : State :=
  match s.figs[f].current with
  | some m =>
    if m.withdrawn then s
    else match m.requester with
      | .cue => s.endMove f m false
      | .mgmt => s.raise .moveAbandoned f.val m.requester.code
      | .run _ _ => s
  | none => s

/-- FIGURE_REST for one figure (R124). -/
def State.restOne (s : State) (f : Fin 16) : State :=
  ((s.modFig f (fun x => { x with nextMove := none })).endAtStop f).withdrawCurrent f

/-- FIGURE_REST: every figure is brought to rest, in order of figure index (R124). -/
def State.restFigures (s : State) : State := (indices 16).foldl State.restOne s

/-! Clearing, homing and live moves (R101, R119, R120, R122). -/

/-- The figure becomes UNHOMED with every held zone released (R101, R119). -/
def State.unhome (s : State) (f : Fin 16) : State :=
  (s.releaseZones f []).modFig f (fun x => { x with state := .unhomed, position := none, faultCause := none })

/-- A faulted figure without current is cleared (R119). -/
def State.clearFigure (s : State) (f : Fin 16) : State :=
  ((s.requestCommand s.figRecs[f].board .clearFault (some s.figRecs[f].channel) (some f)).1).unhome f

/-- Whether a figure can be cleared: in FAULT with no current admitted (R119). -/
def Figure.clearable (x : Figure) : Bool := x.state = .fault && x.admitted.isNone

/-- A homing becomes the figure's current move (R120). -/
def State.beginHoming (s : State) (f : Fin 16) : State :=
  (s.modFig f (fun x => { x with position := none })).beginMove f
    { goal := .home, requester := .mgmt, withdrawn := false }

/-- Whether a figure qualifies for a homing but for its owner (R120). -/
def State.canHome (s : State) (f : Fin 16) : Bool :=
  s.figRecs[f].enabled && s.boardRecs[s.figRecs[f].board].isMotion &&
    (s.figs[f].state = .unhomed || s.figs[f].state = .idle)

/-- HOME_ON_RUN: a homing is requested for every enabled UNHOMED figure that qualifies (R120). -/
def State.homeAll (s : State) : State :=
  (indices 16).foldl (fun t f =>
    if t.canHome f && t.figs[f].state = .unhomed && t.figs[f].owner.isNone then t.beginHoming f else t) s

/-- Whether a figure's state refuses a live move (R122). -/
def FigState.refusesLive : FigState → Bool
  | .unhomed => true
  | .homing => true
  | .stopping => true
  | .fault => true
  | .idle => false
  | .waitZone => false
  | .waitSupply => false
  | .starting => false
  | .moving => false
  | .held => false

/-! The meaning. -/

/-- ZONE_GRANT (R107). -/
def execZoneGrant (s : State) : Host.Outcome State Fault Refusal := .next s.arbitrate

end Sys2Proof.Machine
end

