-- ==== Sys2Proof/Machine/Strikes.lean ====
section
/-! DEFINITION. The strike planner and the launch queue: planning a strike (R44 to R49), firing it (R50 to R58),
the waiting list and the assembly (R59 to R69), time steps and purges (R70 to R73), supply accounting of strikes
(R136, R137), and the meanings of FIRE_HEAD_ENTRY and STRIKE_WINDOW_END. -/

namespace Sys2Proof.Machine

/-! Planning. -/

/-- When a strike is to sound: at a show time, or `offset` ms after its request plus the flight (R44, R47). -/
inductive StrikeWhen where
  | soundAt (t : Time)
  | asap (offset : Nat)
  deriving DecidableEq, Repr

/-- A strike request (R44). -/
structure StrikeRequest where
  bell : Nat
  velocity : Nat
  time : StrikeWhen
  origin : StrikeOrigin
  deriving DecidableEq, Repr

/-- Why a strike request is refused (R44). -/
inductive StrikeRefusal where
  | bellInvalid
  | late
  | beyondHorizon
  | queueFull
  deriving DecidableEq, Repr

/-- The outcome of a strike request (R44). -/
inductive PlanOutcome where
  | accepted
  | ignored
  | refused (r : StrikeRefusal)
  deriving DecidableEq, Repr

/-- The velocity used, or none for a cue entry of velocity 0 (the table of R45). -/
def usedVelocity (o : StrikeOrigin) (v : Nat) : Option Nat :=
  match o with
  | .run _ => some (clamp 1 127 v)
  | .cue => if v = 0 then none else some (clamp 1 127 v)

/-- The shaped velocity s (R46). -/
def shapedVelocity (c : Curve) (v : Nat) : Nat :=
  match c with
  | .linear => v
  | .square => max 1 ((v * v + 63) / 127)

/-- The flight f (R47). -/
def flight (b : BellRec) (sh : Nat) : Nat :=
  b.flightSoft - ((b.flightSoft - b.flightLoud) * (sh - 1) + 63) / 126

/-- The sound time T (R44, R47). -/
def soundTime (w : StrikeWhen) (now : Time) (f : Nat) : Time :=
  match w with
  | .soundAt t => t
  | .asap offset => now + offset + f

/-- The launch horizon (R48). -/
def launchHorizon : Time := 10000

/-- What planning decides: an entry for the launch queue, or another outcome (R45 to R49). -/
inductive PlanDecision where
  | enter (e : LaunchEntry)
  | ignore
  | refuse (r : StrikeRefusal)
  deriving DecidableEq, Repr

/-- The entry planned for an enabled bell and a used velocity (R46, R47, R49). -/
def plannedEntry (s : State) (bell : Fin 48) (v : Nat) (q : StrikeRequest) : LaunchEntry :=
  let b := s.bellRecs[bell]
  let sh := shapedVelocity b.curve v
  let t := soundTime q.time s.now (flight b sh)
  { bell := bell, shaped := sh, sound := t, fire := t - flight b sh, fire0 := t - flight b sh,
    origin := q.origin, deferred := 0 }

/-- The checks of R47 to R49 on a planned entry, in order. -/
def judgeEntry (s : State) (e : LaunchEntry) : PlanDecision :=
  if e.fire < 0 then .refuse .late
  else if s.now + launchHorizon < e.fire then .refuse .beyondHorizon
  else if e.fire < s.now - s.settings.expiry then .refuse .late
  else if 256 ≤ s.held then .refuse .queueFull
  else .enter e

/-- The planning of a strike request: the bell first, then the velocity, then the times (R45 to R49). -/
def planDecision (s : State) (q : StrikeRequest) : PlanDecision :=
  match fin? 48 q.bell with
  | none => .refuse .bellInvalid
  | some bell =>
    if s.bellRecs[bell].enabled = false then .refuse .bellInvalid
    else match usedVelocity q.origin q.velocity with
      | none => .ignore
      | some v => judgeEntry s (plannedEntry s bell v q)

/-- The waiting list after an entry joins: behind every entry at or before its own fire time (R60). -/
def insertByFire (e : LaunchEntry) : List LaunchEntry → List LaunchEntry
  | [] => [e]
  | x :: xs => if x.fire ≤ e.fire then x :: insertByFire e xs else e :: x :: xs

/-- An entry joins the waiting list (R60). -/
def State.joinWaiting (s : State) (e : LaunchEntry) : State :=
  s.modLaunch (fun l => { l with waiting := insertByFire e l.waiting })

/-- The refusal counter of the reason rises by one (R45, R47 to R49). -/
def StrikeCounters.refuse (c : StrikeCounters) (r : StrikeRefusal) : StrikeCounters :=
  match r with
  | .bellInvalid => { c with refusedBellInvalid := inc32 c.refusedBellInvalid }
  | .late => { c with refusedLate := inc32 c.refusedLate }
  | .beyondHorizon => { c with refusedBeyondHorizon := inc32 c.refusedBeyondHorizon }
  | .queueFull => { c with refusedQueueFull := inc32 c.refusedQueueFull }

/-- STRIKE_PLAN: a strike request planned whole, with its outcome (R44 to R49). -/
def planStrike (s : State) (q : StrikeRequest) : PlanOutcome × State :=
  match planDecision s q with
  | .enter e => (.accepted, (s.joinWaiting e).modStrikeCounters (fun c => { c with accepted := inc32 c.accepted }))
  | .ignore => (.ignored, s)
  | .refuse r => (.refused r, s.modStrikeCounters (fun c => c.refuse r))

/-! The assembly and the strike output queue. -/

/-- The payload of a STRIKE frame: the pair count, then each pair's channel and pulse width (Table 10.5). -/
def strikePayload (pairs : List (Fin 16 × Nat)) : List Byte :=
  byteOf pairs.length :: pairs.flatMap (fun p => byteOf p.1.val :: leBytes 2 p.2)

/-- STRIKE_FRAME_OFFER: a closed frame joins the strike output queue, or is lost whole (R68). -/
def State.offerFrame (s : State) (f : OpenFrame) : State :=
  if s.tail.strikeQueue.length < 8 then
    (s.modTail (fun t => { t with strikeQueue := t.strikeQueue ++
        [formFrame s.boardRecs[f.board].address s.node kindStrike (strikePayload f.pairs)] })).modStrikeCounters
      (fun c => { c with emitted := satAdd 32 f.pairs.length c.emitted })
  else
    s.modStrikeCounters (fun c => { c with skipped := satAdd 32 f.pairs.length c.skipped,
                                           skipOutOverrun := satAdd 32 f.pairs.length c.skipOutOverrun })

/-- The assembly after a pair joins its board's open frame, which is opened if there is none (R66). -/
def joinFrame (board : Fin 32) (pair : Fin 16 × Nat) : List OpenFrame → List OpenFrame
  | [] => [{ board := board, pairs := [pair] }]
  | f :: fs => if f.board = board then { f with pairs := f.pairs ++ [pair] } :: fs else f :: joinFrame board pair fs

/-- Whether a frame is full: its eighth pair has joined (R66). -/
def OpenFrame.full (f : OpenFrame) : Bool := 8 ≤ f.pairs.length

/-- Frames leave the assembly and are offered in their order (R66, R67). -/
def State.closeFrames (s : State) (p : OpenFrame → Bool) : State :=
  (s.launch.assembly.filter p).foldl State.offerFrame
    (s.modLaunch (fun l => { l with assembly := l.assembly.filter (fun f => !p f) }))

/-- ASSEMBLY_JOIN: an emitted strike joins the assembly; a full frame is closed and offered (R66). -/
def State.joinAssembly (s : State) (board : Fin 32) (pair : Fin 16 × Nat) : State :=
  (s.modLaunch (fun l => { l with assembly := joinFrame board pair l.assembly })).closeFrames OpenFrame.full

/-- BATCH_END: when no entry is due, every open frame is closed and offered (R67). -/
def State.endBatch (s : State) : State := if s.headDue then s else s.closeFrames (fun _ => true)

/-- LAUNCH_ROOM_NOTICE: at an event that brings the number held from 256 to below it, every paused run is told
that there is room (R61). `before` is the number held before the event. -/
def State.noticeRoom (s : State) (before : Nat) : State :=
  if 256 ≤ before ∧ s.held < 256 then s.modRuns (fun r => if r.paused then { r with roomNotice := true } else r)
  else s

/-! Supply accounting of strikes (R136, R137). -/

/-- The strike admissions whose windows have ended by show time are released (R137). -/
def State.releaseReached (s : State) : State :=
  s.setStrikeAccount (s.strikeAccount.filter (fun a => decide (s.now < a.windowEnd)))

/-- The ends of windows that show time has reached. -/
def State.reachedEnds (s : State) : List Time :=
  (s.strikeAccount.map (fun a => a.windowEnd)).filter (fun t => decide (t ≤ s.now))

/-- The least of a list of show times. -/
def leastTime : List Time → Option Time
  | [] => none
  | t :: ts => match leastTime ts with
    | none => some t
    | some u => some (if t ≤ u then t else u)

/-- The end of the earliest window among the group's admissions: the candidate fire time of a deferral (R57). -/
def State.earliestEnd (s : State) (g : Fin 4) : Option Time :=
  leastTime ((s.strikeAccount.filter (fun a => a.group = g)).map (fun a => a.windowEnd))

/-! Firing. -/

/-- Why a firing skips its entry (R64). -/
inductive SkipReason where
  | recovery
  | heat
  | budget
  | boardAbsent
  deriving DecidableEq, Repr

/-- SKIPPED and the sub-count of the reason rise by one (R64). -/
def StrikeCounters.skip (c : StrikeCounters) (r : SkipReason) : StrikeCounters :=
  let d := { c with skipped := inc32 c.skipped }
  match r with
  | .recovery => { d with skipRecovery := inc32 c.skipRecovery }
  | .heat => { d with skipHeat := inc32 c.skipHeat }
  | .budget => { d with skipBudget := inc32 c.skipBudget }
  | .boardAbsent => { d with skipBoardAbsent := inc32 c.skipBoardAbsent }

/-- The second firing step: the strike can reach a working coil (R52). -/
def State.coilReachable (s : State) (bell : Fin 48) : Bool :=
  let b := s.bellRecs[bell]
  b.enabled && s.boardRecs[b.board].enabled && s.boardRecs[b.board].kind = .bell
    && s.boards[b.board].presence = .present && !s.bells[bell].unavailable

/-- The third firing step: the bell has recovered from its last emitted strike (R53). -/
def State.recovered (s : State) (bell : Fin 48) : Bool :=
  match s.bells[bell].lastFire with
  | none => true
  | some t => decide ((s.bellRecs[bell].recovery : Int) ≤ s.now - t)

/-- The base pulse p0 (R54). -/
def basePulse (b : BellRec) (sh : Nat) : Nat :=
  b.pulseMin + ((b.pulseMax - b.pulseMin) * (sh - 1) + 63) / 126

/-- The rail voltage Vb used for a board: the reported rail or Vnom, clamped (R54). -/
def railVoltage (vnom : Nat) (rail : Option Nat) : Nat :=
  clamp ((2 * vnom + 2) / 3) ((4 * vnom) / 3) (rail.getD vnom)

/-- The compensated pulse p1 (R54). -/
def compensatedPulse (b : BellRec) (sh vnom : Nat) (rail : Option Nat) : Nat :=
  let vb := railVoltage vnom rail
  clamp b.pulseMin b.pulseCeiling ((basePulse b sh * vnom + vb / 2) / vb)

/-- The heat after its decay (R55). -/
def decayedHeat (b : BellRec) (h : BellState) (now : Time) : Nat :=
  h.heat - (b.coolRate * (now - h.heatAt).toNat) / 1000

/-- The pulse p2 fitted under the heat limit, or none when the strike is skipped with HEAT (R55). -/
def fittedPulse (b : BellRec) (heat p1 : Nat) : Option Nat :=
  if heat + p1 ≤ b.heatLimit then some p1
  else if b.heatLimit - heat < b.pulseMin then none
  else some (b.heatLimit - heat)

/-- The end of a pulse of width `p` emitted at `now` (R56). -/
def pulseEnd (now : Time) (p : Nat) : Time := now + ((p + 999) / 1000 : Nat)

/-- An entry skipped for the reason (R64). -/
def State.skipStrike (s : State) (r : SkipReason) : State := s.modStrikeCounters (fun c => c.skip r)

/-- STRIKE_DEFER: a strike that supply does not admit is re-inserted at the end of the earliest window, or
skipped with BUDGET (R57, R65). -/
def State.deferStrike (s : State) (e : LaunchEntry) (g : Fin 4) : State :=
  match s.earliestEnd g with
  | none => s.skipStrike .budget
  | some t =>
    if s.settings.expiry < t - e.fire0 then s.skipStrike .budget
    else (s.joinWaiting { e with fire := t, deferred := min (e.deferred + 1) 255 }).modStrikeCounters
      (fun c => { c with deferrals := inc32 c.deferrals })

/-- The counters raised at an emission: HEAT_TRIMMED and LATE_FIRED (R58). -/
def StrikeCounters.emission (c : StrikeCounters) (trimmed late : Bool) : StrikeCounters :=
  { c with heatTrimmed := if trimmed then inc32 c.heatTrimmed else c.heatTrimmed,
           lateFired := if late then inc32 c.lateFired else c.lateFired }

/-- STRIKE_EMIT: heat, last_fire, the admission, the counters and the greatest lateness, and the pair handed to
the assembly (R58, R66, R69). `p1` and `p2` are the pulses of R54 and R55. -/
def State.emitStrike (s : State) (e : LaunchEntry) (p1 p2 : Nat) : State :=
  let b := s.bellRecs[e.bell]
  let g := s.boardRecs[b.board].group
  let h := s.bells[e.bell]
  let late := decide (e.fire0 < s.now)
  let s1 := s.setBell e.bell { h with heat := h.heat + p2, lastFire := some s.now }
  let s2 := s1.setStrikeAccount (s1.strikeAccount ++
    [{ group := g, bell := e.bell, current := b.coilCurrent, windowEnd := pulseEnd s.now p2 }])
  let s3 := s2.modLaunch (fun l => { l with
    counters := l.counters.emission (decide (p2 < p1)) late,
    greatestLateness := max l.greatestLateness (min (s.now - e.fire0).toNat 65535) })
  s3.joinAssembly b.board (b.channel, p2)

/-- HEAT_STEP and after: decay, fit, supply, emission (R55 to R58). -/
def State.heatStep (s : State) (e : LaunchEntry) : State :=
  let b := s.bellRecs[e.bell]
  let heat := decayedHeat b s.bells[e.bell] s.now
  let p1 := compensatedPulse b e.shaped s.settings.vnom s.boards[b.board].rail
  let s1 := s.setBell e.bell { s.bells[e.bell] with heat := heat, heatAt := s.now }
  match fittedPulse b heat p1 with
  | none => s1.skipStrike .heat
  | some p2 =>
    if s1.admitsStrike s.boardRecs[b.board].group b.coilCurrent then s1.emitStrike e p1 p2
    else s1.deferStrike e s.boardRecs[b.board].group

/-- The firing of an entry removed from the list: the steps of Table 3.5 in order (R50 to R58, R64). -/
def State.fireEntry (s : State) (e : LaunchEntry) : State :=
  if s.calendar.bellsOpen = false then s.modStrikeCounters (fun c => { c with gated := inc32 c.gated })
  else if s.coilReachable e.bell = false then s.skipStrike .boardAbsent
  else if s.recovered e.bell = false then s.skipStrike .recovery
  else s.heatStep e

/-- FIRE_HEAD_ENTRY: the due head is removed and fired; the room notice and the end of the batch follow
(R61, R63, R67). Windows that show time has reached are released first (log entry 13). -/
def State.fireHead (s : State) : State :=
  match s.launch.waiting with
  | [] => s
  | e :: rest =>
    if e.fire ≤ s.now then
      let s1 := s.releaseReached.modLaunch (fun l => { l with waiting := rest })
      ((s1.fireEntry e).endBatch).noticeRoom s.held
    else s

/-- STRIKE_WINDOW_END: the windows of the earliest end reached are released at one event (R137). -/
def State.endWindows (s : State) : State :=
  match leastTime s.reachedEnds with
  | none => s
  | some t => s.setStrikeAccount (s.strikeAccount.filter (fun a => a.windowEnd ≠ t))

/-! Purges and time steps. -/

/-- Why waiting entries are purged (Table 4.2). -/
inductive PurgeReason where
  | step
  | run
  | stop
  deriving DecidableEq, Repr

/-- PURGED and its sub-count rise by `n` (R71 to R73). -/
def StrikeCounters.purge (c : StrikeCounters) (r : PurgeReason) (n : Nat) : StrikeCounters :=
  let d := { c with purged := satAdd 32 n c.purged }
  match r with
  | .step => { d with stepPurged := satAdd 32 n c.stepPurged }
  | .run => { d with runPurged := satAdd 32 n c.runPurged }
  | .stop => { d with stopPurged := satAdd 32 n c.stopPurged }

/-- The waiting entries that `p` picks are purged; a batch they end closes its frames, and the run unit is told
of room (R61, R67, R71 to R73). -/
def State.purge (s : State) (r : PurgeReason) (p : LaunchEntry → Bool) : State :=
  let s1 := s.modLaunch (fun l => { l with
    waiting := l.waiting.filter (fun e => !p e),
    counters := l.counters.purge r (l.waiting.countP p) })
  s1.endBatch.noticeRoom s.held

/-- RUN_PURGE: the entries of a cancelled run's slot (R72). -/
def State.purgeRun (s : State) (k : Fin 4) : State := s.purge .run (fun e => e.origin = .run k)

/-- STOP_PURGE: every entry (R73). -/
def State.purgeAll (s : State) : State := s.purge .stop (fun _ => true)

/-- LAUNCH_STEP_MOVE: an entry of origin RUN moves by `d` (R70). -/
def LaunchEntry.stepBy (d : Int) (e : LaunchEntry) : LaunchEntry :=
  match e.origin with
  | .cue => e
  | .run _ => { e with sound := e.sound + d, fire := e.fire + d, fire0 := e.fire0 + d }

/-- Whether a step purges an entry: one of origin CUE outside the expiry and horizon bounds (R71). -/
def stepPurges (now : Time) (expiry : Nat) (e : LaunchEntry) : Bool :=
  match e.origin with
  | .cue => decide (e.fire < now - expiry ∨ now + launchHorizon < e.fire)
  | .run _ => false

/-- The entries re-ordered by fire time, the order before the step kept among equal fire times (R71). -/
def reorder (es : List LaunchEntry) : List LaunchEntry := es.foldl (fun acc e => insertByFire e acc) []

/-- The launch queue's step rule under the new show time (R70, R71). -/
def State.launchStep (s : State) (d : Int) : State :=
  (s.modLaunch (fun l => { l with waiting := reorder (l.waiting.map (LaunchEntry.stepBy d)) })).purge .step
    (stepPurges s.now s.settings.expiry)

/-! The meanings. -/

/-- FIRE_HEAD_ENTRY (R63). -/
def execFireHeadEntry (s : State) : Host.Outcome State Fault Refusal := .next s.fireHead

/-- STRIKE_WINDOW_END (R137). -/
def execStrikeWindowEnd (s : State) : Host.Outcome State Fault Refusal := .next s.endWindows

end Sys2Proof.Machine
end

