-- ==== Sys2Proof/Machine/Runs.lean ====
section
/-! DEFINITION. The run unit and the show unit's work on runs: creation (R82), expansion (R83 to R92), marks and
barriers (R92, R93, R150 to R152), the move cursor (R148, R149), completion and cancellation (R95, R96), time steps
(R98), and the meaning of MOVE_START_TIME. -/

namespace Sys2Proof.Machine

/-- The sound time of a position of a run (R83). -/
def Run.soundTimeOf (r : Run) (p : Nat) : Time := r.anchor + ((p * 100 + r.tempo / 2) / r.tempo : Nat)

/-- The sound time of the run's current position (R83). -/
def Run.soundNow (r : Run) : Time := r.soundTimeOf r.position

/-- Whether a run expands (R84). -/
def State.expands (s : State) (k : Fin 4) : Bool :=
  let r := s.runs[k]
  r.state = .playing && r.barrier.isNone && !r.paused && decide (r.soundNow ≤ s.now + s.settings.lookahead)

/-- arg2 of the run events: the show id, or 256 + top motif (R99). -/
def Run.eventId (r : Run) : Nat :=
  match r.showId with
  | some w => w.val
  | none => 256 + r.topMotif.val

/-! Completion and cancellation. -/

/-- Every figure owned by the run becomes unowned (R95, R96). -/
def State.releaseFigures (s : State) (k : Fin 4) : State :=
  s.modFigs (fun x => if x.owner = some k then { x with owner := none } else x)

/-- Why a run is cancelled (the table of R96). -/
inductive CancelCause where
  | showStop
  | allStop
  | engineStop
  | zeroTimeGuard
  deriving DecidableEq, Repr

/-- The event of a cancellation (R96, R99). -/
def State.raiseCancelled (s : State) (k : Fin 4) (id : Nat) (c : CancelCause) : State :=
  match c with
  | .showStop => s.raise .runCancelled k.val id
  | .allStop => s.raise .runCancelled (k.val + 4) id
  | .engineStop => s.raise .runCancelled (k.val + 8) id
  | .zeroTimeGuard => s.raise .runLoopFault k.val id

/-- A move's progress at its run's cancellation: ISSUED becomes FAILED (R96). -/
def Progress.cancelled (p : Progress) : Progress := if p = .issued then .failed else p

/-- The run record after a cancellation (R96). -/
def Run.cancelled (r : Run) : Run :=
  { r with state := .free, stack := [], barrier := none, paused := false, roomNotice := false,
           progress := r.progress.map Progress.cancelled }

/-- RUN_CANCEL: a run that is not FREE is cancelled (R96). Its effects come in the order in which R96 names them, its event
last (the model's choice, log entry 46). -/
def State.cancelRun (s : State) (k : Fin 4) (c : CancelCause) : State :=
  if s.runs[k].state = .free then s
  else ((((s.purgeRun k).withdrawRun k).releaseFigures k).modRun k Run.cancelled).raiseCancelled k s.runs[k].eventId c

/-- Every run that is not FREE is cancelled, in slot order (R96). -/
def State.cancelAll (s : State) (c : CancelCause) : State := (indices 4).foldl (fun t k => t.cancelRun k c) s

/-- Whether a DRAINING run has completed (R95). -/
def State.completes (s : State) (k : Fin 4) : Bool :=
  s.runs[k].state = .draining && s.runCount k = 0 && s.runs[k].progress.all Progress.ended

/-- The event of a completion (R95, R99). -/
def State.raiseDone (s : State) (k : Fin 4) (r : Run) : State :=
  match r.showId with
  | some w => s.raise .showDone k.val w.val
  | none => s.raise .motifDone k.val (256 + r.topMotif.val)

/-- RUN_COMPLETE (R95). -/
def State.completeRun (s : State) (k : Fin 4) : State :=
  if s.completes k then
    ((s.modRun k (fun r => { r with state := .free })).raiseDone k s.runs[k]).releaseFigures k
  else s

/-! The move cursor (R148). -/

/-- Whether the cursor waits at a move: its start mark has no mark time, the barrier is set on that mark, or
its start time is after now (R148). -/
def Run.cursorWaits (r : Run) (m : MoveEntry) (now : Time) : Bool :=
  match r.marks[m.startMark] with
  | none => true
  | some t => (match r.barrier with
      | some b => b.mark = m.startMark
      | none => false) || decide (now < t + m.startDelay)

/-- Move `i` of the run is issued: failed without a request if the run does not own its figure, else requested
of the figure controller (R148). -/
def State.issueMove (s : State) (k : Fin 4) (i : Nat) (m : MoveEntry) : State :=
  if s.figs[m.figure].owner = some k then
    (s.recordOutcome k i .issued).requestMove m.figure m.target m.speedPercent m.way (.run k i)
  else s.recordOutcome k i .failed

/-- The cursor judged from move `i` on, over the moves that remain; a move that is no longer NOT_ISSUED is
passed (R148, R149). -/
def State.judgeFrom (k : Fin 4) : List MoveEntry → Nat → State → State
  | [], _, s => s
  | m :: ms, i, s =>
    if s.runs[k].progress[i]? ≠ some .notIssued then
      State.judgeFrom k ms (i + 1) (s.modRun k (fun r => { r with cursor := i + 1 }))
    else if s.runs[k].cursorWaits m s.now then s
    else State.judgeFrom k ms (i + 1) ((s.issueMove k i m).modRun k (fun r => { r with cursor := i + 1 }))

/-- The cursor of a run that is not FREE is judged (R148). -/
def State.judgeCursor (s : State) (k : Fin 4) : State :=
  let r := s.runs[k]
  if r.state = .free then s else State.judgeFrom k ((s.runMoves r).drop r.cursor) r.cursor s

/-! Steps of expansion. -/

/-- P after a row's delta, and whether the row counts as raising P: one lost to the saturation does not (R83). -/
def advance (p delta : Nat) : Nat × Bool :=
  if 4294967295 < p + delta then (4294967295, false) else (p + delta, delta != 0)

/-- The run with its next row at the following row and P raised by the delta (R85, R86). -/
def Run.rowDone (r : Run) (delta : Nat) : Run :=
  { r with position := (advance r.position delta).1,
           stack := match r.stack with
             | [] => []
             | f :: fs => { f with nextRow := f.nextRow + 1 } :: fs }

/-- The zero-time guard at the end of a step (R91). -/
def State.endStep (s : State) (k : Fin 4) (raised : Bool) : State :=
  if raised then s.modRun k (fun r => { r with zeroCount := 0 })
  else if s.runs[k].zeroCount < 255 then s.modRun k (fun r => { r with zeroCount := r.zeroCount + 1 })
  else s.cancelRun k .zeroTimeGuard

/-- A row with a delta is done (R85, R86, R91). -/
def State.finishRow (s : State) (k : Fin 4) (delta : Nat) : State :=
  (s.modRun k (fun r => r.rowDone delta)).endStep k (advance s.runs[k].position delta).2

/-- STRIKES_LOST rises by one (R85). -/
def State.loseStrike (s : State) (k : Fin 4) : State := s.modRun k (fun r => { r with lost := inc32 r.lost })

/-- NOTE_ROW (R85, R87). -/
def State.noteRow (s : State) (k : Fin 4) (f : StackFrame) (bell : Fin 48) (velocity delta : Nat) : State :=
  let target : Int := bell.val + f.transpose
  if target < 0 ∨ 47 < target then (s.loseStrike k).finishRow k delta
  else
    let p := planStrike s { bell := target.toNat, velocity := (velocity * f.scale + 32) / 64,
                            time := .soundAt s.runs[k].soundNow, origin := .run k }
    match p.1 with
    | .accepted => (p.2.modRun k (fun r => { r with planned := inc32 r.planned })).finishRow k delta
    | .refused .queueFull => p.2.modRun k (fun r => { r with paused := true, roomNotice := false })
    | .refused .bellInvalid => (p.2.loseStrike k).finishRow k delta
    | .refused .late => (p.2.loseStrike k).finishRow k delta
    | .refused .beyondHorizon => (p.2.loseStrike k).finishRow k delta
    | .ignored => p.2.finishRow k delta

/-- The frame pushed for a NEST row (R88). -/
def pushedFrame (s : State) (f : StackFrame) (motif : Fin 64) (times : Nat) (transpose : Int)
    (scale : Nat) : StackFrame :=
  { motif := motif, nextRow := s.motifDirs[motif].firstRow, repeatsLeft := times,
    transpose := f.transpose + transpose, scale := clamp 1 128 ((f.scale * scale + 32) / 64) }

/-- NEST_ROW (R88, R89). -/
def State.nestRow (s : State) (k : Fin 4) (f : StackFrame) (motif : Fin 64) (times : Nat) (transpose : Int)
    (scale : Nat) : State :=
  let n := if times = 0 then s.runs[k].count else times
  if n = 0 then s.finishRow k 0
  else if 4 ≤ s.runs[k].stack.length then
    (s.modRun k (fun r => { r with nestTooDeep := inc16 r.nestTooDeep })).finishRow k 0
  else (s.modRun k (fun r =>
    { r.rowDone 0 with stack := pushedFrame s f motif n transpose scale :: (r.rowDone 0).stack })).endStep k false

/-- Whether some move whose arrive mark is `m` has not ended (R92, R151). -/
def State.awaits (s : State) (r : Run) (m : Fin 16) : Bool :=
  ((s.runMoves r).zip r.progress).any (fun p => p.1.arriveMark = some m && !p.2.ended)

/-- MARK_ROW (R92); the cursor is judged at the setting of a mark time (R148), after the cancellation of a run whose
zero-time guard the row trips, which then issues no move there (the model's order, log entry 18). -/
def State.markRow (s : State) (k : Fin 4) (m : Fin 16) : State :=
  let t := s.runs[k].soundNow
  let s1 := s.modRun k (fun r => { r.rowDone 0 with
    marks := r.marks.set m.val (some t) m.isLt,
    barrier := if s.awaits r m then some { mark := m, time := t } else r.barrier })
  (s1.endStep k false).judgeCursor k

/-- A move's progress when its run enters DRAINING: UNREACHED if it is NOT_ISSUED and its start mark has no
mark time (R149). -/
def unreached (r : Run) (m : MoveEntry) (p : Progress) : Progress :=
  if p = .notIssued ∧ r.marks[m.startMark] = none then .unreached else p

/-- MOVE_UNREACHED and the entry into DRAINING, with an empty stack (R90, R149). -/
def State.enterDraining (s : State) (k : Fin 4) : State :=
  let r := s.runs[k]
  let ps := List.zipWith (unreached r) (s.runMoves r) r.progress
  let n := ps.countP (fun p => p = .unreached) - r.progress.countP (fun p => p = .unreached)
  (s.modRun k (fun x => { x with state := .draining, stack := [], progress := ps })).modShowCounters
    (fun c => { c with moveUnreached := satAdd 32 n c.moveUnreached })

/-- MOTIF_END (R90). At the last end the cursor is judged (R148), after the cancellation of a run whose zero-time guard
the step trips; such a run is cancelled even where R95 would complete it (the model's choices, log entry 18). -/
def State.motifEnd (s : State) (k : Fin 4) (f : StackFrame) (rest : List StackFrame) : State :=
  if 1 < f.repeatsLeft then
    (s.modRun k (fun r => { r with
      stack := { f with repeatsLeft := f.repeatsLeft - 1, nextRow :=
          s.motifDirs[f.motif].firstRow } :: rest })).endStep k false
  else if rest.isEmpty then ((s.enterDraining k).endStep k false).judgeCursor k
  else (s.modRun k (fun r => { r with stack := rest })).endStep k false

/-- One step of a run: the next row of its top frame, or the end of the motif's rows (R84). -/
def State.stepRun (s : State) (k : Fin 4) : State :=
  match s.runs[k].stack with
  | [] => s
  | f :: rest =>
    if s.motifDirs[f.motif].firstRow + s.motifDirs[f.motif].rowCount ≤ f.nextRow then s.motifEnd k f rest
    else match s.rows[f.nextRow]? with
      | some (.note bell velocity delta) => s.noteRow k f bell velocity delta
      | some (.rest delta) => s.finishRow k delta
      | some (.nest motif times transpose scale) => s.nestRow k f motif times transpose scale
      | some (.mark m) => s.markRow k m
      | none => s.motifEnd k f rest

/-- EXPANSION_STEP: a step, if the condition of R84 holds. -/
def State.expand (s : State) (k : Fin 4) : State := if s.expands k then s.stepRun k else s

/-- RUN_PAUSE_RESUME: a paused run that has been told of room leaves the pause and sends its row again (R87). -/
def State.resumeRun (s : State) (k : Fin 4) : State :=
  if s.runs[k].paused && s.runs[k].roomNotice then
    (s.modRun k (fun r => { r with paused := false, roomNotice := false })).expand k
  else s

/-! Creation (R82). -/

/-- What a creator gives a run (R82). -/
structure RunRequest where
  kind : RunKind
  showId : Option (Fin 32)
  topMotif : Fin 64
  origin : RequestOrigin
  anchor : Time
  tempo : Nat
  count : Nat
  transpose : Int
  scale : Nat
  moves : Nat
  deriving DecidableEq, Repr

/-- The lowest-numbered FREE slot (R82). -/
def State.freeSlot (s : State) : Option (Fin 4) := (indices 4).find? (fun k => s.runs[k].state = .free)

/-- The run record set at a creation (R82). -/
def newRun (s : State) (q : RunRequest) : Run :=
  { Run.initial with
    state := .playing, kind := q.kind, showId := q.showId, topMotif := q.topMotif, origin := q.origin,
    anchor := q.anchor, tempo := q.tempo, count := q.count,
    stack := [{ motif := q.topMotif, nextRow := s.motifDirs[q.topMotif].firstRow, repeatsLeft := 1,
                transpose := q.transpose, scale := q.scale }],
    progress := List.replicate q.moves .notIssued }

/-- RUN_CREATE in the slot; expansion begins by the creator's next operation (R82). -/
def State.createRun (s : State) (k : Fin 4) (q : RunRequest) : State := s.setRun k (newRun s q)

/-- The start of a run's expansion: its cursor is judged and its first step is taken (R82, R84, R148). -/
def State.beginRun (s : State) (k : Fin 4) : State := (s.judgeCursor k).expand k

/-! Barriers and holds (R93, R150 to R152). -/

/-- A barrier ends: from HOLDING, the anchor and the mark time move by the hold length (R151, R152). -/
def Run.endBarrier (r : Run) (b : Barrier) (now : Time) : Run :=
  if r.state = .holding then
    { r with anchor := r.anchor + (now - b.time), marks := r.marks.set b.mark.val (some now) b.mark.isLt,
             holdTotal := satAdd 32 (now - b.time).toNat r.holdTotal, barrier := none, state := .playing }
  else { r with barrier := none }

/-- Whether a run's barrier is to clear: every move awaited at its mark has ended (R151). -/
def State.barrierClears (s : State) (k : Fin 4) : Bool :=
  match s.runs[k].barrier with
  | none => false
  | some b => (s.runs[k].state = .playing || s.runs[k].state = .holding) && !s.awaits s.runs[k] b.mark

/-- BARRIER_CLEAR (R151). -/
def State.clearBarrier (s : State) (k : Fin 4) : State :=
  match s.runs[k].barrier with
  | none => s
  | some b =>
    if s.barrierClears k then (s.modRun k (fun r => r.endBarrier b s.now)).beginRun k else s

/-- The grace of a run's show (R150). -/
def State.graceOf (s : State) (r : Run) : Nat :=
  match r.showId with
  | some w => s.shows[w].grace
  | none => 0

/-- HOLD_DEADLINE (R152). -/
def State.releaseHold (s : State) (k : Fin 4) : State :=
  match s.runs[k].barrier with
  | none => s
  | some b =>
    if s.runs[k].state = .holding ∧ b.time + s.graceOf s.runs[k] ≤ s.now then
      let s1 := (s.modRun k (fun r => r.endBarrier b s.now)).modShowCounters
        (fun c => { c with lateFigure := inc32 c.lateFigure })
      (s1.raise .lateFigure k.val (256 * b.mark.val + s.runs[k].eventId)).beginRun k
    else s

/-- BARRIER_MARK_TIME: show time reaches the mark time of a set barrier, and the run is HOLDING; with a grace of 0
it is released at the same event (R150). -/
def State.reachBarrier (s : State) (k : Fin 4) : State :=
  match s.runs[k].barrier with
  | none => s
  | some b =>
    if s.runs[k].state = .playing ∧ b.time ≤ s.now then
      let s1 := s.modRun k (fun r => { r with state := .holding })
      if s.graceOf s.runs[k] = 0 then s1.releaseHold k else s1
    else s

/-! Time steps (R98). -/

/-- RUN_ANCHOR_STEP for one run (R98). -/
def Run.stepBy (d : Int) (r : Run) : Run :=
  if r.state = .free then r
  else { r with anchor := r.anchor + d, marks := r.marks.map (fun t => t.map (fun x => x + d)),
                barrier := r.barrier.map (fun b => { b with time := b.time + d }) }

/-- RUN_ANCHOR_STEP (R98). -/
def State.runStep (s : State) (d : Int) : State := s.modRuns (Run.stepBy d)

/-! The meaning. -/

/-- MOVE_START_TIME (R148). -/
def execMoveStartTime (k : Fin 4) (s : State) : Host.Outcome State Fault Refusal := .next (s.judgeCursor k)

end Sys2Proof.Machine
end

