-- ==== Sys2Proof/Machine/Shows.lean ====
section
/-! DEFINITION. The show unit: requests and the show queue (R141, R142), the fits-nowhere check (R143), admission
(R144, R146), the events at which the head is judged (R145), starvation (R147) and stopping (R153). -/

namespace Sys2Proof.Machine

/-! Drops. -/

/-- The reasons of SHOW_DROPPED (R154). -/
inductive DropReason where
  | duplicate
  | queueFull
  | fitsNowhere
  | starved
  | stopped
  | invalid
  deriving DecidableEq, Repr

def DropReason.code : DropReason → Nat
  | .duplicate => 1
  | .queueFull => 2
  | .fitsNowhere => 3
  | .starved => 4
  | .stopped => 5
  | .invalid => 6

/-- SHOW_DROPPED is raised (R154). -/
def State.raiseDropped (s : State) (w : Fin 32) (r : DropReason) : State := s.raise .showDropped w.val r.code

/-! Requests (R142). -/

/-- Why a show request fails (R142). -/
inductive ShowRefusal where
  | invalid
  | duplicate
  | fitsNowhere
  | queueFull
  deriving DecidableEq, Repr

/-- The reason of SHOW_DROPPED for a failed request of origin CALENDAR (R142). -/
def ShowRefusal.dropReason : ShowRefusal → DropReason
  | .invalid => .invalid
  | .duplicate => .duplicate
  | .fitsNowhere => .fitsNowhere
  | .queueFull => .queueFull

/-- The failed check's counter rises by one (R142). -/
def ShowCounters.refuse (c : ShowCounters) (r : ShowRefusal) : ShowCounters :=
  match r with
  | .invalid => { c with invalid := inc32 c.invalid }
  | .duplicate => { c with duplicate := inc32 c.duplicate }
  | .fitsNowhere => { c with fitsNowhere := inc32 c.fitsNowhere }
  | .queueFull => { c with queueFull := inc32 c.queueFull }

/-- Whether the show is held by a queue entry or played by a run that is not FREE (R139, R142). -/
def State.showInUse (s : State) (w : Fin 32) : Bool :=
  s.showUnit.queue.any (fun q => q.showId = w) ||
    (indices 4).any (fun k => s.runs[k].state != .free && s.runs[k].showId = some w)

/-- Whether a show at a tempo fits the active bank (R143). -/
def State.fitsActive (s : State) (w : Fin 32) (tempo : Nat) : Bool :=
  s.calendar.activeBank.fits s.shows[w].need (scaledLength s.shows[w] tempo)

/-- The checks on a request of a show in range, in order (R142). -/
def State.judgeRequest (s : State) (w : Fin 32) (tempo : Nat) : Option ShowRefusal :=
  if s.shows[w].enabled = false then some .invalid
  else if s.showInUse w then some .duplicate
  else if s.fitsActive w tempo = false then some .fitsNowhere
  else if 8 ≤ s.showUnit.queue.length then some .queueFull
  else none

/-- The capture takes the first show dropped as fitting nowhere, with its scaled length (R143). -/
def State.captureDrop (s : State) (w : Fin 32) (tempo : Nat) : State :=
  s.modShowUnit (fun u => match u.capture with
    | none => { u with capture := some (w, scaledLength s.shows[w] tempo) }
    | some _ => u)

/-- A refused request is counted, and examined for the capture (R142, R143). -/
def State.refuseShow (s : State) (w : Fin 32) (tempo : Nat) (r : ShowRefusal) : State :=
  let s1 := s.modShowCounters (fun c => c.refuse r)
  if r = .fitsNowhere then s1.captureDrop w tempo else s1

/-- A request joins the end of the queue (R142). -/
def State.joinShows (s : State) (q : ShowRequest) : State :=
  (s.modShowUnit (fun u => { u with queue := u.queue ++ [q] })).modShowCounters
    (fun c => { c with requests := inc32 c.requests })

/-- The tempo of a request: 0 is the show's own, any other is clamped to 50 to 200 (R142). -/
def State.requestTempo (s : State) (w : Fin 32) (tempo : Nat) : Nat :=
  if tempo = 0 then s.shows[w].tempo else clamp 50 200 tempo

/-- A show request of a show in range: refused, or queued (R142). -/
def State.requestShow (s : State) (w : Fin 32) (tempo count : Nat) (anchor : Option Time) (o : RequestOrigin) :
    Option ShowRefusal × State :=
  let t := s.requestTempo w tempo
  match s.judgeRequest w t with
  | some r => (some r, s.refuseShow w t r)
  | none =>
    (none, s.joinShows
      { showId := w, count := count, tempo := t, anchor := anchor, origin := o, cyclesWaited := 0 })

/-- CALENDAR_SHOW_REQUEST: a request of the calendar; one that fails raises SHOW_DROPPED (R142). -/
def State.calendarRequest (s : State) (w : Fin 32) (count : Nat) (te : Time) (v : Fin 16) : State :=
  match s.requestShow w 0 count (some te) (.calendar v) with
  | (none, s1) => s1
  | (some r, s1) => s1.raiseDropped w r.dropReason

/-- FITS_NOWHERE_RECHECK of one queued entry: one that no longer fits is counted, captured and reported (R143). -/
def State.recheckOne (s : State) (q : ShowRequest) : State :=
  if s.fitsActive q.showId q.tempo then s
  else (s.refuseShow q.showId q.tempo .fitsNowhere).raiseDropped q.showId .fitsNowhere

/-- FITS_NOWHERE_RECHECK: each queued entry is checked against the new active bank, in queue order (R143). -/
def State.recheckShows (s : State) : State :=
  let s1 := s.showUnit.queue.foldl State.recheckOne s
  s1.modShowUnit (fun u => { u with queue := u.queue.filter (fun q => s.fitsActive q.showId q.tempo) })

/-- The show queue is emptied, oldest first, each entry dropped with reason STOPPED (R141). -/
def State.emptyShows (s : State) : State :=
  (s.showUnit.queue.foldl (fun t q => t.raiseDropped q.showId .stopped) s).modShowUnit (fun u => { u with queue := [] })

/-! Admission (R144 to R146). -/

/-- The start of an admission: the requested anchor at or after now + 300, else now + 300 (R144). -/
def startOf (now : Time) (anchor : Option Time) : Time :=
  match anchor with
  | some a => if now + 300 ≤ a then a else now + 300
  | none => now + 300

/-- The second check: every healthy figure named by the show's moves is unowned (R144). -/
def State.figuresReady (s : State) (w : Fin 32) : Bool :=
  (s.movesOf s.shows[w]).all (fun m => !s.healthy m.figure || s.figs[m.figure].owner.isNone)

/-- The third check: the effective gates are open for every required gate (R144). -/
def State.gatesReady (s : State) (w : Fin 32) : Bool := s.shows[w].need.met s.calendar.bellsOpen s.calendar.figuresOpen

/-- The four checks of R144 on a request, with the engine in RUN. -/
def State.admissible (s : State) (q : ShowRequest) : Bool :=
  s.running && s.freeSlot.isSome && s.figuresReady q.showId && s.gatesReady q.showId &&
    s.calendar.openOver s.shows[q.showId].need (startOf s.now q.anchor) (scaledLength s.shows[q.showId] q.tempo)

/-- What a show request gives its run (R146, R82). -/
def showRunRequest (s : State) (q : ShowRequest) : RunRequest :=
  { kind := .show, showId := some q.showId, topMotif := s.shows[q.showId].topMotif, origin := q.origin,
    anchor := startOf s.now q.anchor, tempo := q.tempo, count := q.count, transpose := 0, scale := 64,
    moves := (s.movesOf s.shows[q.showId]).length }

/-- Every healthy figure named by the show's moves becomes owned by the run (R146). -/
def State.ownFigures (s : State) (w : Fin 32) (k : Fin 4) : State :=
  (s.movesOf s.shows[w]).foldl (fun t m =>
    if t.healthy m.figure then t.modFig m.figure (fun x => { x with owner := some k }) else t) s

/-- The admission of a head in a FREE slot (R146). -/
def State.admitTo (s : State) (q : ShowRequest) (k : Fin 4) : State :=
  let s1 := s.modShowUnit (fun u =>
    { u with queue := u.queue.drop 1, counters := { u.counters with admitted := inc32 u.counters.admitted } })
  let s2 := (s1.createRun k (showRunRequest s q)).ownFigures q.showId k
  (s2.raise .showStarted k.val q.showId.val).beginRun k

/-- The head is judged, and admitted when the checks hold; the new head is judged in turn, over at most `n` entries
(R141, R144, R146). -/
def State.judgeHeads : Nat → State → State
  | 0, s => s
  | n + 1, s =>
    match s.showUnit.queue with
    | [] => s
    | q :: _ =>
      if s.admissible q then
        match s.freeSlot with
        | some k => State.judgeHeads n (s.admitTo q k)
        | none => s
      else s

/-- SHOW_ADMISSION: the head is judged, and after each admission the new head, if any (R144, R146). -/
def State.judgeHead (s : State) : State := s.judgeHeads s.showUnit.queue.length

/-! The events at which the head is judged (R145). -/

/-- Whether the figure has become unowned, entered FAULT or UNHOMED, or had its record disabled (R145). -/
def State.figureFreed (before after : State) (f : Fin 16) : Bool :=
  (before.figs[f].owner.isSome && after.figs[f].owner.isNone) ||
    ((after.figs[f].state = .fault || after.figs[f].state = .unhomed) &&
      decide (before.figs[f].state ≠ after.figs[f].state)) ||
    (before.figRecs[f].enabled && !after.figRecs[f].enabled)

/-- Whether going from `before` to `after` brings an event at which the head is judged: another entry is the head, a run
slot has become FREE, a figure has become free for shows, or an effective gate has changed (R145). -/
def State.headEvent (before after : State) : Bool :=
  decide (after.showUnit.queue.head?.map (fun q => q.showId) ≠ before.showUnit.queue.head?.map (fun q => q.showId)) ||
    (indices 4).any (fun k => after.runs[k].state = .free && before.runs[k].state != .free) ||
    (indices 16).any (before.figureFreed after) ||
    after.calendar.bellsOpen != before.calendar.bellsOpen || after.calendar.figuresOpen != before.calendar.figuresOpen

/-- What an event leads to, followed by the judgement of the head if the event is one of R145's. The judgement comes
after the event's other effects; of several events that come together each is followed by its own (log entry 36). -/
def State.judgeAfter (before after : State) : State := if before.headEvent after then after.judgeHead else after

/-! Starvation and stopping. -/

/-- The head after one more restart: its cycles waited rise by one, or it is dropped with STARVED and the new head is
judged (R147). -/
def State.countCycle (s : State) : State :=
  match s.showUnit.queue with
  | [] => s
  | q :: rest =>
    if s.settings.starvation ≤ q.cyclesWaited + 1 then
      ((s.modShowUnit (fun u => { u with
        queue := rest,
        counters := { u.counters with starved := inc32 u.counters.starved } })).raiseDropped q.showId .starved).judgeHead
    else s.modShowUnit (fun u => { u with queue := { q with cyclesWaited := q.cyclesWaited + 1 } :: rest })

/-- The show unit is told of a cycle restart: the head is judged, and counts the cycle if it is not admitted. An entry
that becomes the head at the restart was behind it and counts no cycle there (R147; log entry 40). -/
def State.cycleTold (s : State) : State :=
  match s.showUnit.queue with
  | [] => s
  | q :: _ => if s.admissible q then s.judgeHead else s.countCycle

/-- The run that plays a show (R153). -/
def State.runOf (s : State) (w : Fin 32) : Option (Fin 4) :=
  (indices 4).find? (fun k => s.runs[k].state != .free && s.runs[k].showId = some w)

/-- A show is stopped: its run is cancelled or its queue entry removed. Answers whether it was active (R153). -/
def State.stopShow (s : State) (w : Fin 32) : Bool × State :=
  match s.runOf w with
  | some k => (true, s.cancelRun k .showStop)
  | none =>
    if s.showUnit.queue.any (fun q => q.showId = w) then
      (true, (s.modShowUnit (fun u =>
        { u with queue := u.queue.filter (fun q => q.showId ≠ w) })).raiseDropped w .stopped)
    else (false, s)

end Sys2Proof.Machine
end

