-- ==== Sys2Proof/Machine/BoardEvents.lean ====
section
/-! DEFINITION. What reaches the board unit: answers (R130), answer timeouts (R131), status (R132, R42), absence
(R133) and the reset stops (R135); and the fixed path of frames (R15). One answer, status or absence may reach several
figures: the head of the show queue is judged after each of them (R145). -/

namespace Sys2Proof.Machine

/-- The enabled board record whose node address is the frame's SRC (R130). -/
def State.boardOf (s : State) (src : Byte) : Option (Fin 32) :=
  (indices 32).find? (fun b => s.boardRecs[b].enabled && s.boardRecs[b].address = src)

/-- BAD_BOARD_FRAME rises by one (R130, R132). -/
def State.badBoardFrame (s : State) : State :=
  s.modBoardUnit (fun u => { u with badBoardFrame := inc32 u.badBoardFrame })

/-- STALE_ANSWER rises by one (R130). -/
def State.staleAnswer (s : State) : State :=
  s.modBoardUnit (fun u => { u with staleAnswer := inc32 u.staleAnswer })

/-! Absence (R133). -/

/-- Why a board becomes ABSENT, with the arg2 of BOARD_ABSENT: 1 status timeout, 2 answer timeout (R133). -/
inductive AbsenceCause where
  | statusTimeout
  | answerTimeout
  deriving DecidableEq, Repr

def AbsenceCause.code : AbsenceCause → Nat
  | .statusTimeout => 1
  | .answerTimeout => 2

/-- BOARD_ABSENT_FAULT: the figures of an absent board, in order of figure index. A figure that enters FAULT has the head
judged before the next figure is reached (R118, R145; log entry 36). -/
def State.absentFigures (s : State) (b : Fin 32) : State :=
  (indices 16).foldl (fun t f => t.judgeAfter (t.absentFigure b f)) s

/-- BOARD_ABSENT: the board becomes ABSENT (R133). -/
def State.boardAbsent (s : State) (b : Fin 32) (c : AbsenceCause) : State :=
  let absent (t : BoardState) : BoardState := { t with presence := .absent, rail := none, statusDeadline := none }
  let s1 := (s.modBoard b absent).withdrawCommands b (fun _ => true)
  (s1.absentFigures b).raise .boardAbsent b.val c.code

/-- STATUS_DEADLINE: show time reaches the status deadline of a PRESENT board (R133). -/
def State.statusDeadlineOf (s : State) (b : Fin 32) : State :=
  if s.boards[b].presence = .present ∧ reached s.now s.boards[b].statusDeadline then s.boardAbsent b .statusTimeout else s

/-! Answers (R130). -/

/-- The command of the board in handshake with the tag (R130). -/
def BoardState.inHandshake? (t : BoardState) (tag : Byte) : Option Command :=
  t.commands.find? (fun c => c.condition.inHandshake && c.tag = some tag)

/-- The owners of a command are told of its outcome, in the order they asked. An owner that enters FAULT has the head
judged before the next owner is told (R145; log entry 36). -/
def State.tellOwners (s : State) (c : Command) (tell : State → CommandOp → Fin 16 → State) : State :=
  c.owners.foldl (fun t f => t.judgeAfter (tell t c.op f)) s

/-- COMMAND_FAILED's arg2: 16 × command + channel, 15 for ALL (R138). -/
def Command.failureCode (c : Command) : Nat := 16 * c.op.code + channelCode c.channel

/-- COMMAND_REJECT: a REJECT of the command in handshake (R130, R134). -/
def State.rejectCommand (s : State) (b : Fin 32) (c : Command) : State :=
  let s1 := (s.modBoard b (fun t => { t with rejected := inc16 t.rejected })).dropFrames b (fun id => id = c.id)
  if s.settings.retries < c.rejects + 1 then
    ((s1.removeCommand b c.id).tellOwners c State.toldFailed).raise .commandFailed b.val c.failureCode
  else (s1.modCommand b c.id (fun d => { d with rejects := d.rejects + 1 })).holdOff b c

/-- BOARD_ANSWER: an answer from a node, its payload `p` (R130). -/
def State.takeAnswer (s : State) (src : Byte) (p : List Byte) : State :=
  match s.boardOf src, readAnswer p with
  | some b, some (tag, ack) =>
    match s.boards[b].inHandshake? tag with
    | none => s.staleAnswer
    | some c => if ack then (s.removeCommand b c.id).tellOwners c State.toldCompleted else s.rejectCommand b c
  | some _, none => s.badBoardFrame
  | none, _ => s.badBoardFrame

/-! Answer timeouts (R131). -/

/-- The board's outstanding command whose answer timer show time has reached (R131). -/
def State.timedOutCommand (s : State) (b : Fin 32) : Option Command :=
  s.boards[b].commands.find? (fun c => match c.condition with
    | .outstanding t => decide (t ≤ s.now)
    | .waiting => false
    | .holdoff _ => false
    | .resend => false)

/-- ANSWER_TIMEOUT (R131). -/
def State.answerTimeoutOf (s : State) (b : Fin 32) : State :=
  match s.timedOutCommand b with
  | none => s
  | some c =>
    let s1 := s.modBoard b (fun t => { t with timedOut := inc16 t.timedOut })
    if c.resendUsed then s1.boardAbsent b .answerTimeout else s1.enterResend b c

/-! Status (R132, R42). -/

/-- COIL_FAULT for one bell: its flag in a status of its board decides its availability (R42). -/
def State.coilFlag (s : State) (b : Fin 32) (flags : Vector Bool 16) (i : Fin 48) : State :=
  let r := s.bellRecs[i]
  if r.enabled ∧ r.board = b ∧ s.bells[i].unavailable ≠ flags[r.channel] then
    (s.setBell i { s.bells[i] with unavailable := flags[r.channel] }).raise .coilFault i.val
      (if flags[r.channel] then 1 else 0)
  else s

/-- The first two steps of a taken status: presence, the deadline and the rail (R132). -/
def State.statusArrives (s : State) (b : Fin 32) (rail : Nat) : State :=
  let s1 := s.modBoard b (fun t => { t with statusTaken := inc16 t.statusTaken })
  let s2 := if s.boards[b].presence = .present then s1
    else (s1.modBoard b (fun t => { t with presence := .present })).raise .boardPresent b.val 0
  s2.modBoard b (fun t => { t with statusDeadline := some (s.now + s.settings.statusTimeout),
                                   rail := if rail = 0 then none else some rail })

/-- A BELL status taken (R132, R42). Its bells are decided in order of bell index (the model's choice, log entry 37). -/
def State.takeBellStatus (s : State) (b : Fin 32) (rail : Nat) (flags : Vector Bool 16) : State :=
  (indices 48).foldl (fun t i => t.coilFlag b flags i)
    ((s.statusArrives b rail).modBoard b (fun t => { t with coilFlags := flags }))

/-- The channel's entry of a MOTION status reaches the enabled figure on the channel, if there is one (R112). -/
def State.channelStatus (s : State) (b : Fin 32) (rs : Vector ChanReport 4) (ch : Fin 4) : State :=
  match s.figureOf b ch with
  | some f => s.figureStatus f rs[ch]
  | none => s

/-- The four channel entries of a MOTION status are passed on, in channel order (R112, R132; the order is the model's
choice, log entry 37). A figure that enters FAULT has the head judged before the next entry (R145; log entry 36). -/
def State.motionStatus (s : State) (b : Fin 32) (rs : Vector ChanReport 4) : State :=
  (indices 4).foldl (fun t ch => t.judgeAfter (t.channelStatus b rs ch)) s

/-- A MOTION status taken (R132, R112). -/
def State.takeMotionStatus (s : State) (b : Fin 32) (rail : Nat) (rs : Vector ChanReport 4) : State :=
  ((s.statusArrives b rail).modBoard b (fun t => { t with motors := rs })).motionStatus b rs

/-- BOARD_STATUS: a status from a node, its payload `p` (R132). -/
def State.takeStatus (s : State) (src : Byte) (p : List Byte) : State :=
  match s.boardOf src with
  | none => s.badBoardFrame
  | some b =>
    match s.boardRecs[b].kind with
    | .bell => match readBellStatus p with
      | some (rail, flags) => s.takeBellStatus b rail flags
      | none => s.badBoardFrame
    | .motion => match readMotionStatus p with
      | some (rail, rs) => s.takeMotionStatus b rail rs
      | none => s.badBoardFrame

/-! Engine stop and reset (R134, R135). -/

/-- COMMAND_WITHDRAW: every command that is waiting or in holdoff and is not a STOP is withdrawn (R134). -/
def State.withdrawAll (s : State) : State :=
  (indices 32).foldl (fun t b => t.withdrawCommands b (fun c => c.condition.atRest && !c.op.isStop)) s

/-- RESET_STOPS: one STOP for ALL channels of every enabled MOTION board, in order of board index (R135). -/
def State.resetStops (s : State) : State :=
  (indices 32).foldl (fun t b =>
    if t.boardRecs[b].isMotion then (t.requestCommand b .stop none none).1 else t) s

/-! The fixed path. -/

/-- Whether a frame is handed to the block by the fixed path: it has arrived, is addressed to the engine, and
its KIND at the port is the block's (R12, R15). -/
def State.fixedPath (s : State) (port : Port) (f : List Byte) (b : FixedBlock) : Bool :=
  fitsBlock port f b && frameDest f = s.node

end Sys2Proof.Machine
end

