-- ==== Sys2Proof/Machine/Events.lean ====
section
/-! DEFINITION. The meanings of the rows that may bring an event of R145 to the show unit from runs, figures and boards:
EXPANSION_STEP, RUN_PAUSE_RESUME, RUN_COMPLETE, BARRIER_MARK_TIME, BARRIER_CLEAR, HOLD_DEADLINE, SHOW_ADMISSION,
FIGURE_SUPPLY_ADMIT, ZONE_WAIT_DEADLINE, TRAVEL_DEADLINE, HOMING_DEADLINE, BOARD_ANSWER, BOARD_STATUS, ANSWER_TIMEOUT
and STATUS_DEADLINE. The head of the show queue is judged after the effect; the rows that may reach several figures at once
(the last four) judge it after each figure, within the effect. -/

namespace Sys2Proof.Machine

/-! Runs. -/

/-- EXPANSION_STEP (R84). -/
def execExpansionStep (k : Fin 4) (s : State) : Host.Outcome State Fault Refusal := .next (s.judgeAfter (s.expand k))

/-- RUN_PAUSE_RESUME (R87). -/
def execRunPauseResume (k : Fin 4) (s : State) : Host.Outcome State Fault Refusal := .next (s.judgeAfter (s.resumeRun k))

/-- RUN_COMPLETE (R95, R153). -/
def execRunComplete (k : Fin 4) (s : State) : Host.Outcome State Fault Refusal := .next (s.judgeAfter (s.completeRun k))

/-- BARRIER_MARK_TIME (R150). -/
def execBarrierMarkTime (k : Fin 4) (s : State) : Host.Outcome State Fault Refusal :=
  .next (s.judgeAfter (s.reachBarrier k))

/-- BARRIER_CLEAR (R151). -/
def execBarrierClear (k : Fin 4) (s : State) : Host.Outcome State Fault Refusal := .next (s.judgeAfter (s.clearBarrier k))

/-- HOLD_DEADLINE (R152). -/
def execHoldDeadline (k : Fin 4) (s : State) : Host.Outcome State Fault Refusal := .next (s.judgeAfter (s.releaseHold k))

/-! Shows. -/

/-- SHOW_ADMISSION (R144, R146). -/
def execShowAdmission (s : State) : Host.Outcome State Fault Refusal := .next s.judgeHead

/-! Figures. -/

/-- FIGURE_SUPPLY_ADMIT (R109). -/
def execFigureSupplyAdmit (f : Fin 16) (s : State) : Host.Outcome State Fault Refusal :=
  .next (if s.supplyTurn f then s.judgeAfter (s.admitFigure f) else s)

/-- ZONE_WAIT_DEADLINE (R108). -/
def execZoneWaitDeadline (f : Fin 16) (s : State) : Host.Outcome State Fault Refusal :=
  .next (s.judgeAfter (s.abandonMove f))

/-- TRAVEL_DEADLINE (R113). -/
def execTravelDeadline (f : Fin 16) (s : State) : Host.Outcome State Fault Refusal :=
  .next (s.judgeAfter (s.stallFigure f))

/-- HOMING_DEADLINE (R121). -/
def execHomingDeadline (f : Fin 16) (s : State) : Host.Outcome State Fault Refusal :=
  .next (s.judgeAfter (s.failHoming f))

/-! Boards. -/

/-- BOARD_ANSWER (R130). -/
def execBoardAnswer (f : List Byte) (s : State) : Host.Outcome State Fault Refusal :=
  .next (if s.fixedPath .tail f .boardAnswer then s.takeAnswer (frameSrc f) (framePayload f) else s)

/-- BOARD_STATUS (R132). -/
def execBoardStatus (f : List Byte) (s : State) : Host.Outcome State Fault Refusal :=
  .next (if s.fixedPath .tail f .boardStatus then s.takeStatus (frameSrc f) (framePayload f) else s)

/-- ANSWER_TIMEOUT (R131). -/
def execAnswerTimeout (b : Fin 32) (s : State) : Host.Outcome State Fault Refusal :=
  .next (s.answerTimeoutOf b)

/-- STATUS_DEADLINE (R133). -/
def execStatusDeadline (b : Fin 32) (s : State) : Host.Outcome State Fault Refusal :=
  .next (s.statusDeadlineOf b)

end Sys2Proof.Machine
end

