-- ==== Sys2Proof/Machine/Calendar.lean ====
section
/-! DEFINITION. The programme calendar: the list gates and the quiet override (R157 to R159), triggers (R160, R161),
position derivation (R162, R163), season switches (R164 to R166), and the meanings of QUIET, QUIET_EXPIRY,
CYCLE_RESTART, ENTRY_TIME, TRIGGER_TIME, PENDING_SWITCH_BASE and ENTRY_LEAD_JUDGE. -/

namespace Sys2Proof.Machine

/-! Gates. -/

/-- GATE_ANNOUNCE: a change of the effective figure gate from `before` goes to the figure controller (R159). A change of
either gate goes to the show unit too, which judges the head: State.judgeAfter at each event that brings one. -/
def State.announce (before s : State) : State :=
  if before.calendar.figuresOpen && !s.calendar.figuresOpen then s.holdFigures
  else if !before.calendar.figuresOpen && s.calendar.figuresOpen then s.resumeFigures
  else s

/-- The list gates take an entry's gates (R157). -/
def State.takeGates (s : State) (e : SchedEntry) : State :=
  State.announce s (s.modCalendar (fun c => { c with listBells := e.bellGate, listFigures := e.figureGate }))

/-- The entry time of an entry in the current cycle (R157). -/
def Calendar.entryTime (c : Calendar) (e : SchedEntry) : Time := c.cycleStart + e.offset

/-- The entries of the current cycle whose entry times show time has reached and that have not been taken. -/
def State.reachedEntries (s : State) : List SchedEntry :=
  s.calendar.activeBank.used.filter (fun e =>
    decide (s.calendar.entriesTaken < s.calendar.entryTime e ∧ s.calendar.entryTime e ≤ s.now))

/-- An entry time is reached: its gates are taken, and a change of an effective gate has the head judged (R157, R159). -/
def State.takeEntry (s : State) (e : SchedEntry) : State :=
  s.judgeAfter ((s.modCalendar (fun c => { c with entriesTaken := c.entryTime e })).takeGates e)

/-- The entry times reached and not yet taken: the list gates come out as those of the last of them (R157), and one
event announces the resulting change only (R159). -/
def State.takeEntries (s : State) : State :=
  match s.reachedEntries.getLast? with
  | none => s
  | some e => s.takeEntry e

/-- Whether show time has reached the base of a pending switch (R165). -/
def State.switchReached (s : State) : Bool :=
  match s.calendar.pendingSwitch with
  | none => false
  | some b => decide (b ≤ s.now)

/-- The calendar with C raised by one cycle (R157). -/
def Calendar.nextCycle (c : Calendar) : Calendar := { c with cycleStart := c.cycleStart + c.activeBank.cycle }

/-- Whether the entries of the old cycle that were passed with its end are followed, at the same event, by another
change of the list gates: by an entry of the next cycle or by a switch. -/
def State.entriesOvertaken (s : State) : Bool :=
  s.switchReached || !(s.modCalendar Calendar.nextCycle).reachedEntries.isEmpty

/-- CYCLE_RESTART: the cycle's end is reached. Entry times of the old cycle that were passed with it are taken
first, unless others of the same event follow them (R159; log entry 52); then C rises and the show unit is told (R157,
R147). The gates of an entry of offset 0 are taken after it, by an ENTRY_TIME row (the model's order, log entry 40). -/
def State.restartCycle (s : State) : State :=
  if s.calendar.cycleStart + s.calendar.activeBank.cycle ≤ s.now then
    ((if s.entriesOvertaken then s else s.takeEntries).modCalendar Calendar.nextCycle).cycleTold
  else s

/-! The quiet override (R158). -/

/-- The level's number in QUIET_ON: 1 BELLS, 2 ALL (R158). -/
def QuietLevel.code : QuietLevel → Nat
  | .bells => 1
  | .all => 2

/-- Whether an override of the level is already in force. -/
def sameLevel (o : Option QuietOverride) (l : QuietLevel) : Bool :=
  match o with
  | some x => x.level = l
  | none => false

/-- QUIET_ON and the override imposed, with its hold clamped to 1 to 600,000; a change of an effective gate has the head
judged (R158, R159). The event is raised before the change is announced (the model's choice, log entry 46). -/
def State.imposeQuiet (s : State) (l : QuietLevel) (hold : Nat) (byVerdict : Bool) : State :=
  let s1 := s.modCalendar (fun c => { c with override := some { level := l, expiry := s.now + clamp 1 600000 hold } })
  let s2 := if sameLevel s.calendar.override l then s1 else s1.raise .quietOn l.code (if byVerdict then 1 else 0)
  s.judgeAfter (State.announce s s2)

/-- QUIET_OFF: the override in force ends; a change of an effective gate has the head judged (R158, R159). The event is
raised before the change is announced (the model's choice, log entry 46). -/
def State.endQuiet (s : State) (arg1 : Int) : State :=
  s.judgeAfter (State.announce s ((s.modCalendar (fun c => { c with override := none })).raise .quietOff arg1 0))

/-- A QUIET frame's payload reaches the calendar (R158). -/
def State.takeQuiet (s : State) (p : List Byte) : State :=
  match readQuiet p with
  | none => s.modCalendarCounters (fun c => { c with badQuiet := inc32 c.badQuiet })
  | some (.clear, _) => if s.calendar.override = none then s else s.endQuiet 1
  | some (.level l, hold) => s.imposeQuiet l hold false

/-! Triggers (R160, R161). -/

/-- The hour of the day of a show time (spec/00, 6.1). -/
def hourOf (t : Time) : Nat := ((t % 86400000) / 3600000).toNat

/-- The count parameter of a count source at an entry time (R160). -/
def CountSource.countAt (c : CountSource) (te : Time) : Nat :=
  match c with
  | .none => 0
  | .hour12 => (hourOf te + 11) % 12 + 1
  | .hour24 => if hourOf te = 0 then 24 else hourOf te
  | .fixed n => n

/-- The show id the trigger's vector holds, with the vector; a vector above 15 names no entry (R160). -/
def State.vectorOf (s : State) (t : Trigger) : Option (Fin 16 × Fin 32) :=
  match fin? 16 t.vector with
  | none => none
  | some v => (s.calendar.vectors[v]).map (fun w => (v, w))

/-- TRIGGER_ISSUE for an entry time (R160). -/
def State.issueTrigger (s : State) (te : Time) (t : Trigger) : State :=
  let s1 := s.modCalendar (fun c => { c with
    watermark := te - s.settings.lead,
    counters := { c.counters with triggersIssued := inc32 c.counters.triggersIssued } })
  match s.vectorOf t with
  | none => s1
  | some (v, w) => s1.calendarRequest w (t.source.countAt te) te v

/-- Whether triggers may be issued: in RUN, with the clock SET or FREE_RUNNING (R161). -/
def State.mayTrigger (s : State) : Bool := s.running && s.clock.state != .unset

/-- The triggers of the cycle that begins at `c`, with their entry times, in entry order. -/
def cycleTriggers (b : Bank) (c : Time) : List (Time × Trigger) :=
  b.used.filterMap (fun e => e.trigger.map (fun t => (c + e.offset, t)))

/-- The triggers of the current and the next cycle whose trigger times lie after the watermark and at or
before now, in order of trigger time (R161, R162). An entry of the current cycle whose offset is below the lead is
among them, though its trigger time lies in the cycle before (the model's choice, log entry 41). -/
def State.dueTriggers (s : State) : List (Time × Trigger) :=
  let c := s.calendar
  (cycleTriggers c.activeBank c.cycleStart ++ cycleTriggers c.activeBank (c.cycleStart + c.activeBank.cycle)).filter
    (fun x => decide (c.watermark < x.1 - s.settings.lead ∧ x.1 - s.settings.lead ≤ s.now))

/-- TRIGGER_TIME: the earliest trigger time due is issued, and a show that becomes the head is judged (R161, R145). -/
def State.nextTrigger (s : State) : State :=
  if s.mayTrigger then
    match s.dueTriggers with
    | [] => s
    | x :: _ => s.judgeAfter (s.issueTrigger x.1 x.2)
  else s

/-! Position derivation (R162). -/

/-- The cycle start at show time `now` for a base and a cycle (R162). -/
def cycleStartAt (base : Time) (cycle : Nat) (now : Time) : Time :=
  if base ≤ now then base + (now - base) / cycle * cycle else base

/-- The first part of a derivation: C, the list gates and their announcement (R162). -/
def State.derivePosition (s : State) : State :=
  let b := s.calendar.activeBank
  let c0 := cycleStartAt b.base b.cycle s.now
  let g := gatesAt b.used (s.now - c0)
  State.announce s (s.modCalendar (fun c => { c with
    cycleStart := c0, listBells := g.1, listFigures := g.2, entriesTaken := s.now, leadsTaken := s.now }))

/-- MISSED and TRIGGERS_MISSED for `n` triggers passed over (R162). -/
def State.missTriggers (s : State) (n : Nat) : State :=
  if n = 0 then s
  else (s.modCalendarCounters (fun c => { c with missed := satAdd 32 n c.missed })).raise .triggersMissed n 0

/-- The catch-up: the latest candidate is issued if it lies within W, the others are missed (R162), which is told
after it (log entry 46). -/
def State.catchUp (s : State) : State :=
  match s.dueTriggers.getLast? with
  | none => s
  | some x =>
    if s.now - s.settings.catchUp ≤ x.1 then (s.issueTrigger x.1 x.2).missTriggers (s.dueTriggers.length - 1)
    else s.missTriggers s.dueTriggers.length

/-- The second part of a derivation: the triggers are settled and the watermark set (R162). -/
def State.settleTriggers (s : State) : State :=
  if s.mayTrigger then s.catchUp.modCalendar (fun c => { c with watermark := s.now })
  else s.modCalendar (fun c => { c with watermark := min c.watermark s.now })

/-- POSITION_DERIVATION (R162). -/
def State.derive (s : State) : State := s.derivePosition.settleTriggers

/-! Season switches (R164, R165). -/

/-- The first failing entry of a bank from index `i` on: an offset at or above the cycle or not above the one
before it, or a trigger's vector above 15 (R164). -/
def firstFailing (cycle : Nat) : Nat → Option Nat → List SchedEntry → Option Nat
  | _, _, [] => none
  | i, prev, e :: es =>
    if cycle ≤ e.offset ∨ (match prev with
        | some p => decide (e.offset ≤ p)
        | none => false) = true ∨ (match e.trigger with
        | some t => decide (15 < t.vector)
        | none => false) = true
    then some i
    else firstFailing cycle (i + 1) (some e.offset) es

/-- The validation of a bank: 64 when the cycle fails, else the first failing entry (R164). -/
def Bank.failure (b : Bank) : Option Nat :=
  if b.cycle < 60000 ∨ 604800000 < b.cycle then some 64 else firstFailing b.cycle 0 none b.used

def BankName.other : BankName → BankName
  | .a => .b
  | .b => .a

/-- The number of a bank in SWITCH_DONE: 0 for A, 1 for B (R165). -/
def BankName.code : BankName → Nat
  | .a => 0
  | .b => 1

/-- A bank of the calendar is changed. -/
def Calendar.modBank (c : Calendar) (n : BankName) (g : Bank → Bank) : Calendar :=
  match n with
  | .a => { c with bankA := g c.bankA }
  | .b => { c with bankB := g c.bankB }

/-- The banks are exchanged and the new active bank takes the base (R165). -/
def Calendar.exchange (c : Calendar) (base : Time) : Calendar :=
  let d := c.modBank c.active.other (fun b => { b with base := base })
  { d with active := c.active.other, pendingSwitch := none }

/-- SWITCH_DONE: a switch takes effect: derivation, recheck of the queue, judgement of the head, counter and event;
`n` is the arg1 of its event (R165). -/
def State.takeSwitch (s : State) (base : Time) (n : Int) : State :=
  let s1 := ((State.derive (s.modCalendar (fun c => c.exchange base))).recheckShows).judgeHead
  (s1.modCalendarCounters (fun c => { c with switches := inc32 c.switches })).raise .switchDone n s1.calendar.active.code

/-- PENDING_SWITCH_BASE: show time reaches a pending base (R165). -/
def State.reachSwitch (s : State) : State :=
  match s.calendar.pendingSwitch with
  | none => s
  | some b => if b ≤ s.now then s.takeSwitch b 0 else s

/-- ENTRY_TIME: every change of the list gates that show time has reached, announced as one (R157, R159). A switch whose
base is reached and a restart that is reached are of the same event, and are taken first (log entry 52). -/
def State.nextEntry (s : State) : State := s.reachSwitch.restartCycle.takeEntries

/-- QUIET_EXPIRY: show time reaches the expiry (R158). The changes of the list gates that show time has reached are of
the same event: they are taken first, with the override still in force, so that only the resulting change of both is
announced (R159; log entry 52). -/
def State.expireQuiet (s : State) : State :=
  match s.calendar.override with
  | none => s
  | some o => if o.expiry ≤ s.now then s.nextEntry.endQuiet 0 else s

/-- CALENDAR_STEP: the calendar's step rule (R163). -/
def State.calendarStep (s : State) : State :=
  match s.calendar.pendingSwitch with
  | none => s.derive
  | some b => if b ≤ s.now then s.takeSwitch b 0 else s.derive

/-! The lead of admission (R145). -/

/-- Whether show time has reached an entry time of the active bank less 300 ms that has not been taken (R145). -/
def State.leadReached (s : State) : Bool :=
  s.calendar.activeBank.used.any (fun e =>
    [s.calendar.entryTime e, s.calendar.entryTime e + s.calendar.activeBank.cycle].any (fun te =>
      decide (s.calendar.leadsTaken < te - 300 ∧ te - 300 ≤ s.now)))

/-- ENTRY_LEAD_JUDGE: the head is judged (R145). -/
def State.judgeAtLead (s : State) : State :=
  if s.leadReached then State.judgeHead (s.modCalendar (fun c => { c with leadsTaken := s.now })) else s

/-! The meanings. -/

/-- QUIET (R158). -/
def execQuiet (f : List Byte) (s : State) : Host.Outcome State Fault Refusal :=
  .next (if s.fixedPath .head f .calendar then s.takeQuiet (framePayload f) else s)

/-- QUIET_EXPIRY (R158, R159). -/
def execQuietExpiry (s : State) : Host.Outcome State Fault Refusal := .next s.expireQuiet

/-- CYCLE_RESTART (R157). -/
def execCycleRestart (s : State) : Host.Outcome State Fault Refusal := .next s.restartCycle

/-- ENTRY_TIME (R157, R159). -/
def execEntryTime (s : State) : Host.Outcome State Fault Refusal := .next s.nextEntry

/-- TRIGGER_TIME (R161). -/
def execTriggerTime (s : State) : Host.Outcome State Fault Refusal := .next s.nextTrigger

/-- PENDING_SWITCH_BASE (R165). -/
def execPendingSwitchBase (s : State) : Host.Outcome State Fault Refusal := .next s.reachSwitch

/-- ENTRY_LEAD_JUDGE (R145). -/
def execEntryLeadJudge (s : State) : Host.Outcome State Fault Refusal := .next s.judgeAtLead

end Sys2Proof.Machine
end

