-- ==== Sys2Proof/Machine/Clock.lean ====
section
/-! DEFINITION. The show clock: the local millisecond (R1), beacons (R3, R4), slews (R5, R6), steps and their
announcement (R7, R8), loss (R9), and the meanings of LOCAL_MILLISECOND, BEACON and BEACON_LOST. -/

namespace Sys2Proof.Machine

/-! The count. -/

/-- Show time one count on. Past 48 bits the manual says nothing but that it does not happen in service: the
value is free (R1; log entry 8). -/
def State.countOn (s : State) : State :=
  if s.clock.time + 1 < timeTop then s.modClock (fun c => { c with time := c.time + 1 })
  else (s.modClock (fun c => { c with time := ((Config.countAfterTop s.freeCount).toNat : Int) })).drawFree

/-- LOCAL_MILLISECOND: a freeze falls by one, or show time advances by one (R1). -/
def State.tick (s : State) : State :=
  if 0 < s.clock.freeze then s.modClock (fun c => { c with freeze := c.freeze - 1 }) else s.countOn

/-! Beacons. -/

/-- The length of a day in ms. -/
def dayLength : Nat := 86400000

/-- The beacon time B (R3). -/
def beaconTime (day ms : Nat) : Time := day * dayLength + ms

/-- d clamped for storage and for TIME_STEP (R3, R7). -/
def clampDiff (d : Int) : Int := clampInt (-32767) 32767 d

/-- An accepted beacon is counted and ends any freeze outstanding (R3, R4). -/
def State.acceptBeacon (s : State) (d : Int) : State :=
  s.modClock (fun c => { c with beaconsAccepted := inc32 c.beaconsAccepted, lastDiff := clampDiff d, freeze := 0 })

/-- The state and the loss deadline after a correction (R4). -/
def State.setClock (s : State) : State :=
  s.modClock (fun c => { c with state := .set, lossDeadline := some (c.time + 5000) })

/-- FORWARD_SLEW and BACKWARD_SLEW (R5, R6). -/
def State.slew (s : State) (d : Int) : State :=
  if 0 < d then s.modClock (fun c => { c with time := c.time + min d 2 })
  else s.modClock (fun c => { c with freeze := (min (-d) 2).toNat })

/-- TIME_STEP: show time becomes B, counted and raised (R7). -/
def State.setTime (s : State) (b : Time) (d : Int) : State :=
  (s.modClock (fun c => { c with time := b, steps := inc32 c.steps })).raise .timeStep (clampDiff d)
    (if 32767 < d.natAbs then 1 else 0)

/-- SHOW_STEP_JUDGE: the head of the show queue, then the cursor of each run in slot order (R145, R148; the order is the
model's choice, log entry 42). -/
def State.showStep (s : State) : State := (indices 4).foldl State.judgeCursor s.judgeHead

/-- A step announced: the launch queue, the run unit and the calendar apply their step rules, then the show
unit (R8). -/
def State.announceStep (s : State) (d : Int) : State :=
  (((s.launchStep d).runStep d).calendarStep).showStep

/-- A step of the clock: the time, then the clock's new state, then the announcement (R4, R7, R8; log entry 10).
Windows that show time has passed are released at the step (R137). -/
def State.stepClock (s : State) (b : Time) (d : Int) : State :=
  State.announceStep (((s.setTime b d).setClock).releaseReached) d

/-- Whether an accepted beacon slews: not from UNSET, and with |d| at most 20 (R4). -/
def slews (st : ClockState) (d : Int) : Bool := st != .unset && d.natAbs ≤ 20

/-- A beacon's payload delivered to the clock (R3, R4). -/
def State.takeBeacon (s : State) (p : List Byte) : State :=
  match readBeacon p with
  | none => s.modClock (fun c => { c with badBeacon := inc32 c.badBeacon })
  | some (day, ms) =>
    if dayLength ≤ ms then s.modClock (fun c => { c with badBeacon := inc32 c.badBeacon })
    else
      let b := beaconTime day ms
      let d := b - s.now
      if slews s.clock.state d then State.setClock ((s.acceptBeacon d).slew d)
      else (s.acceptBeacon d).stepClock b d

/-! Beacon loss. -/

/-- BEACON_LOST (R9). -/
def State.loseBeacon (s : State) : State :=
  if s.clock.state = .set ∧ reached s.now s.clock.lossDeadline then
    (s.modClock (fun c => { c with state := .freeRunning, lossDeadline := none })).raise .beaconLost 0 0
  else s

/-! The meanings. -/

/-- LOCAL_MILLISECOND (R1). -/
def execLocalMillisecond (s : State) : Host.Outcome State Fault Refusal := .next s.tick

/-- BEACON (R3). -/
def execBeacon (f : List Byte) (s : State) : Host.Outcome State Fault Refusal :=
  .next (if s.fixedPath .head f .clock then s.takeBeacon (framePayload f) else s)

/-- BEACON_LOST (R9). -/
def execBeaconLost (s : State) : Host.Outcome State Fault Refusal := .next s.loseBeacon

end Sys2Proof.Machine
end

