-- ==== Sys2Proof/Machine/Cues.lean ====
section
/-! DEFINITION. Cue handling (R173, R174) and the meanings of the seven cue rows. -/

namespace Sys2Proof.Machine

/-! Refusals. -/

/-- The reasons of Table 10.3. -/
inductive CueReason where
  | notRunning
  | clockUnset
  | badCue
  | bellInvalid
  | late
  | beyondHorizon
  | queueFull
  | motifInvalid
  | noSlot
  | showInvalid
  | showDuplicate
  | showFitsNowhere
  | showQueueFull
  | showNotActive
  | figureInvalid
  | figureBusy
  deriving DecidableEq, Repr

/-- The codes of Table 10.3. -/
def CueReason.code : CueReason → Nat
  | .notRunning => 1
  | .clockUnset => 2
  | .badCue => 3
  | .bellInvalid => 4
  | .late => 5
  | .beyondHorizon => 6
  | .queueFull => 7
  | .motifInvalid => 8
  | .noSlot => 9
  | .showInvalid => 10
  | .showDuplicate => 11
  | .showFitsNowhere => 12
  | .showQueueFull => 13
  | .showNotActive => 14
  | .figureInvalid => 15
  | .figureBusy => 16

/-- CUE_REFUSED with its reason, the cue type and the entry index (R173). -/
def State.refuseCue (s : State) (r : CueReason) (type index : Nat) : State :=
  s.raise .cueRefused r.code (256 * type + index)

/-- A cue refused whole. The type of a cue with an empty payload is a free value (R173; log entry 8). -/
def State.refusePayload (s : State) (p : List Byte) (r : CueReason) : State :=
  match p with
  | [] => (s.refuseCue r (Config.missingCueType s.freeCount).toNat 0).drawFree
  | b :: _ => s.refuseCue r b.toNat 0

/-- The reason of a refused strike entry (Table 10.3). -/
def StrikeRefusal.reason : StrikeRefusal → CueReason
  | .bellInvalid => .bellInvalid
  | .late => .late
  | .beyondHorizon => .beyondHorizon
  | .queueFull => .queueFull

/-- The reason of a refused SHOW_START (R142, Table 10.3). -/
def ShowRefusal.reason : ShowRefusal → CueReason
  | .invalid => .showInvalid
  | .duplicate => .showDuplicate
  | .fitsNowhere => .showFitsNowhere
  | .queueFull => .showQueueFull

/-! The cues. -/

/-- The time of a strike entry: base and offset, or as soon as possible when the base is 0 (R44, R174). -/
def strikeWhen (base offset : Nat) : StrikeWhen :=
  if base = 0 then .asap offset else .soundAt (base + offset : Nat)

/-- One entry of a STRIKE cue is sent to the strike planner (R174). -/
def State.cueEntry (s : State) (base : Nat) (e : CueStrike) (index : Nat) : State :=
  let p := planStrike s { bell := e.bell, velocity := e.velocity, time := strikeWhen base e.offset, origin := .cue }
  match p.1 with
  | .accepted => p.2
  | .ignored => p.2
  | .refused r => p.2.refuseCue r.reason 1 index

/-- The entries of a STRIKE cue from index `i` on, in order (R174). -/
def State.cueEntries (base : Nat) : List CueStrike → Nat → State → State
  | [], _, s => s
  | e :: es, i, s => State.cueEntries base es (i + 1) (s.cueEntry base e i)

/-- A MOTIF_PLAY cue (R94). A motif index outside 0 to 63 is judged before the slots (the model's choice, log entry
53). -/
def State.playMotif (s : State) (motif anchor tempo : Nat) (transpose : Int) (scale count : Nat) : State :=
  match fin? 64 motif with
  | none => s.refuseCue .motifInvalid 2 0
  | some m =>
    match s.freeSlot with
    | none => s.refuseCue .noSlot 2 0
    | some k =>
      let q : RunRequest :=
        { kind := .motif, showId := none, topMotif := m, origin := .cue,
          anchor := if anchor = 0 then s.now + 300 else (anchor : Int),
          tempo := clamp 50 200 tempo, count := count, transpose := clampInt (-24) 24 transpose,
          scale := clamp 1 128 scale, moves := 0 }
      ((s.createRun k q).raise .motifStarted k.val (256 + m.val)).beginRun k

/-- A SHOW_START cue; a show that joins an empty queue is judged (R142, R145). -/
def State.startShow (s : State) (showId anchor tempo count : Nat) : State :=
  match fin? 32 showId with
  | none => (s.modShowCounters (fun c => c.refuse .invalid)).refuseCue .showInvalid 3 0
  | some w =>
    match s.requestShow w tempo count (if anchor = 0 then none else some (anchor : Int)) .cue with
    | (none, s1) => s.judgeAfter s1
    | (some r, s1) => s1.refuseCue r.reason 3 0

/-- A SHOW_STOP cue; a new head, or the head for a slot and figures that have become free, is judged (R153, R145). -/
def State.cueStop (s : State) (showId : Nat) : State :=
  match fin? 32 showId with
  | none => s.refuseCue .showInvalid 4 0
  | some w =>
    match s.stopShow w with
    | (true, s1) => s.judgeAfter s1
    | (false, s1) => s1.refuseCue .showNotActive 4 0

/-- A FIGURE_GO cue (R122). -/
def State.goFigure (s : State) (figure target speedPercent : Nat) (w : Way) : State :=
  match fin? 16 figure with
  | none => s.refuseCue .figureInvalid 5 0
  | some f =>
    if s.figRecs[f].enabled = false then s.refuseCue .figureInvalid 5 0
    else if s.figs[f].owner.isSome || s.figs[f].state.refusesLive then s.refuseCue .figureBusy 5 0
    else s.requestMove f target speedPercent w .cue

/-- An ALL_STOP cue (R174). Its effects come in the order in which R174 names them (the model's choice, log entry 39). -/
def State.stopAll (s : State) : State := (((s.emptyShows).cancelAll .allStop).purgeAll).withdrawLive

/-- A cue that has passed the checks of R173 goes to the block that carries it out. -/
def State.carryCue (s : State) (c : Cue) : State :=
  match c with
  | .strike base entries => State.cueEntries base entries 0 s
  | .motifPlay motif anchor tempo transpose scale count => s.playMotif motif anchor tempo transpose scale count
  | .showStart showId anchor tempo count => s.startShow showId anchor tempo count
  | .showStop showId => s.cueStop showId
  | .figureGo figure target speedPercent w => s.goFigure figure target speedPercent w
  | .allStop => s.stopAll

/-- Cue handling of a payload, judged in the order of R173. -/
def State.takeCue (s : State) (p : List Byte) : State :=
  if s.running = false then s.refusePayload p .notRunning
  else match readCue p with
    | none => s.refusePayload p .badCue
    | some c =>
      if c.timed && s.clock.state = .unset then s.refusePayload p .clockUnset
      else s.carryCue c

/-! The meanings. -/

/-- A cue frame of a row reaches cue handling by the fixed path (R15). -/
def State.cueFrame (s : State) (f : List Byte) (r : CueRow) : State :=
  if s.fixedPath .head f .cues && fitsCue f r then s.takeCue (framePayload f) else s

/-- STRIKE_CUE (R174). -/
def execStrikeCue (f : List Byte) (s : State) : Host.Outcome State Fault Refusal := .next (s.cueFrame f .strike)

/-- MOTIF_PLAY (R94). -/
def execMotifPlay (f : List Byte) (s : State) : Host.Outcome State Fault Refusal := .next (s.cueFrame f .motifPlay)

/-- SHOW_START (R142). -/
def execShowStart (f : List Byte) (s : State) : Host.Outcome State Fault Refusal := .next (s.cueFrame f .showStart)

/-- SHOW_STOP (R153). -/
def execShowStop (f : List Byte) (s : State) : Host.Outcome State Fault Refusal := .next (s.cueFrame f .showStop)

/-- FIGURE_GO (R122). -/
def execFigureGo (f : List Byte) (s : State) : Host.Outcome State Fault Refusal := .next (s.cueFrame f .figureGo)

/-- ALL_STOP (R174). -/
def execAllStop (f : List Byte) (s : State) : Host.Outcome State Fault Refusal := .next (s.cueFrame f .allStop)

/-- UNKNOWN_CUE_TYPE (R173). -/
def execUnknownCueType (f : List Byte) (s : State) : Host.Outcome State Fault Refusal :=
  .next (s.cueFrame f .unreadable)

end Sys2Proof.Machine
end

