-- ==== Sys2Proof/Machine/Encode.lean ====
section
/-! DEFINITION. The records and object states returned by reads, as bytes (R177, R43, R11, R77, R99, R125, R138, R167,
R172). The layouts R177 gives by kind but not by example are those of log entry 19. -/

namespace Sys2Proof.Machine

/-! Fields. -/

/-- A show time, or a difference of two, in 6 bytes (R176; log entry 9). -/
def timeBytes (t : Time) : List Byte := leInt 6 t

/-- An optional field: a presence byte, then the field, sent as zeros when absent (R177). -/
def optBytes (size : Nat) (x : Option (List Byte)) : List Byte :=
  match x with
  | some b => 1 :: b
  | none => 0 :: List.replicate size 0

/-- A list of varying length: a count byte, then its items (R177). -/
def listBytes {α : Type} (xs : List α) (f : α → List Byte) : List Byte := byteOf xs.length :: xs.flatMap f

/-- A remaining time that is 0 when its deadline is absent or passed. -/
def timeLeft (d : Option Time) (now : Time) : Nat :=
  match d with
  | some t => (t - now).toNat
  | none => 0

/-! Enumerations, numbered from 0 in the order their tables list them (R176). -/

def DirFilter.code : DirFilter → Nat
  | .outbound => 0
  | .inbound => 1
  | .both => 2

def Comparison.code : Comparison → Nat
  | .equal => 0
  | .notEqual => 1
  | .atMost => 2
  | .atLeast => 3

def Curve.code : Curve → Nat
  | .linear => 0
  | .square => 1

def GateNeed.code : GateNeed → Nat
  | .bells => 0
  | .figures => 1
  | .both => 2

def Gate.code : Gate → Nat
  | .opened => 0
  | .closed => 1

def FigKind.code : FigKind → Nat
  | .linear => 0
  | .rotary => 1

def BoardKind.code : BoardKind → Nat
  | .bell => 0
  | .motion => 1

def ClockState.code : ClockState → Nat
  | .unset => 0
  | .set => 1
  | .freeRunning => 2

def EngineState.code : EngineState → Nat
  | .config => 0
  | .run => 1

def RunState.code : RunState → Nat
  | .free => 0
  | .playing => 1
  | .holding => 2
  | .draining => 3

def RunKind.code : RunKind → Nat
  | .show => 0
  | .motif => 1

def Progress.code : Progress → Nat
  | .notIssued => 0
  | .issued => 1
  | .arrived => 2
  | .failed => 3
  | .unreached => 4

def FigState.code : FigState → Nat
  | .unhomed => 0
  | .homing => 1
  | .idle => 2
  | .waitZone => 3
  | .waitSupply => 4
  | .starting => 5
  | .moving => 6
  | .stopping => 7
  | .held => 8
  | .fault => 9

def StopEnd.code : StopEnd → Nat
  | .held => 0
  | .idle => 1

/-- The fault causes in the order of Table 6.2. -/
def FaultCause.tableCode : FaultCause → Nat
  | .stall => 0
  | .boardAbsent => 1
  | .boardBusy => 2
  | .overcurrent => 3
  | .limit => 4
  | .homeFailed => 5

def Presence.code : Presence → Nat
  | .unknown => 0
  | .present => 1
  | .absent => 2

def CommandCondition.code : CommandCondition → Nat
  | .waiting => 0
  | .holdoff _ => 1
  | .outstanding _ => 2
  | .resend => 3

/-! Table records. -/

/-- A verdict: action, forward, quiet level and quiet hold (R177; log entry 20). -/
def Verdict.bytes (v : Verdict) : List Byte :=
  match v.action with
  | .none => [0, boolByte v.forward, 0] ++ leBytes 4 0
  | .cue => [1, boolByte v.forward, 0] ++ leBytes 4 0
  | .beacon => [2, boolByte v.forward, 0] ++ leBytes 4 0
  | .quiet level hold => [3, boolByte v.forward, byteOf level.code] ++ leBytes 4 hold
  | .board => [4, boolByte v.forward, 0] ++ leBytes 4 0

/-- An outcome: a kind byte, then n or the verdict (R177). -/
def ParseOutcome.bytes : ParseOutcome → List Byte
  | .next n => [0, byteOf n]
  | .verdict v => 1 :: v.bytes

/-- A parse entry (Table 2.4). -/
def ParseEntry.bytes (e : ParseEntry) : List Byte :=
  [byteOf e.filter.code, byteOf e.rightmost, byteOf e.width] ++ leBytes 2 e.mask.toNat ++ leBytes 2 e.matchValue.toNat
    ++ [byteOf e.comparison.code] ++ e.onTrue.bytes ++ e.onFalse.bytes

/-- A bell record (Table 3.2). -/
def BellRec.bytes (b : BellRec) : List Byte :=
  [boolByte b.enabled, byteOf b.board.val, byteOf b.channel.val, byteOf b.curve.code] ++ leBytes 2 b.pulseMin
    ++ leBytes 2 b.pulseMax ++ leBytes 2 b.pulseCeiling ++ [byteOf b.flightSoft, byteOf b.flightLoud]
    ++ leBytes 2 b.recovery ++ leBytes 2 b.coilCurrent ++ leBytes 4 b.heatLimit ++ leBytes 4 b.coolRate

/-- A bell's state after its record (R43). -/
def BellState.bytes (b : BellState) (now : Time) : List Byte :=
  leBytes 4 b.heat ++ leBytes 4 (min (now - b.heatAt).toNat 4294967295) ++ optBytes 6 (b.lastFire.map timeBytes)
    ++ [boolByte b.unavailable]

/-- A directory entry (Table 5.1). -/
def MotifDir.bytes (m : MotifDir) : List Byte := leBytes 2 m.firstRow ++ leBytes 2 m.rowCount

/-- A row: its kind, then that kind's fields (Table 5.2). -/
def Row.bytes : Row → List Byte
  | .note bell velocity delta => [0, byteOf bell.val, byteOf velocity] ++ leBytes 2 delta
  | .rest delta => 1 :: leBytes 2 delta
  | .nest motif times transpose scale => [2, byteOf motif.val, byteOf times] ++ leInt 1 transpose ++ [byteOf scale]
  | .mark m => [3, byteOf m.val]

/-- A show record (Table 8.1). -/
def ShowRec.bytes (w : ShowRec) : List Byte :=
  [boolByte w.enabled, byteOf w.topMotif.val, byteOf w.tempo] ++ leBytes 4 w.declaredLength ++ [byteOf w.need.code]
    ++ leBytes 2 w.firstMove ++ [byteOf w.moveCount] ++ leBytes 2 w.grace

/-- A move entry (Table 8.2). -/
def MoveEntry.bytes (m : MoveEntry) : List Byte :=
  byteOf m.figure.val :: (leBytes 2 m.target ++ [byteOf m.speedPercent, byteOf m.way.code, byteOf m.startMark.val]
    ++ leBytes 2 m.startDelay ++ optBytes 1 (m.arriveMark.map (fun k => [byteOf k.val])))

/-- A vector entry (R156; log entry 21). -/
def vectorBytes (v : Option (Fin 32)) : List Byte := optBytes 1 (v.map (fun w => [byteOf w.val]))

/-- A count source and its number (Table 9.2; log entry 19). -/
def CountSource.bytes : CountSource → List Byte
  | .none => [0, 0]
  | .hour12 => [1, 0]
  | .hour24 => [2, 0]
  | .fixed n => [3, byteOf n]

/-- A schedule entry (Table 9.2). -/
def SchedEntry.bytes (e : SchedEntry) : List Byte :=
  leBytes 4 e.offset ++ [byteOf e.bellGate.code, byteOf e.figureGate.code]
    ++ optBytes 3 (e.trigger.map (fun t => byteOf t.vector :: t.source.bytes))

/-- A bank header (Table 9.1). -/
def Bank.headerBytes (b : Bank) : List Byte := timeBytes b.base ++ leBytes 4 b.cycle ++ [byteOf b.count]

/-- A zone span (Table 6.1). -/
def ZoneSpan.bytes (z : ZoneSpan) : List Byte := byteOf z.zone.val :: (leBytes 2 z.lo ++ leBytes 2 z.hi)

/-- A figure record (Table 6.1). -/
def FigRec.bytes (r : FigRec) : List Byte :=
  [boolByte r.enabled, byteOf r.board.val, byteOf r.channel.val, byteOf r.kind.code] ++ leBytes 2 r.span
    ++ leBytes 2 r.softLo ++ leBytes 2 r.softHi ++ leBytes 2 r.home ++ leBytes 2 r.maxSpeed ++ leBytes 2 r.runCurrent
    ++ [byteOf r.priority, byteOf r.tolerance] ++ listBytes r.spans ZoneSpan.bytes

/-- A board record (Table 7.1). -/
def BoardRec.bytes (b : BoardRec) : List Byte :=
  [boolByte b.enabled, b.address, byteOf b.kind.code, byteOf b.group.val]

/-- A supply group record (Table 7.5). -/
def GroupRec.bytes (g : GroupRec) : List Byte := leBytes 2 g.limit ++ leBytes 2 g.reserve

/-- The settings record (Table 10.2). -/
def Settings.bytes (t : Settings) : List Byte :=
  leBytes 2 t.vnom ++ [byteOf t.expiry] ++ leBytes 2 t.lookahead ++ leBytes 2 t.lead ++ leBytes 4 t.catchUp
    ++ [byteOf t.starvation] ++ leBytes 4 t.zoneWait ++ [byteOf t.strikeGuard, t.reportDest] ++ t.fallback.bytes
    ++ [byteOf t.stepLimit, byteOf t.liveEntries, byteOf t.answerTimeout] ++ leBytes 2 t.rejectHoldoff
    ++ [byteOf t.retries] ++ leBytes 2 t.statusTimeout ++ [boolByte t.homeOnRun]

/-- An entry of a bank by its index: 0 to 63 an entry, 64 the header (R155). -/
def Bank.itemBytes (b : Bank) (index : Nat) : Option (List Byte) :=
  if index = 64 then some b.headerBytes else (b.entries[index]?).map SchedEntry.bytes

/-- A record of a table, or none for an index outside its range (R171; tables numbered by Table 10.5). -/
def State.recordBytes (s : State) (table selector index : Nat) : Option (List Byte) :=
  if table = 0 then (s.parse[index]?).map ParseEntry.bytes
  else if table = 1 then (fin? 48 index).map (fun i => s.bellRecs[i].bytes ++ s.bells[i].bytes s.now)
  else if table = 2 then (s.motifDirs[index]?).map MotifDir.bytes
  else if table = 3 then (s.rows[index]?).map Row.bytes
  else if table = 4 then (s.shows[index]?).map ShowRec.bytes
  else if table = 5 then (s.moves[index]?).map MoveEntry.bytes
  else if table = 6 then (s.calendar.vectors[index]?).map vectorBytes
  else if table = 7 then
    if selector = 1 then s.calendar.activeBank.itemBytes index else s.calendar.shadowBank.itemBytes index
  else if table = 8 then (s.figRecs[index]?).map FigRec.bytes
  else if table = 9 then (s.boardRecs[index]?).map BoardRec.bytes
  else if table = 10 then (s.groups[index]?).map GroupRec.bytes
  else if index = 0 then some s.settings.bytes
  else none

/-! Object states. -/

/-- A request's origin: CALENDAR with the vector, or CUE (Tables 5.3 and 8.3; log entry 19). -/
def RequestOrigin.bytes : RequestOrigin → List Byte
  | .calendar v => [0, byteOf v.val]
  | .cue => [1, 0]

/-- A show queue entry (Table 8.3). -/
def ShowRequest.bytes (q : ShowRequest) : List Byte :=
  [byteOf q.showId.val, byteOf q.count, byteOf q.tempo] ++ optBytes 6 (q.anchor.map timeBytes) ++ q.origin.bytes
    ++ [byteOf q.cyclesWaited]

/-- The object engine (R172). -/
def State.engineBytes (s : State) : List Byte :=
  [byteOf s.mgmt.engine.code, s.node, byteOf s.mgmt.events.length, byteOf s.mgmt.lost]
    ++ s.mgmt.mask.toList.map boolByte ++ listBytes s.showUnit.queue ShowRequest.bytes

/-- The object clock (R11). -/
def Clock.bytes (c : Clock) : List Byte :=
  [byteOf c.state.code] ++ timeBytes c.time ++ [byteOf c.freeze] ++ leBytes 2 (timeLeft c.lossDeadline c.time)
    ++ leInt 2 c.lastDiff ++ leBytes 4 c.beaconsAccepted ++ leBytes 4 c.badBeacon ++ leBytes 4 c.steps

/-- A strike's origin: CUE, or RUN with the slot (Table 4.1; log entry 19). -/
def StrikeOrigin.bytes : StrikeOrigin → List Byte
  | .cue => [0, 0]
  | .run k => [1, byteOf k.val]

/-- A launch entry (Table 4.1). -/
def LaunchEntry.bytes (e : LaunchEntry) : List Byte :=
  [byteOf e.bell.val, byteOf e.shaped] ++ timeBytes e.sound ++ timeBytes e.fire ++ timeBytes e.fire0 ++ e.origin.bytes
    ++ [byteOf e.deferred]

/-- The head present flag, the head entry and the head lead (R77). -/
def headBytes (now : Time) (w : List LaunchEntry) : List Byte :=
  match w with
  | [] => List.replicate 26 0
  | e :: _ => 1 :: (e.bytes ++ leInt 2 (clampInt (-32767) 32767 (e.fire - now)))

/-- The object launch queue (R77). -/
def State.launchBytes (s : State) : List Byte :=
  leBytes 2 s.held ++ leBytes 2 s.launch.waiting.length ++ leBytes 2 (s.held - s.launch.waiting.length)
    ++ leBytes 2 (s.launch.waiting.countP (fun e => e.origin = .cue))
    ++ (indices 4).flatMap (fun k => leBytes 2 (s.runCount k))
    ++ headBytes s.now s.launch.waiting ++ leBytes 2 s.launch.greatestLateness ++ [byteOf s.tail.strikeQueue.length]

/-- A stack frame (Table 5.4). -/
def StackFrame.bytes (f : StackFrame) : List Byte :=
  byteOf f.motif.val :: (leBytes 2 f.nextRow ++ [byteOf f.repeatsLeft] ++ leInt 1 f.transpose ++ [byteOf f.scale])

/-- The object run: Table 5.3, the sound time of the current position and the expansion point (R99). -/
def State.runBytes (s : State) (r : Run) : List Byte :=
  [byteOf r.state.code, byteOf r.kind.code] ++ optBytes 1 (r.showId.map (fun w => [byteOf w.val]))
    ++ [byteOf r.topMotif.val] ++ r.origin.bytes ++ timeBytes r.anchor ++ [byteOf r.tempo, byteOf r.count]
    ++ leBytes 4 r.position ++ listBytes r.stack.reverse StackFrame.bytes
    ++ optBytes 7 (r.barrier.map (fun b => byteOf b.mark.val :: timeBytes b.time))
    ++ r.marks.toList.flatMap (fun t => optBytes 6 (t.map timeBytes))
    ++ [boolByte r.paused, byteOf r.zeroCount, byteOf r.cursor]
    ++ listBytes r.progress (fun p => [byteOf p.code])
    ++ leBytes 4 r.planned ++ leBytes 4 r.lost ++ leBytes 2 r.nestTooDeep ++ leBytes 4 r.holdTotal
    ++ timeBytes r.soundNow ++ timeBytes (r.soundNow - s.settings.lookahead)

/-- A requester: RUN with slot and index, CUE or MGMT (section 6.2; log entry 19). -/
def Requester.bytes : Requester → List Byte
  | .run k i => [0, byteOf k.val, byteOf i]
  | .cue => [1, 0, 0]
  | .mgmt => [2, 0, 0]

/-- A move or a homing with its requester (Table 6.2; log entry 19). -/
def Move.bytes (m : Move) : List Byte :=
  (match m.goal with
    | .go t pct w => 0 :: (leBytes 2 t ++ [byteOf pct, byteOf w.code])
    | .home => [1, 0, 0, 0, 0]) ++ m.requester.bytes

/-- Channel flags (R112). -/
def ChanReport.flagBytes (r : ChanReport) : List Byte :=
  [boolByte r.moving, boolByte r.arrived, boolByte r.homed, boolByte r.overcurrent, boolByte r.limit]

/-- A set of zones, sent as a list in rising order of zone (the model's choice, log entry 47). -/
def zoneBytes (zs : List (Fin 24)) : List Byte := listBytes zs (fun z => [byteOf z.val])

/-- The object figure: Table 6.2, the channel flags, the remaining times and the needed zones
(R125; log entry 48). -/
def State.figureBytes (s : State) (f : Fin 16) : List Byte :=
  let x := s.figs[f]
  [byteOf x.state.code] ++ optBytes 2 (x.position.map (leBytes 2)) ++ optBytes 8 (x.current.map Move.bytes)
    ++ optBytes 8 (x.nextMove.map Move.bytes) ++ zoneBytes (s.heldZones f)
    ++ optBytes 1 (x.owner.map (fun k => [byteOf k.val]))
    ++ optBytes 3 (x.admitted.map (fun a => leBytes 2 a.1 ++ [byteOf a.2.val]))
    ++ optBytes 6 (x.waitStart.map timeBytes) ++ leBytes 4 x.waitUsed ++ optBytes 6 (x.travelDeadline.map timeBytes)
    ++ [byteOf x.stopEnd.code] ++ optBytes 1 (x.faultCause.map (fun c => [byteOf c.tableCode]))
    ++ leBytes 2 x.movesArrived ++ leBytes 2 x.movesFailed ++ leBytes 2 x.moveReplaced ++ leBytes 2 x.moveAbandoned
    ++ x.flags.flagBytes ++ leBytes 4 (timeLeft (s.waitDeadline f) s.now)
    ++ leBytes 4 (timeLeft x.travelDeadline s.now) ++ zoneBytes x.needed

/-- A command in a board's list: command, channel, condition, tag, rejects and owner (R138; log entry 19). -/
def Command.bytes (c : Command) : List Byte :=
  [byteOf c.op.code, byteOf (channelCode c.channel), byteOf c.condition.code] ++ optBytes 1 (c.tag.map (fun t => [t]))
    ++ [byteOf c.rejects] ++ optBytes 1 (c.owners.head?.map (fun f => [byteOf f.val]))

/-- The channel reports of a board of the kind (Table 7.2). -/
def BoardState.reportBytes (t : BoardState) (k : BoardKind) : List Byte :=
  match k with
  | .bell => t.coilFlags.toList.map boolByte
  | .motion => t.motors.toList.flatMap (fun r => leBytes 2 r.position ++ r.flagBytes)

/-- The object board (R138). The time left to the status deadline is sent in its low 16 bits (the model's choice, log
entry 35). -/
def State.boardBytes (s : State) (b : Fin 32) : List Byte :=
  let t := s.boards[b]
  s.boardRecs[b].bytes ++ [byteOf t.presence.code] ++ leBytes 2 (t.rail.getD 0)
    ++ leBytes 2 (timeLeft t.statusDeadline s.now) ++ t.reportBytes s.boardRecs[b].kind ++ [t.nextTag]
    ++ leBytes 2 t.sent ++ leBytes 2 t.rejected ++ leBytes 2 t.timedOut ++ leBytes 2 t.statusTaken
    ++ listBytes t.commands Command.bytes

/-- The figures with current admitted to a group, with their currents (R138), in order of figure index (the model's
choice, log entry 43). -/
def State.motorAccount (s : State) (g : Fin 4) : List (Fin 16 × Nat) :=
  (indices 16).filterMap (fun f => match s.figs[f].admitted with
    | some (ma, h) => if h = g then some (f, ma) else none
    | none => none)

/-- The object group (R138). -/
def State.groupBytes (s : State) (g : Fin 4) : List Byte :=
  s.groups[g].bytes ++ leBytes 2 (s.strikeSum g) ++ leBytes 2 (s.motorSum g)
    ++ [byteOf (s.strikeAccount.countP (fun a => a.group = g))]
    ++ listBytes (s.motorAccount g) (fun p => byteOf p.1.val :: leBytes 2 p.2)

/-- The least show time of a list that lies after now. -/
def nextAfter (now : Time) (ts : List Time) : Option Time := leastTime (ts.filter (fun t => decide (now < t)))

/-- The starts of the current cycle and the two after it. -/
def Calendar.cycleStarts (c : Calendar) : List Time :=
  [c.cycleStart, c.cycleStart + c.activeBank.cycle, c.cycleStart + 2 * c.activeBank.cycle]

/-- The next entry time of the active bank after now (R167). -/
def State.nextEntryTime (s : State) : Option Time :=
  nextAfter s.now (s.calendar.cycleStarts.flatMap (fun c => s.calendar.activeBank.used.map (fun e => c + e.offset)))

/-- The next trigger time of the active bank after now (R167). -/
def State.nextTriggerTime (s : State) : Option Time :=
  nextAfter s.now (s.calendar.cycleStarts.flatMap (fun c =>
    (cycleTriggers s.calendar.activeBank c).map (fun x => x.1 - s.settings.lead)))

/-- An effective gate as a gate (R159, R167). -/
def gateByte (isOpen : Bool) : Byte := if isOpen then byteOf Gate.opened.code else byteOf Gate.closed.code

/-- The object calendar (R167). The time to the override's expiry is sent in its low 32 bits (the model's choice, log
entry 35). -/
def State.calendarBytes (s : State) : List Byte :=
  let c := s.calendar
  byteOf c.active.code :: (c.activeBank.headerBytes ++ timeBytes c.cycleStart ++ timeBytes (s.now - c.cycleStart)
    ++ [byteOf c.listBells.code, byteOf c.listFigures.code, gateByte c.bellsOpen, gateByte c.figuresOpen]
    ++ optBytes 5 (c.override.map (fun o => byteOf o.level.code :: leBytes 4 (timeLeft (some o.expiry) s.now)))
    ++ optBytes 6 (c.pendingSwitch.map timeBytes) ++ timeBytes c.watermark
    ++ optBytes 6 (s.nextEntryTime.map timeBytes) ++ optBytes 6 (s.nextTriggerTime.map timeBytes))

/-- A port's counters (R172). -/
def PortCounters.list (p : PortCounters) : List Nat := [p.crcError, p.malformed, p.passOverrun]

/-- The classifier counters (R36). -/
def ClassifierCounters.list (c : ClassifierCounters) : List Nat :=
  [c.classified, c.dropped, c.fallback, c.liveExceeded, c.stepExceeded, c.offsetBeyond, c.actionMisdirected,
   c.unknownKind, c.mgmtOverrun]

/-- The strike counters (Table 4.2). -/
def StrikeCounters.list (c : StrikeCounters) : List Nat :=
  [c.accepted, c.emitted, c.gated, c.skipped, c.skipRecovery, c.skipHeat, c.skipBudget, c.skipBoardAbsent,
   c.skipOutOverrun, c.purged, c.stepPurged, c.runPurged, c.stopPurged, c.heatTrimmed, c.deferrals, c.lateFired,
   c.refusedLate, c.refusedBeyondHorizon, c.refusedQueueFull, c.refusedBellInvalid]

/-- The show counters (R154). -/
def ShowCounters.list (c : ShowCounters) : List Nat :=
  [c.requests, c.admitted, c.invalid, c.duplicate, c.fitsNowhere, c.queueFull, c.starved, c.moveUnreached, c.lateFigure]

/-- The calendar counters (R167). -/
def CalendarCounters.list (c : CalendarCounters) : List Nat :=
  [c.triggersIssued, c.missed, c.badQuiet, c.switches, c.switchRefused]

/-- The object counters (R172). The capture is one optional field, a presence byte before the show id and the scaled
length in 4 bytes (R154; the model's choice, log entry 19). -/
def State.counterBytes (s : State) : List Byte :=
  (s.head.counters.list ++ s.tail.counters.list ++ s.classifier.list ++ s.launch.counters.list
      ++ [s.boardUnit.staleAnswer, s.boardUnit.badBoardFrame] ++ s.showUnit.counters.list).flatMap (leBytes 4)
    ++ optBytes 5 (s.showUnit.capture.map (fun c => byteOf c.1.val :: leBytes 4 c.2))
    ++ s.calendar.counters.list.flatMap (leBytes 4)

/-- The state of an object, or none for an index outside its range (R172; objects numbered by Table 10.5). An
object without an index ignores the one given (log entry 23). -/
def State.objectBytes (s : State) (object index : Nat) : Option (List Byte) :=
  if object = 0 then some s.engineBytes
  else if object = 1 then some s.clock.bytes
  else if object = 2 then some s.launchBytes
  else if object = 3 then (s.runs[index]?).map s.runBytes
  else if object = 4 then (fin? 16 index).map s.figureBytes
  else if object = 5 then (fin? 32 index).map s.boardBytes
  else if object = 6 then (fin? 4 index).map s.groupBytes
  else if object = 7 then some s.calendarBytes
  else some s.counterBytes

/-! Parts (R172). -/

/-- The number of parts of up to 48 bytes (R172). -/
def partCount (d : List Byte) : Nat := (d.length + 47) / 48

/-- Part `p` of the content (R172). -/
def partOf (d : List Byte) (p : Nat) : List Byte := (d.drop (48 * p)).take 48

end Sys2Proof.Machine
end

