-- ==== Sys2Proof/Machine/Management.lean ====
section
/-! DEFINITION. The management unit: the judgement and effect of each request (R171, R172, R168 to R170 and the write
rules of each chapter), the responses (R20), and the meanings of the request rows. -/

namespace Sys2Proof.Machine

/-- The statuses of a response (R177's list after Table 10.5). -/
inductive Status where
  | ok
  | badRequest
  | badIndex
  | badValue
  | busy
  | wrongState
  deriving DecidableEq, Repr

def Status.code : Status → Nat
  | .ok => 0
  | .badRequest => 1
  | .badIndex => 2
  | .badValue => 3
  | .busy => 4
  | .wrongState => 5

/-- A reply: its status and, for a read that succeeds, the data after it. -/
structure Reply where
  status : Status
  data : List Byte
  deriving DecidableEq, Repr

/-- A reply without data. -/
def Reply.plain (t : Status) : Reply := { status := t, data := [] }

/-! Reads (R171, R172). -/

/-- A part of a content: parts total, part number and up to 48 bytes, or BAD_INDEX (R172). -/
def partReply (d : List Byte) (part : Nat) : Reply :=
  if part < partCount d then { status := .ok, data := [byteOf (partCount d), byteOf part] ++ partOf d part }
  else Reply.plain .badIndex

/-- Whether a table takes the selector on a read: 0, or 1 for the active bank (log entry 23). -/
def selectorReads (table selector : Nat) : Bool := selector = 0 || (table = 7 && selector = 1)

/-- READ_RECORD (R171). The index is judged before the selector, and the selector before the part number (the model's
choice, log entry 23). -/
def State.readRecord (s : State) (table selector index part : Nat) : Reply :=
  match s.recordBytes table selector index with
  | none => Reply.plain .badIndex
  | some d => if selectorReads table selector then partReply d part else Reply.plain .badValue

/-- READ_STATE (R172). -/
def State.readState (s : State) (object index part : Nat) : Reply :=
  match s.objectBytes object index with
  | none => Reply.plain .badIndex
  | some d => partReply d part

/-! Writes. -/

/-- The common judgement of a write: index, fields, busy rule (R171, steps 3 to 5). -/
def judgeWrite {α : Type} (n index : Nat) (r : Option α) (valid busy : Fin n → α → Bool)
    (store : Fin n → α → State) (s : State) : Status × State :=
  match fin? n index with
  | none => (.badIndex, s)
  | some i =>
    match r with
    | none => (.badValue, s)
    | some x =>
      if !valid i x then (.badValue, s)
      else if busy i x then (.busy, s)
      else (.ok, store i x)

/-- A write accepted in CONFIG alone (R171, step 2). -/
def inConfig (s : State) (w : Status × State) : Status × State := if s.running then (.wrongState, s) else w

/-- A bell record replaced, with its effect on the bell's state (R39, R41). -/
def State.storeBell (s : State) (i : Fin 48) (r : BellRec) : State :=
  let old := s.bellRecs[i]
  let b := s.bells[i]
  (s.setBellRec i r).setBell i { b with
    heat := min b.heat r.heatLimit,
    unavailable := b.unavailable && old.board = r.board && old.channel = r.channel }

/-- The motifs named in the nesting stacks of runs that are not FREE (R80). -/
def State.motifsInUse (s : State) : List (Fin 64) :=
  (indices 4).flatMap (fun k => if s.runs[k].state = .free then [] else s.runs[k].stack.map (fun f => f.motif))

/-- Whether a row lies within the range of a motif that a run is reading (R80). -/
def State.rowBusy (s : State) (r : Fin 1024) : Bool :=
  s.motifsInUse.any (fun m => s.motifDirs[m].firstRow ≤ r.val &&
    r.val < s.motifDirs[m].firstRow + s.motifDirs[m].rowCount)

/-- Whether a move entry lies within the move range of a show that is queued or played (R140). -/
def State.moveBusy (s : State) (i : Fin 512) : Bool :=
  (indices 32).any (fun w => s.showInUse w && s.shows[w].firstMove ≤ i.val &&
    i.val < s.shows[w].firstMove + s.shows[w].moveCount)

/-- Whether a figure record is not enabled, or names a board and channel of its own (R100). -/
def State.figureApart (s : State) (f : Fin 16) (r : FigRec) : Bool :=
  !r.enabled || (indices 16).all (fun g => g = f || !s.figRecs[g].enabled ||
    !(s.figRecs[g].board = r.board && s.figRecs[g].channel = r.channel))

/-- Whether a figure takes no write of its record (R101). -/
def State.figureBusy (s : State) (f : Fin 16) : Bool :=
  !(s.figs[f].state = .unhomed || s.figs[f].state = .idle || s.figs[f].clearable)

/-- Whether two figure records differ in a field that makes the figure UNHOMED (R101). -/
def FigRec.moved (r q : FigRec) : Bool :=
  r.enabled != q.enabled || r.board != q.board || r.channel != q.channel || r.kind != q.kind || r.span != q.span ||
    r.home != q.home || r.spans != q.spans

/-- A figure record replaced, with its effect on the figure (R101). The pass it starts is ZONE_GRANT. -/
def State.storeFigure (s : State) (f : Fin 16) (r : FigRec) : State :=
  let s1 := s.setFigRec f r
  if s.figRecs[f].moved r && s.figs[f].state != .unhomed then
    (s1.unhome f).modFig f (fun x => { x with flags := ChanReport.clear, needed := [] })
  else s1

/-- Whether an enabled board record has an address of its own (R126). -/
def State.boardApart (s : State) (b : Fin 32) (r : BoardRec) : Bool :=
  !r.enabled || (r.address != s.node && (indices 32).all (fun c => c = b || !s.boardRecs[c].enabled ||
    s.boardRecs[c].address != r.address))

/-- Whether two board records differ in enabled, node address or kind (R126). -/
def BoardRec.changed (r q : BoardRec) : Bool := r.enabled != q.enabled || r.address != q.address || r.kind != q.kind

/-- Whether the board holds any command, or a figure that names it holds admitted current (R126). -/
def State.boardBusy (s : State) (b : Fin 32) : Bool :=
  !s.boards[b].commands.isEmpty || (indices 16).any (fun f => s.figRecs[f].board = b && s.figs[f].admitted.isSome)

/-- A board record replaced, with its effect on the board's state (R126). -/
def State.storeBoard (s : State) (b : Fin 32) (r : BoardRec) : State :=
  let s1 := s.setBoardRec b r
  if s.boardRecs[b].changed r then s1.setBoard b BoardState.initial else s1

/-- Whether the group holds any admitted current (R136). -/
def State.groupBusy (s : State) (g : Fin 4) : Bool :=
  s.strikeAccount.any (fun a => a.group = g) || !(s.motorAccount g).isEmpty

/-- Whether the selector names the active bank. -/
def selectsActive (selector : Nat) : Bool := selector = 1

/-- WRITE_SCHEDULE, judged in the order of R155. -/
def State.writeSchedule (s : State) (selector : Nat) (item : ScheduleItem) : Status × State :=
  if selectsActive selector then (.wrongState, s)
  else if s.calendar.pendingSwitch.isSome then (.busy, s)
  else match item with
    | .badIndex => (.badIndex, s)
    | .entry i (some e) =>
      if selector = 0 then (.ok, s.modCalendar (fun c => c.modBank c.active.other
        (fun b => { b with entries := b.entries.set i.val e i.isLt })))
      else (.badValue, s)
    | .header (some h) =>
      if selector = 0 then (.ok, s.modCalendar (fun c => c.modBank c.active.other
        (fun b => { b with cycle := h.1, count := h.2 })))
      else (.badValue, s)
    | .entry _ none => (.badValue, s)
    | .header none => (.badValue, s)

/-! Counters (R172). -/

/-- A board's counters at 0 (R127). -/
def BoardState.clearCounters (t : BoardState) : BoardState :=
  { t with sent := 0, rejected := 0, timedOut := 0, statusTaken := 0 }

/-- A figure's counters at 0 (R102). -/
def Figure.clearCounters (x : Figure) : Figure :=
  { x with movesArrived := 0, movesFailed := 0, moveReplaced := 0, moveAbandoned := 0 }

/-- CLEAR_COUNTERS (R172, R76). -/
def State.clearAll (s : State) : State :=
  let s1 := (s.modHead (fun h => { h with counters := PortCounters.zero })).modTail
    (fun t => { t with counters := PortCounters.zero })
  let s2 := (s1.modClassifier (fun _ => ClassifierCounters.zero)).modClock
    (fun c => { c with beaconsAccepted := 0, badBeacon := 0, steps := 0 })
  let s3 := s2.modLaunch (fun l => { l with
    counters := { StrikeCounters.zero with accepted := s.held }, greatestLateness := 0 })
  let s4 := ((s3.modBoards BoardState.clearCounters).modBoardUnit
    (fun u => { u with staleAnswer := 0, badBoardFrame := 0 })).modFigs Figure.clearCounters
  (s4.modShowUnit (fun u => { u with counters := ShowCounters.zero, capture := none })).modCalendarCounters
    (fun _ => CalendarCounters.zero)

/-! Engine state (R168 to R170). -/

/-- The engine enters a state (R168). -/
def State.enterEngine (s : State) (e : EngineState) : State := s.modMgmt (fun m => { m with engine := e })

/-- ENGINE_RUN's effect in CONFIG: the derivation, the judgement of a head it brings, then the homings (R169, R145). -/
def State.startEngine (s : State) : State :=
  let s1 := s.judgeAfter (s.enterEngine .run).derive
  if s.settings.homeOnRun then s1.homeAll else s1

/-- ENGINE_STOP's effect in RUN (R169). The runs are cancelled before the figures are brought to rest, in the order in
which R169 names them (the model's order, log entry 39). -/
def State.stopEngine (s : State) : State :=
  (((((s.emptyShows).cancelAll .engineStop).purgeAll).restFigures).withdrawAll).enterEngine .config

/-- The launch queue at ENGINE_RESET: purged, then its counters and greatest lateness at 0 (R74). -/
def State.resetLaunch (s : State) : State :=
  s.purgeAll.modLaunch (fun l => { l with counters := StrikeCounters.zero, greatestLateness := 0 })

/-- The boards and the supply accounts at ENGINE_RESET, before the reset stops (R127, R136). -/
def State.resetBoards (s : State) : State :=
  (((s.modTail (fun t => { t with commandQueue := [] })).modBoards (fun _ => BoardState.initial)).modBoardUnit
    (fun u => { u with staleAnswer := 0, badBoardFrame := 0 })).setStrikeAccount []

/-- ENGINE_RESET's effect (R170). -/
def State.resetEngine (s : State) : State :=
  let s1 := (s.resetLaunch.modRuns (fun _ => Run.initial)).modShowUnit (fun _ => ShowUnit.initial)
  let s2 := s1.modCalendarCounters (fun _ => CalendarCounters.zero)
  let s3 := s2.setBells (Vector.replicate 48 (BellState.initial s.now))
  let s4 := (s3.modFigs (fun _ => Figure.initial)).setZones (fun _ => none)
  (s4.resetBoards.resetStops).enterEngine .config

/-! Season switches (R164, R166). -/

/-- SWITCH_REFUSED (R164). -/
def State.refuseSwitch (s : State) (arg1 arg2 : Int) : State :=
  (s.modCalendarCounters (fun c => { c with switchRefused := inc32 c.switchRefused })).raise .switchRefused arg1 arg2

/-- SEASON_SWITCH, judged in the order of R164. -/
def State.seasonSwitch (s : State) (base : Nat) : Status × State :=
  if s.calendar.pendingSwitch.isSome then (.busy, s)
  else match s.calendar.shadowBank.failure with
    | some i => (.badValue, s.refuseSwitch 1 i)
    | none =>
      if s.now < base then (.ok, s.modCalendar (fun c => { c with pendingSwitch := some (base : Int) }))
      else
        let n := (s.now - base) / s.calendar.shadowBank.cycle
        if 65535 < n then (.badValue, s.refuseSwitch 2 0) else (.ok, s.takeSwitch base n)

/-- SEASON_CANCEL (R166). -/
def State.seasonCancel (s : State) : Status × State :=
  if s.calendar.pendingSwitch.isSome then (.ok, s.modCalendar (fun c => { c with pendingSwitch := none }))
  else (.wrongState, s)

/-! Figures (R119, R120). -/

/-- FIGURE_HOME (R120). -/
def State.homeFigure (s : State) (figure : Nat) : Status × State :=
  if s.running = false then (.wrongState, s)
  else match fin? 16 figure with
    | none => (.badIndex, s)
    | some f =>
      if s.canHome f = false then (.wrongState, s)
      else if s.figs[f].owner.isSome then (.busy, s)
      else (.ok, s.beginHoming f)

/-- FAULT_CLEAR over the figures named, in order. Each figure enters UNHOMED and has the head judged before the next is
cleared (R119, R145; log entry 36). -/
def State.clearFigures (s : State) (fs : List (Fin 16)) : Status × State :=
  if fs.any (fun f => s.figs[f].clearable) then
    (.ok, (fs.filter (fun f => s.figs[f].clearable)).foldl (fun t f => t.judgeAfter (t.clearFigure f)) s)
  else if fs.any (fun f => s.figs[f].state = .fault) then (.busy, s)
  else (.wrongState, s)

/-- The figures whose records name the board, in index order (log entry 45). -/
def State.figuresOf (s : State) (b : Fin 32) : List (Fin 16) := (indices 16).filter (fun f => s.figRecs[f].board = b)

/-- FAULT_CLEAR for one figure (scope 0) or every figure of one board (scope 1) (R119, Table 10.5). -/
def State.faultClear (s : State) (scope index : Nat) : Status × State :=
  if s.running = false then (.wrongState, s)
  else if scope = 0 then
    match fin? 16 index with
    | none => (.badIndex, s)
    | some f => s.clearFigures [f]
  else if scope = 1 then
    match fin? 32 index with
    | none => (.badIndex, s)
    | some b => s.clearFigures (s.figuresOf b)
  else (.badValue, s)

/-! The request carried out. -/

/-- A request with no data in its reply. -/
def plainReply (w : Status × State) : Reply × State := (Reply.plain w.1, w.2)

/-- No further check, and no busy rule. -/
def always {n : Nat} {α : Type} (_ : Fin n) (_ : α) : Bool := true
def never {n : Nat} {α : Type} (_ : Fin n) (_ : α) : Bool := false

/-- A request carried out, with its reply (R171). -/
def carryOut (r : Request) (s : State) : Reply × State :=
  match r with
  | .readRecord table selector index part => (s.readRecord table selector index part, s)
  | .writeParse i x => plainReply (judgeWrite 48 i x always never s.setParse s)
  | .writeBell i x => plainReply (judgeWrite 48 i x always never s.storeBell s)
  | .writeMotifDir i x => plainReply (judgeWrite 64 i x always (fun m _ => s.motifsInUse.contains m) s.setMotifDir s)
  | .writeMotifRow i x => plainReply (judgeWrite 1024 i x always (fun r _ => s.rowBusy r) s.setRow s)
  | .writeShow i x => plainReply (judgeWrite 32 i x always (fun w _ => s.showInUse w) s.setShow s)
  | .writeMove i x => plainReply (judgeWrite 512 i x always (fun m _ => s.moveBusy m) s.setMove s)
  | .writeVector i x => plainReply (judgeWrite 16 i x always never
      (fun v w => s.modCalendar (fun c => { c with vectors := c.vectors.set v.val w v.isLt })) s)
  | .writeSchedule selector item => plainReply (s.writeSchedule selector item)
  | .writeFigure i x => plainReply (judgeWrite 16 i x s.figureApart (fun f _ => s.figureBusy f)
      (fun f r => s.judgeAfter (s.storeFigure f r)) s)
  | .writeBoard i x => plainReply (inConfig s (judgeWrite 32 i x s.boardApart
      (fun b r => s.boardRecs[b].changed r && s.boardBusy b) s.storeBoard s))
  | .writeGroup i x => plainReply (inConfig s (judgeWrite 4 i x always (fun g _ => s.groupBusy g) s.setGroup s))
  | .writeSettings i x => plainReply (inConfig s (judgeWrite 1 i x always never
      (fun _ t => s.modMgmt (fun m => { m with settings := t })) s))
  | .readState object index part => (s.readState object index part, s)
  | .clearCounters => (Reply.plain .ok, s.clearAll)
  | .engineRun => if s.running then (Reply.plain .wrongState, s) else (Reply.plain .ok, s.startEngine)
  | .engineStop => if s.running then (Reply.plain .ok, s.stopEngine) else (Reply.plain .wrongState, s)
  | .engineReset => (Reply.plain .ok, s.resetEngine)
  | .seasonSwitch base => plainReply (s.seasonSwitch base)
  | .seasonCancel => plainReply s.seasonCancel
  | .figureHome f => plainReply (s.homeFigure f)
  | .faultClear scope index => plainReply (s.faultClear scope index)
  | .setEventMask mask => (Reply.plain .ok, s.modMgmt (fun m => { m with mask := mask }))

/-! Responses (R20, R171). -/

/-- The tag and the code a response echoes; one the payload does not hold is a free value (log entry 8). -/
def State.echoed (s : State) (p : List Byte) : Byte × Byte :=
  match p with
  | [] => (Config.missingTag s.freeCount, Config.missingCode s.freeCount)
  | [t] => (t, Config.missingCode s.freeCount)
  | t :: c :: _ => (t, c)

/-- The response report to the request frame `f` (R17, R171, Table 10.5). -/
def State.responseFrame (s : State) (f : List Byte) (r : Reply) : List Byte :=
  let e := s.echoed (framePayload f)
  formFrame (frameSrc f) s.node kindReport ([0, e.1, e.2, byteOf r.status.code] ++ r.data)

/-- RESPONSE_PLACE: a response joins the head report queue, or becomes the pending response (R20). -/
def State.placeResponse (s : State) (r : List Byte) : State :=
  if s.head.reportQueue.length < 8 then
    s.modHead (fun h => { h with reportQueue := h.reportQueue ++ [{ isEvent := false, bytes := r }] })
  else s.modHead (fun h => { h with pendingResponse := some r })

/-- MGMT_OVERRUN rises by one (R20). -/
def State.overrun (s : State) : State := s.modClassifier (fun c => { c with mgmtOverrun := inc32 c.mgmtOverrun })

/-- The request in a payload is carried out; one that cannot be read is answered BAD_REQUEST (R171). -/
def State.answerRequest (s : State) (p : List Byte) : Reply × State :=
  match readRequest p with
  | none => (Reply.plain .badRequest, s)
  | some r => carryOut r s

/-- The state after an echo that drew a free value. -/
def State.afterEcho (s : State) (p : List Byte) : State := if p.length < 2 then s.drawFree else s

/-- A MGMT_REQUEST that reaches the management unit (R20, R171). -/
def State.takeRequest (s : State) (f : List Byte) : State :=
  if s.head.pendingResponse.isSome then s.overrun
  else
    let a := s.answerRequest (framePayload f)
    (a.2.placeResponse (s.responseFrame f a.1)).afterEcho (framePayload f)

/-- A request frame of a row reaches the management unit by the fixed path (R15). -/
def State.requestFrame (s : State) (f : List Byte) (r : RequestRow) : State :=
  if s.fixedPath .head f .management && fitsRequest f r then s.takeRequest f else s

/-! The meanings. -/

/-- READ_RECORD (R171). -/
def execReadRecord (f : List Byte) (s : State) : Host.Outcome State Fault Refusal := .next (s.requestFrame f .readRecord)

/-- WRITE_PARSE (R25). -/
def execWriteParse (f : List Byte) (s : State) : Host.Outcome State Fault Refusal := .next (s.requestFrame f .writeParse)

/-- WRITE_BELL (R39). -/
def execWriteBell (f : List Byte) (s : State) : Host.Outcome State Fault Refusal := .next (s.requestFrame f .writeBell)

/-- WRITE_MOTIF_DIR (R78). -/
def execWriteMotifDir (f : List Byte) (s : State) : Host.Outcome State Fault Refusal :=
  .next (s.requestFrame f .writeMotifDir)

/-- WRITE_MOTIF_ROW (R79). -/
def execWriteMotifRow (f : List Byte) (s : State) : Host.Outcome State Fault Refusal :=
  .next (s.requestFrame f .writeMotifRow)

/-- WRITE_SHOW (R139). -/
def execWriteShow (f : List Byte) (s : State) : Host.Outcome State Fault Refusal := .next (s.requestFrame f .writeShow)

/-- WRITE_MOVE (R140). -/
def execWriteMove (f : List Byte) (s : State) : Host.Outcome State Fault Refusal := .next (s.requestFrame f .writeMove)

/-- WRITE_VECTOR (R156). -/
def execWriteVector (f : List Byte) (s : State) : Host.Outcome State Fault Refusal :=
  .next (s.requestFrame f .writeVector)

/-- WRITE_SCHEDULE (R155). -/
def execWriteSchedule (f : List Byte) (s : State) : Host.Outcome State Fault Refusal :=
  .next (s.requestFrame f .writeSchedule)

/-- WRITE_FIGURE (R100). -/
def execWriteFigure (f : List Byte) (s : State) : Host.Outcome State Fault Refusal :=
  .next (s.requestFrame f .writeFigure)

/-- WRITE_BOARD (R126). -/
def execWriteBoard (f : List Byte) (s : State) : Host.Outcome State Fault Refusal := .next (s.requestFrame f .writeBoard)

/-- WRITE_GROUP (R136). -/
def execWriteGroup (f : List Byte) (s : State) : Host.Outcome State Fault Refusal := .next (s.requestFrame f .writeGroup)

/-- WRITE_SETTINGS (R171). -/
def execWriteSettings (f : List Byte) (s : State) : Host.Outcome State Fault Refusal :=
  .next (s.requestFrame f .writeSettings)

/-- READ_STATE (R172). -/
def execReadState (f : List Byte) (s : State) : Host.Outcome State Fault Refusal := .next (s.requestFrame f .readState)

/-- CLEAR_COUNTERS (R172). -/
def execClearCounters (f : List Byte) (s : State) : Host.Outcome State Fault Refusal :=
  .next (s.requestFrame f .clearCounters)

/-- ENGINE_RUN (R169). -/
def execEngineRun (f : List Byte) (s : State) : Host.Outcome State Fault Refusal := .next (s.requestFrame f .engineRun)

/-- ENGINE_STOP (R169). -/
def execEngineStop (f : List Byte) (s : State) : Host.Outcome State Fault Refusal := .next (s.requestFrame f .engineStop)

/-- ENGINE_RESET (R170). -/
def execEngineReset (f : List Byte) (s : State) : Host.Outcome State Fault Refusal :=
  .next (s.requestFrame f .engineReset)

/-- SEASON_SWITCH (R164). -/
def execSeasonSwitch (f : List Byte) (s : State) : Host.Outcome State Fault Refusal :=
  .next (s.requestFrame f .seasonSwitch)

/-- SEASON_CANCEL (R166). -/
def execSeasonCancel (f : List Byte) (s : State) : Host.Outcome State Fault Refusal :=
  .next (s.requestFrame f .seasonCancel)

/-- FIGURE_HOME (R120). -/
def execFigureHome (f : List Byte) (s : State) : Host.Outcome State Fault Refusal := .next (s.requestFrame f .figureHome)

/-- FAULT_CLEAR (R119). -/
def execFaultClear (f : List Byte) (s : State) : Host.Outcome State Fault Refusal := .next (s.requestFrame f .faultClear)

/-- SET_EVENT_MASK (R172). -/
def execSetEventMask (f : List Byte) (s : State) : Host.Outcome State Fault Refusal :=
  .next (s.requestFrame f .setEventMask)

/-- UNKNOWN_REQUEST (R171). -/
def execUnknownRequest (f : List Byte) (s : State) : Host.Outcome State Fault Refusal :=
  .next (s.requestFrame f .unreadable)

end Sys2Proof.Machine
end

