-- ==== Sys2Proof/Machine/Link.lean ====
section
/-! DEFINITION. The link: reception (R12, R15), the classifier (R26 to R35), the ports (R18 to R22), power-on (R14,
R170), and the meanings of their rows. -/

namespace Sys2Proof.Machine

/-! Reception. -/

/-- A frame that fails a check of R12 is dropped and counted at its port. -/
def State.dropMalformed (s : State) (p : Port) : State :=
  s.modPortCounters p (fun c => { c with malformed := inc32 c.malformed })

def State.dropCrc (s : State) (p : Port) : State :=
  s.modPortCounters p (fun c => { c with crcError := inc32 c.crcError })

/-- UNKNOWN_KIND rises by one (R15, R34). -/
def State.unknownKind (s : State) : State := s.modClassifier (fun c => { c with unknownKind := inc32 c.unknownKind })

/-! The walk (R27 to R30). -/

/-- The inspection window: the first 32 bytes, least significant byte first (R27). -/
def window (f : List Byte) : Nat := leNat (f.take 32)

/-- The field of an entry: the window shifted right by the rightmost bit and cut to its width (R27). -/
def fieldOf (e : ParseEntry) (f : List Byte) : Nat := window f / 2 ^ e.rightmost % 2 ^ e.width

/-- Whether a selected bit lies beyond the frame or the window (R27). -/
def beyondFrame (e : ParseEntry) (f : List Byte) : Bool :=
  e.width != 0 && 8 * min f.length 32 < e.rightmost + e.width

/-- The test of an entry on a field (R28). -/
def ParseEntry.holds (e : ParseEntry) (field : Nat) : Bool :=
  let m := (BitVec.ofNat 16 field &&& e.mask).toNat
  match e.comparison with
  | .equal => m = e.matchValue.toNat
  | .notEqual => m != e.matchValue.toNat
  | .atMost => m ≤ e.matchValue.toNat
  | .atLeast => e.matchValue.toNat ≤ m

/-- Whether a direction filter matches a frame that arrived at the port (R29). -/
def DirFilter.matches (d : DirFilter) (p : Port) : Bool :=
  match d, p with
  | .outbound, .head => true
  | .outbound, .tail => false
  | .inbound, .head => false
  | .inbound, .tail => true
  | .both, _ => true

/-- One entry examined: its outcome, and whether OFFSET_BEYOND rises (R27 to R29). -/
def examine (e : ParseEntry) (p : Port) (f : List Byte) : ParseOutcome × Bool :=
  if !e.filter.matches p then (e.onFalse, false)
  else if beyondFrame e f then (e.onFalse, true)
  else (if e.holds (fieldOf e f) then e.onTrue else e.onFalse, false)

/-- OFFSET_BEYOND after an entry. -/
def ClassifierCounters.offset (c : ClassifierCounters) (up : Bool) : ClassifierCounters :=
  if up then { c with offsetBeyond := inc32 c.offsetBeyond } else c

/-- FALLBACK rises by one (R30). -/
def ClassifierCounters.fellBack (c : ClassifierCounters) : ClassifierCounters := { c with fallback := inc32 c.fallback }

/-- The walk from entry `i` with `k + 1` entries still allowed: the verdict and the counters (R29, R30). -/
def State.walkFrom (s : State) (p : Port) (f : List Byte) : Nat → Nat → ClassifierCounters → Verdict × ClassifierCounters
  | 0, _, c => (s.settings.fallback, c.fellBack)
  | k + 1, i, c =>
    match s.parse[i]? with
    | none => (s.settings.fallback, c.fellBack)
    | some e =>
      let x := examine e p f
      match x.1 with
      | .verdict v => (v, c.offset x.2)
      | .next n =>
        if s.settings.liveEntries ≤ n then
          (s.settings.fallback, { (c.offset x.2).fellBack with liveExceeded := inc32 (c.offset x.2).liveExceeded })
        else if k = 0 then
          (s.settings.fallback, { (c.offset x.2).fellBack with stepExceeded := inc32 (c.offset x.2).stepExceeded })
        else s.walkFrom p f k n (c.offset x.2)

/-- The walk of a frame: its verdict and the classifier counters after it (R29, R30). -/
def State.walk (s : State) (p : Port) (f : List Byte) : Verdict × ClassifierCounters :=
  let w := if s.settings.liveEntries = 0 then (s.settings.fallback, s.classifier.fellBack)
           else s.walkFrom p f s.settings.stepLimit 0 s.classifier
  (w.1, { w.2 with classified := inc32 w.2.classified })

/-! Verdicts (R31 to R35). -/

/-- FORWARD: the frame joins the pass queue of the opposite port, or is dropped with PASS_OVERRUN (R23). -/
def State.forwardFrame (s : State) (p : Port) (f : List Byte) : State :=
  match p with
  | .head =>
    if s.tail.passQueue.length < 8 then s.modTail (fun t => { t with passQueue := t.passQueue ++ [f] })
    else s.modPortCounters .tail (fun c => { c with passOverrun := inc32 c.passOverrun })
  | .tail =>
    if s.head.passQueue.length < 8 then s.modHead (fun h => { h with passQueue := h.passQueue ++ [f] })
    else s.modPortCounters .head (fun c => { c with passOverrun := inc32 c.passOverrun })

/-- ACTION_MISDIRECTED rises by one (R35). -/
def State.misdirected (s : State) : State :=
  s.modClassifier (fun c => { c with actionMisdirected := inc32 c.actionMisdirected })

/-- BOARD_ACTION: the board unit takes an answer or a status by its KIND (R34). -/
def State.boardAction (s : State) (f : List Byte) : State :=
  if frameKind f = kindBoardAnswer then s.takeAnswer (frameSrc f) (framePayload f)
  else if frameKind f = kindBoardStatus then s.takeStatus (frameSrc f) (framePayload f)
  else s.unknownKind

/-- The action of a verdict, if it suits the frame's direction (R32 to R35). -/
def State.actOn (s : State) (a : Action) (p : Port) (f : List Byte) : State :=
  match a, p with
  | .none, _ => s
  | .cue, .head => s.takeCue (framePayload f)
  | .beacon, .head => s.takeBeacon (framePayload f)
  | .quiet level hold, .head => s.imposeQuiet level hold true
  | .board, .tail => s.boardAction f
  | .cue, .tail => s.misdirected
  | .beacon, .tail => s.misdirected
  | .quiet _ _, .tail => s.misdirected
  | .board, .head => s.misdirected

/-- VERDICT_EXECUTE (R31). -/
def State.carryVerdict (s : State) (v : Verdict) (p : Port) (f : List Byte) : State :=
  if v.action = .none ∧ v.forward = false then s.modClassifier (fun c => { c with dropped := inc32 c.dropped })
  else
    let s1 := s.actOn v.action p f
    if v.forward then s1.forwardFrame p f else s1

/-- CLASSIFIER_WALK: the frame is walked and its verdict carried out (R29, R31). -/
def State.classify (s : State) (p : Port) (f : List Byte) : State :=
  let w := s.walk p f
  (s.modClassifier (fun _ => w.2)).carryVerdict w.1 p f

/-! The tail port (R18). -/

/-- The command frames that are ready to send with their commands, oldest first (R18, R129). -/
def State.readyCommand (s : State) : Option (CommandFrame × Command) :=
  match s.tail.commandQueue.find? s.commandReady with
  | none => none
  | some f => (s.boards[f.board].command? f.id).map (fun c => (f, c))

/-- The oldest frame of the outbound pass queue starts. -/
def State.startPass (s : State) : State :=
  match s.tail.passQueue with
  | [] => s
  | f :: fs => s.modTail (fun t => { t with passQueue := fs, sending := some f })

/-- TAIL_FRAME_START: the choice of a free tail port (R18). -/
def State.chooseTail (s : State) : State :=
  match s.tail.strikeQueue with
  | f :: fs => s.modTail (fun t => { t with strikeQueue := fs, sending := some f })
  | [] =>
    if s.guardHolds then s
    else match s.readyCommand with
      | some (f, c) => s.sendCommand f c
      | none => s.startPass

/-- TAIL_PORT_FREE: the frame in transmission has ended and the port chooses (R18; log entry 6). -/
def State.tailFree (s : State) : State := State.chooseTail (s.modTail (fun t => { t with sending := none }))

/-! The head port (R20 to R22). -/

/-- A list without its first element that `p` picks. -/
def dropFirst {α : Type} (p : α → Bool) : List α → List α
  | [] => []
  | x :: xs => if p x then xs else x :: dropFirst p xs

/-- A report leaves the head report queue and starts. -/
def State.startReport (s : State) (isEvent : Bool) (r : ReportFrame) : State :=
  s.modHead (fun h => { h with reportQueue := dropFirst (fun x => x.isEvent = isEvent) h.reportQueue,
                               sending := some r.bytes })

/-- The turn passes (R22). -/
def State.turnTo (s : State) (t : Turn) : State := s.modHead (fun h => { h with turn := t })

/-- The oldest frame of the inbound pass queue starts, and the turn passes to EVENTS (R22). -/
def State.startInbound (s : State) : State :=
  match s.head.passQueue with
  | [] => s
  | f :: fs => (s.modHead (fun h => { h with passQueue := fs, sending := some f })).turnTo .events

/-- HEAD_FRAME_START: the choice of a free head port (R22). -/
def State.chooseHead (s : State) : State :=
  match s.head.reportQueue.find? (fun r => r.isEvent = false) with
  | some r => s.startReport false r
  | none =>
    match s.head.reportQueue.find? (fun r => r.isEvent = true) with
    | none => s.startInbound
    | some r =>
      if s.head.passQueue = [] ∨ s.head.turn = .events then (s.startReport true r).turnTo .pass else s.startInbound

/-- HEAD_PORT_FREE: the frame in transmission has ended and the port chooses (R22; log entry 6). -/
def State.headFree (s : State) : State := State.chooseHead (s.modHead (fun h => { h with sending := none }))

/-- PENDING_RESPONSE_PLACE: the pending response takes a free place (R20). -/
def State.placePending (s : State) : State :=
  match s.head.pendingResponse with
  | none => s
  | some r =>
    if s.head.reportQueue.length < 8 then
      s.modHead (fun h => { h with reportQueue := h.reportQueue ++ [{ isEvent := false, bytes := r }],
                                   pendingResponse := none })
    else s

/-- An event record in a report: class, code, time, arg1, arg2 (Table 10.5). -/
def EventRecord.bytes (e : EventRecord) : List Byte :=
  [byteOf e.kind.cls.val, byteOf e.kind.code] ++ leBytes 4 e.time ++ leInt 2 e.arg1 ++ leInt 2 e.arg2

/-- The payload of an event report (Table 10.5). -/
def eventPayload (lost : Nat) (es : List EventRecord) : List Byte :=
  [1, byteOf lost, byteOf es.length] ++ es.flatMap EventRecord.bytes

/-- Whether an event report can be formed: the four conditions of R21. -/
def State.canReport (s : State) : Bool :=
  !s.mgmt.events.isEmpty && s.head.reportQueue.length < 8 && s.head.pendingResponse.isNone
    && s.head.reportQueue.all (fun r => !r.isEvent)

/-- EVENT_REPORT_FORM: up to 4 of the oldest records leave in one event report, with the lost count (R21, R175). -/
def State.formReport (s : State) : State :=
  if s.canReport then
    let f := formFrame s.settings.reportDest s.node kindReport (eventPayload s.mgmt.lost (s.mgmt.events.take 4))
    (s.modHead (fun h => { h with reportQueue := h.reportQueue ++ [{ isEvent := true, bytes := f }] })).modMgmt
      (fun m => { m with events := m.events.drop 4, lost := 0 })
  else s

/-! Power-on (R14, R170). -/

/-- STRAP_SAMPLE: the node address the straps give (R14). -/
def strapAddress (straps : Byte) : Byte := if straps = 255 then 254 else straps

/-- POWER_ON: every piece of state takes its power-on value (R170). The queue of waiting commands and the count
of free values are the model's and stay. -/
def State.powerOn (s : State) (straps : Byte) : State :=
  { State.poweredOn (strapAddress straps) with freeCount := s.freeCount, pending := s.pending }

/-! The meanings. -/

/-- POWER_ON (R170). -/
def execPowerOn (straps : Byte) (s : State) : Host.Outcome State Fault Refusal := .next (s.powerOn straps)

/-- MALFORMED (R12). -/
def execMalformed (p : Port) (f : List Byte) (s : State) : Host.Outcome State Fault Refusal :=
  .next (if reception f = .malformed then s.dropMalformed p else s)

/-- CRC_ERROR (R12). -/
def execCrcError (p : Port) (f : List Byte) (s : State) : Host.Outcome State Fault Refusal :=
  .next (if reception f = .crcError then s.dropCrc p else s)

/-- UNKNOWN_KIND (R15). -/
def execUnknownKind (p : Port) (f : List Byte) (s : State) : Host.Outcome State Fault Refusal :=
  .next (if reception f = .arrived ∧ frameDest f = s.node ∧ fixedBlock p (frameKind f) = none then s.unknownKind else s)

/-- CLASSIFIER_WALK (R29). -/
def execClassifierWalk (p : Port) (f : List Byte) (s : State) : Host.Outcome State Fault Refusal :=
  .next (if reception f = .arrived ∧ frameDest f ≠ s.node then s.classify p f else s)

/-- TAIL_PORT_FREE (R18). -/
def execTailPortFree (s : State) : Host.Outcome State Fault Refusal := .next s.tailFree

/-- HEAD_PORT_FREE (R22). -/
def execHeadPortFree (s : State) : Host.Outcome State Fault Refusal := .next s.headFree

/-- PENDING_RESPONSE_PLACE (R20). -/
def execPendingResponsePlace (s : State) : Host.Outcome State Fault Refusal := .next s.placePending

/-- EVENT_REPORT_FORM (R21). -/
def execEventReportForm (s : State) : Host.Outcome State Fault Refusal := .next s.formReport

end Sys2Proof.Machine
end

