-- ==== Sys2Proof/Machine/Dispatch.lean ====
section
/-! DEFINITION. One arm for each row of spec/opcode_table.json: the command's meaning. -/

namespace Sys2Proof.Machine

def exec (i : Instr) (s : State) : Host.Outcome State Fault Refusal :=
  match i with
  | .powerOn straps => Sys2Proof.Machine.execPowerOn straps s
  | .localMillisecond => Sys2Proof.Machine.execLocalMillisecond s
  | .malformed port frame => Sys2Proof.Machine.execMalformed port frame s
  | .crcError port frame => Sys2Proof.Machine.execCrcError port frame s
  | .unknownKind port frame => Sys2Proof.Machine.execUnknownKind port frame s
  | .classifierWalk port frame => Sys2Proof.Machine.execClassifierWalk port frame s
  | .beacon frame => Sys2Proof.Machine.execBeacon frame s
  | .beaconLost => Sys2Proof.Machine.execBeaconLost s
  | .quiet frame => Sys2Proof.Machine.execQuiet frame s
  | .quietExpiry => Sys2Proof.Machine.execQuietExpiry s
  | .strikeCue frame => Sys2Proof.Machine.execStrikeCue frame s
  | .motifPlay frame => Sys2Proof.Machine.execMotifPlay frame s
  | .showStart frame => Sys2Proof.Machine.execShowStart frame s
  | .showStop frame => Sys2Proof.Machine.execShowStop frame s
  | .figureGo frame => Sys2Proof.Machine.execFigureGo frame s
  | .allStop frame => Sys2Proof.Machine.execAllStop frame s
  | .unknownCueType frame => Sys2Proof.Machine.execUnknownCueType frame s
  | .readRecord frame => Sys2Proof.Machine.execReadRecord frame s
  | .writeParse frame => Sys2Proof.Machine.execWriteParse frame s
  | .writeBell frame => Sys2Proof.Machine.execWriteBell frame s
  | .writeMotifDir frame => Sys2Proof.Machine.execWriteMotifDir frame s
  | .writeMotifRow frame => Sys2Proof.Machine.execWriteMotifRow frame s
  | .writeShow frame => Sys2Proof.Machine.execWriteShow frame s
  | .writeMove frame => Sys2Proof.Machine.execWriteMove frame s
  | .writeVector frame => Sys2Proof.Machine.execWriteVector frame s
  | .writeSchedule frame => Sys2Proof.Machine.execWriteSchedule frame s
  | .writeFigure frame => Sys2Proof.Machine.execWriteFigure frame s
  | .writeBoard frame => Sys2Proof.Machine.execWriteBoard frame s
  | .writeGroup frame => Sys2Proof.Machine.execWriteGroup frame s
  | .writeSettings frame => Sys2Proof.Machine.execWriteSettings frame s
  | .readState frame => Sys2Proof.Machine.execReadState frame s
  | .clearCounters frame => Sys2Proof.Machine.execClearCounters frame s
  | .engineRun frame => Sys2Proof.Machine.execEngineRun frame s
  | .engineStop frame => Sys2Proof.Machine.execEngineStop frame s
  | .engineReset frame => Sys2Proof.Machine.execEngineReset frame s
  | .seasonSwitch frame => Sys2Proof.Machine.execSeasonSwitch frame s
  | .seasonCancel frame => Sys2Proof.Machine.execSeasonCancel frame s
  | .figureHome frame => Sys2Proof.Machine.execFigureHome frame s
  | .faultClear frame => Sys2Proof.Machine.execFaultClear frame s
  | .setEventMask frame => Sys2Proof.Machine.execSetEventMask frame s
  | .unknownRequest frame => Sys2Proof.Machine.execUnknownRequest frame s
  | .boardAnswer frame => Sys2Proof.Machine.execBoardAnswer frame s
  | .boardStatus frame => Sys2Proof.Machine.execBoardStatus frame s
  | .fireHeadEntry => Sys2Proof.Machine.execFireHeadEntry s
  | .strikeWindowEnd => Sys2Proof.Machine.execStrikeWindowEnd s
  | .expansionStep slot => Sys2Proof.Machine.execExpansionStep slot s
  | .runPauseResume slot => Sys2Proof.Machine.execRunPauseResume slot s
  | .runComplete slot => Sys2Proof.Machine.execRunComplete slot s
  | .barrierMarkTime slot => Sys2Proof.Machine.execBarrierMarkTime slot s
  | .barrierClear slot => Sys2Proof.Machine.execBarrierClear slot s
  | .holdDeadline slot => Sys2Proof.Machine.execHoldDeadline slot s
  | .moveStartTime slot => Sys2Proof.Machine.execMoveStartTime slot s
  | .showAdmission => Sys2Proof.Machine.execShowAdmission s
  | .entryLeadJudge => Sys2Proof.Machine.execEntryLeadJudge s
  | .zoneGrant => Sys2Proof.Machine.execZoneGrant s
  | .figureSupplyAdmit figure => Sys2Proof.Machine.execFigureSupplyAdmit figure s
  | .zoneWaitDeadline figure => Sys2Proof.Machine.execZoneWaitDeadline figure s
  | .travelDeadline figure => Sys2Proof.Machine.execTravelDeadline figure s
  | .homingDeadline figure => Sys2Proof.Machine.execHomingDeadline figure s
  | .answerTimeout board => Sys2Proof.Machine.execAnswerTimeout board s
  | .rejectHoldoffEnd board => Sys2Proof.Machine.execRejectHoldoffEnd board s
  | .statusDeadline board => Sys2Proof.Machine.execStatusDeadline board s
  | .commandQueuePlace => Sys2Proof.Machine.execCommandQueuePlace s
  | .cycleRestart => Sys2Proof.Machine.execCycleRestart s
  | .entryTime => Sys2Proof.Machine.execEntryTime s
  | .triggerTime => Sys2Proof.Machine.execTriggerTime s
  | .pendingSwitchBase => Sys2Proof.Machine.execPendingSwitchBase s
  | .tailPortFree => Sys2Proof.Machine.execTailPortFree s
  | .headPortFree => Sys2Proof.Machine.execHeadPortFree s
  | .pendingResponsePlace => Sys2Proof.Machine.execPendingResponsePlace s
  | .eventReportForm => Sys2Proof.Machine.execEventReportForm s

end Sys2Proof.Machine
end

