-- ==== Sys2Proof/Machine/Step.lean ====
section
/-! DEFINITION. One step of the engine: the command at the front of the queue is taken. Commands come from one
queue, first in, first out; an engine with an empty queue idles (log entry 3). -/

namespace Sys2Proof.Machine

/-- The state without the front of its queue of waiting commands. -/
def State.withPending (s : State) (q : List Instr) : State := { s with pending := q }

/-- One step: the front command of the queue has its effect on the state with the queue's rest; with an empty
queue the engine idles. -/
def step (s : State) : Host.Outcome State Fault Refusal :=
  match s.pending with
  | [] => .next s
  | c :: rest => exec c (s.withPending rest)

/-- The state with the command that a table word spells at the front of its queue; unchanged where the word
spells none. -/
def State.withFetchWord (s : State) (nbits w : Nat) : State :=
  match decodeTableWord nbits w with
  | some c => s.withPending (c :: s.pending)
  | none => s

end Sys2Proof.Machine
end

