-- ==== Sys2Proof/Safety.lean ====
section
/-! DEFINITION. What claims about the engine are stated with: the invariants that every command keeps, the parts of the
state that only a write changes, and the response to a request. -/

namespace Sys2Proof.Machine

/-! Invariants. -/

/-- Every queue is within its capacity (spec/02, Table 2.3; R20, R21, R61, R141, R175). -/
def State.withinCapacity (s : State) : Prop :=
  s.head.passQueue.length ≤ 8 ∧ s.head.reportQueue.length ≤ 8 ∧ s.tail.strikeQueue.length ≤ 8 ∧
  s.tail.commandQueue.length ≤ 16 ∧ s.tail.passQueue.length ≤ 8 ∧ s.mgmt.events.length ≤ 32 ∧ s.mgmt.lost ≤ 255 ∧
  s.showUnit.queue.length ≤ 8 ∧ s.held ≤ 256

/-- The clock holds what spec/01 lets it hold: show time within 48 bits, freeze remaining 0 to 2, a loss deadline in
SET and in no other state, and the last difference within its clamp (R1, R3, R4, R6, R9, Table 1.1). -/
def State.clockLegal (s : State) : Prop :=
  0 ≤ s.clock.time ∧ s.clock.time < timeTop ∧ s.clock.freeze ≤ 2 ∧
  (s.clock.lossDeadline.isSome ↔ s.clock.state = .set) ∧ -32767 ≤ s.clock.lastDiff ∧ s.clock.lastDiff ≤ 32767

/-- The waiting list is in order of fire time (R60). -/
def State.inFireOrder (s : State) : Prop := s.launch.waiting.Pairwise (fun a b => a.fire ≤ b.fire)

/-- No group's admitted currents exceed its limit (R137). -/
def State.withinSupply (s : State) : Prop := ∀ g : Fin 4, s.strikeSum g + s.motorSum g ≤ s.groups[g].limit

/-- Whether a figure in the state holds every zone of its move (Table 6.3). -/
def FigState.holdsPath : FigState → Bool
  | .waitSupply => true
  | .starting => true
  | .moving => true
  | .homing => true
  | .unhomed => false
  | .idle => false
  | .waitZone => false
  | .stopping => false
  | .held => false
  | .fault => false

/-- Every figure that waits for supply or has been commanded to move holds every zone its move needs (R107,
Table 6.3). -/
def State.pathsHeld (s : State) : Prop :=
  ∀ f : Fin 16, s.figs[f].state.holdsPath = true → ∀ z ∈ s.figs[f].needed, s.zones[z] = some f

/-- The launch queue's balance, while no counter of it has saturated (R76). A counter of it saturates only after
ACCEPTED has. -/
def State.balanced (s : State) : Prop :=
  s.launch.counters.accepted < 4294967295 →
    s.launch.counters.accepted = s.launch.counters.emitted + s.launch.counters.gated + s.launch.counters.skipped +
      s.launch.counters.purged + s.held

/-! The parts of the state that a write or a power-on changes, and nothing else. -/

/-- The tables, the settings and the node address. -/
structure Written where
  node : Byte
  parse : Vector ParseEntry 48
  bellRecs : Vector BellRec 48
  motifDirs : Vector MotifDir 64
  rows : Vector Row 1024
  figRecs : Vector FigRec 16
  boardRecs : Vector BoardRec 32
  groups : Vector GroupRec 4
  shows : Vector ShowRec 32
  moves : Vector MoveEntry 512
  vectors : Vector (Option (Fin 32)) 16
  settings : Settings
  deriving DecidableEq

/-- The tables, the settings and the node address of a state. -/
def State.written (s : State) : Written :=
  { node := s.node, parse := s.parse, bellRecs := s.bellRecs, motifDirs := s.motifDirs, rows := s.rows,
    figRecs := s.figRecs, boardRecs := s.boardRecs, groups := s.groups, shows := s.shows, moves := s.moves,
    vectors := s.calendar.vectors, settings := s.mgmt.settings }

/-- Whether a command may change a table, a setting or the node address. -/
def writes : Instr → Bool
  | .powerOn _ => true
  | .writeParse _ => true
  | .writeBell _ => true
  | .writeMotifDir _ => true
  | .writeMotifRow _ => true
  | .writeShow _ => true
  | .writeMove _ => true
  | .writeVector _ => true
  | .writeFigure _ => true
  | .writeBoard _ => true
  | .writeGroup _ => true
  | .writeSettings _ => true
  | _ => false

/-- The schedule banks, and which of them is active. -/
def State.banks (s : State) : Bank × Bank × BankName := (s.calendar.bankA, s.calendar.bankB, s.calendar.active)

/-- Whether a command writes a schedule bank, or may exchange the banks at its own event. -/
def writesBanks : Instr → Bool
  | .powerOn _ => true
  | .writeSchedule _ => true
  | .seasonSwitch _ => true
  | _ => false

/-- Whether a command may bring a pending switch to effect (R163, R165; for QUIET_EXPIRY and ENTRY_TIME log entry
52). -/
def takesSwitch : Instr → Bool
  | .pendingSwitchBase => true
  | .quietExpiry => true
  | .entryTime => true
  | .beacon _ => true
  | .classifierWalk _ _ => true
  | _ => false

/-- Whether a command may change the show clock. -/
def movesClock : Instr → Bool
  | .powerOn _ => true
  | .localMillisecond => true
  | .beacon _ => true
  | .beaconLost => true
  | .clearCounters _ => true
  | .classifierWalk _ _ => true
  | _ => false

/-! Requests and their responses. -/

/-- Whether a frame is a request of the row that reaches the management unit with no response pending (R15, R20). -/
def State.reaches (s : State) (f : List Byte) (r : RequestRow) : Bool :=
  s.fixedPath .head f .management && fitsRequest f r && s.head.pendingResponse.isNone

/-- The state with the response to a request placed in the head report queue, or kept as the pending response
(R20). -/
def State.respond (s : State) (f : List Byte) (r : Reply) : State := s.placeResponse (s.responseFrame f r)

/-- Whether a frame is a cue of the row that reaches cue handling (R15). -/
def State.cued (s : State) (f : List Byte) (r : CueRow) : Bool := s.fixedPath .head f .cues && fitsCue f r

end Sys2Proof.Machine
end

