-- ==== Sys2Proof/Certificates/Slice0/Obligations.lean ====
section
/-! DEFINITION. The statements for the provers. OBLIGATIONS.json gives each its tier and the rule it rests on. -/

open Sys2Proof Sys2Proof.Machine

/-! The queue of commands, frames and invariants. -/

/-- A step with a command at the front of the queue is the command's meaning on the state with the queue's rest (the
model's queue, log entry 3). -/
def Obligations.StepTakesTheFront : Prop :=
  ∀ (c : Instr) (rest : List Instr) (s : State), s.pending = c :: rest → step s = exec c (s.withPending rest)

/-- Every command is carried through to a next state, and leaves the queue as it found it: the engine does not halt on
faults (spec/00, 3.2). The queue is the model's own (log entry 3) and a power-on keeps it (log entry 34); a row whose
event has not come completes with no effect (the model's choice, log entry 2). -/
def Obligations.EveryCommandCompletes : Prop :=
  ∀ (c : Instr) (s : State), ∃ t, exec c s = .next t ∧ t.pending = s.pending

/-- A command that is no table write leaves the tables, the settings and the node address as they are (R38, R78, R79,
R100, R126, R136, R139, R140, R14); the two schedule banks, and which of them is active, stay under every command but
POWER_ON, WRITE_SCHEDULE, SEASON_SWITCH and a row that takes a pending switch (R155, R163, R165; QUIET_EXPIRY and
ENTRY_TIME among them, log entry 52); a command that is none of the clock's leaves the whole clock (R2). -/
def Obligations.TablesChangeByWrites : Prop :=
  ∀ (c : Instr) (s t : State), exec c s = .next t →
    (writes c = false → t.written = s.written) ∧
    (writesBanks c = false → (takesSwitch c = false ∨ s.calendar.pendingSwitch = none) → t.banks = s.banks) ∧
    (movesClock c = false → t.clock = s.clock)

/-- The state after reset has every invariant, whatever node address the straps gave; the model's reset samples the
straps at 0 (the model's choice, log entry 7). -/
def Obligations.ResetIsSafe : Prop :=
  (∀ node : Byte, (State.poweredOn node).withinCapacity ∧ (State.poweredOn node).clockLegal ∧
    (State.poweredOn node).inFireOrder ∧ (State.poweredOn node).withinSupply ∧ (State.poweredOn node).pathsHeld ∧
    (State.poweredOn node).balanced) ∧
  ∃ node, State.reset = State.poweredOn node

/-- Every step keeps every queue within its capacity. -/
def Obligations.CapacityKept : Prop :=
  ∀ s t : State, s.withinCapacity → step s = .next t → t.withinCapacity

/-- Every step keeps the clock legal. -/
def Obligations.ClockKept : Prop :=
  ∀ s t : State, s.clockLegal → step s = .next t → t.clockLegal

/-- Every step keeps the waiting list in order of fire time (R60). -/
def Obligations.FireOrderKept : Prop :=
  ∀ s t : State, s.inFireOrder → step s = .next t → t.inFireOrder

/-- Every step keeps S_g + M_g within the group's limit (R137). -/
def Obligations.SupplyKept : Prop :=
  ∀ s t : State, s.withinSupply → step s = .next t → t.withinSupply

/-- Every step keeps the zones of a figure under way with that figure (R107). -/
def Obligations.PathsKept : Prop :=
  ∀ s t : State, s.pathsHeld → step s = .next t → t.pathsHeld

/-- Every step keeps the launch queue's balance (R76). -/
def Obligations.BalanceKept : Prop :=
  ∀ s t : State, s.balanced → step s = .next t → t.balanced

/-- Power-on leaves the whole state at its power-on values, with the node address of the straps; the queue of commands
and the count of free values are the model's own and stay (the model's choice, log entry 34; R2, R14, R24, R37, R40,
R74, R78, R79, R81, R102, R126, R127, R136, R139, R140, R141, R155, R156, R167, R168, R170). -/
def Obligations.PowerOnValues : Prop :=
  ∀ (straps : Byte) (s : State),
    let pass : Verdict := { action := .none, forward := true }
    let report : ChanReport :=
      { position := 0, moving := false, arrived := false, homed := false, overcurrent := false, limit := false }
    let port : PortCounters := { crcError := 0, malformed := 0, passOverrun := 0 }
    let clock : Clock :=
      { time := 0, state := .unset, freeze := 0, lossDeadline := none, lastDiff := 0, beaconsAccepted := 0,
        badBeacon := 0, steps := 0 }
    let head : HeadPort :=
      { passQueue := [], reportQueue := [], pendingResponse := none, turn := .events, sending := none, counters :=
        port }
    let tail : TailPort :=
      { strikeQueue := [], commandQueue := [], passQueue := [], sending := none, counters := port }
    let parse : ParseEntry :=
      { filter := .both, rightmost := 0, width := 0, mask := 0, matchValue := 0, comparison := .equal, onTrue :=
        .verdict pass, onFalse := .verdict pass }
    let classified : ClassifierCounters :=
      { classified := 0, dropped := 0, fallback := 0, liveExceeded := 0, stepExceeded := 0, offsetBeyond := 0,
        actionMisdirected := 0, unknownKind := 0, mgmtOverrun := 0 }
    let bellRec : BellRec :=
      { enabled := false, board := 0, channel := 0, curve := .linear, pulseMin := 200, pulseMax := 200, pulseCeiling
        := 200, flightSoft := 0, flightLoud := 0, recovery := 20, coilCurrent := 100, heatLimit := 1000, coolRate := 0
        }
    let bell : BellState := { heat := 0, heatAt := 0, lastFire := none, unavailable := false }
    let strikes : StrikeCounters :=
      { accepted := 0, emitted := 0, gated := 0, skipped := 0, skipRecovery := 0, skipHeat := 0, skipBudget := 0,
        skipBoardAbsent := 0, skipOutOverrun := 0, purged := 0, stepPurged := 0, runPurged := 0, stopPurged := 0,
        heatTrimmed := 0, deferrals := 0, lateFired := 0, refusedLate := 0, refusedBeyondHorizon := 0,
        refusedQueueFull := 0, refusedBellInvalid := 0 }
    let launch : Launch := { waiting := [], assembly := [], counters := strikes, greatestLateness := 0 }
    let run : Run :=
      { state := .free, kind := .motif, showId := none, topMotif := 0, origin := .cue, anchor := 0, tempo := 100,
        count := 0, position := 0, stack := [], barrier := none, marks := Vector.replicate 16 none, paused := false,
        roomNotice := false, zeroCount := 0, cursor := 0, progress := [], planned := 0, lost := 0, nestTooDeep := 0,
        holdTotal := 0 }
    let figRec : FigRec :=
      { enabled := false, board := 0, channel := 0, kind := .linear, span := 1, softLo := 0, softHi := 1, home := 0,
        maxSpeed := 1, runCurrent := 100, priority := 0, tolerance := 0, spans := [] }
    let fig : Figure :=
      { state := .unhomed, position := none, current := none, nextMove := none, owner := none, admitted := none,
        waitStart := none, waitUsed := 0, travelDeadline := none, stopEnd := .idle, faultCause := none, movesArrived
        := 0, movesFailed := 0, moveReplaced := 0, moveAbandoned := 0, flags := report, needed := [], commandDone :=
        false, resolvedWay := .forward, legDistance := 0, legSpeed := 0 }
    let boardRec : BoardRec := { enabled := false, address := 0, kind := .bell, group := 0 }
    let board : BoardState :=
      { presence := .unknown, rail := none, statusDeadline := none, coilFlags := Vector.replicate 16 false, motors
        := Vector.replicate 4 report, commands := [], nextTag := 0, sent := 0, rejected := 0, timedOut := 0,
        statusTaken := 0 }
    let show_ : ShowRec :=
      { enabled := false, topMotif := 0, tempo := 100, declaredLength := 1000, need := .both, firstMove := 0,
        moveCount := 0, grace := 0 }
    let move : MoveEntry :=
      { figure := 0, target := 0, speedPercent := 100, way := .shorter, startMark := 0, startDelay := 0, arriveMark
        := none }
    let shows : ShowCounters :=
      { requests := 0, admitted := 0, invalid := 0, duplicate := 0, fitsNowhere := 0, queueFull := 0, starved := 0,
        moveUnreached := 0, lateFigure := 0 }
    let entry : SchedEntry := { offset := 0, bellGate := .opened, figureGate := .opened, trigger := none }
    let bank : Bank := { base := 0, cycle := 86400000, count := 0, entries := Vector.replicate 64 entry }
    let times : CalendarCounters :=
      { triggersIssued := 0, missed := 0, badQuiet := 0, switches := 0, switchRefused := 0 }
    let calendar : Calendar :=
      { bankA := bank, bankB := bank, active := .a, cycleStart := 0, listBells := .opened, listFigures := .opened,
        override := none, pendingSwitch := none, watermark := 0, vectors := Vector.replicate 16 none, counters :=
        times, entriesTaken := 0, leadsTaken := 0 }
    let settings : Settings :=
      { vnom := 24000, expiry := 10, lookahead := 1500, lead := 2000, catchUp := 300000, starvation := 2, zoneWait
        := 30000, strikeGuard := 1, reportDest := 0, fallback := pass, stepLimit := 48, liveEntries := 0,
        answerTimeout := 10, rejectHoldoff := 20, retries := 3, statusTimeout := 250, homeOnRun := false }
    let mgmt : Management :=
      { engine := .config, settings := settings, events := [], lost := 0, mask := Vector.replicate 6 true }
    exec (.powerOn straps) s = .next
      { clock := clock, node := if straps = 255 then 254 else straps, head := head, tail := tail,
        parse := Vector.replicate 48 parse, classifier := classified, bellRecs := Vector.replicate 48 bellRec,
        bells := Vector.replicate 48 bell, launch := launch, rows := Vector.replicate 1024 (.rest 0),
        motifDirs := Vector.replicate 64 { firstRow := 0, rowCount := 0 }, runs := Vector.replicate 4 run,
        figRecs := Vector.replicate 16 figRec, figs := Vector.replicate 16 fig, zones := Vector.replicate 24 none,
        boardRecs := Vector.replicate 32 boardRec, boards := Vector.replicate 32 board,
        boardUnit := { staleAnswer := 0, badBoardFrame := 0, nextId := 0 }, strikeAccount := [],
        groups := Vector.replicate 4 { limit := 1000, reserve := 0 }, shows := Vector.replicate 32 show_,
        moves := Vector.replicate 512 move, showUnit := { queue := [], capture := none, counters := shows },
        calendar := calendar, mgmt := mgmt, freeCount := s.freeCount, pending := s.pending }

/-! Show time. -/

/-- A local millisecond advances show time by one, or holds it and lowers freeze remaining by one (R1). The top of the
48 bits, which R1 says is not reached, carries a free value (the model's choice, log entry 8). -/
def Obligations.MillisecondCounts : Prop :=
  ∀ s : State,
    (0 < s.clock.freeze →
      exec .localMillisecond s = .next { s with clock := { s.clock with freeze := s.clock.freeze - 1 } }) ∧
    (s.clock.freeze = 0 → s.clock.time + 1 < timeTop →
      exec .localMillisecond s = .next { s with clock := { s.clock with time := s.clock.time + 1 } }) ∧
    (s.clock.freeze = 0 → timeTop ≤ s.clock.time + 1 →
      ∃ v : Int, 0 ≤ v ∧ v < timeTop ∧ exec .localMillisecond s =
        .next { s with clock := { s.clock with time := v }, freeCount := s.freeCount + 1 })

/-- An accepted beacon within 20 ms slews a clock that is SET or FREE_RUNNING: forward by at most 2 at once, or
backward by a freeze of at most 2; the clock is then SET with a new loss deadline, and nothing but the clock changes
(R3, R4, R5, R6). -/
def Obligations.BeaconSlews : Prop :=
  ∀ (s : State) (f : List Byte) (day ms : Nat), s.fixedPath .head f .clock = true →
    readBeacon (framePayload f) = some (day, ms) → ms < 86400000 → s.clock.state ≠ .unset →
    (((day * 86400000 + ms : Nat) : Int) - s.clock.time).natAbs ≤ 20 →
    let d : Int := ((day * 86400000 + ms : Nat) : Int) - s.clock.time
    let now : Int := if 0 < d then s.clock.time + min d 2 else s.clock.time
    exec (.beacon f) s = .next { s with clock := { s.clock with
      time := now, state := .set, freeze := if d < 0 then min d.natAbs 2 else 0, lossDeadline := some (now + 5000),
      lastDiff := d, beaconsAccepted := min (s.clock.beaconsAccepted + 1) 4294967295 } }

/-- A forward slew jumps by 1 or by 2, changes nothing but the clock, raises no event, and makes a launch entry whose
fire time it passes due (R5). -/
def Obligations.ForwardSlew : Prop :=
  ∀ (s : State) (f : List Byte) (day ms : Nat) (d : Int), s.fixedPath .head f .clock = true →
    readBeacon (framePayload f) = some (day, ms) → ms < 86400000 → s.clock.state ≠ .unset →
    d = ((day * 86400000 + ms : Nat) : Int) - s.clock.time → 1 ≤ d → d ≤ 20 →
    ∃ t, exec (.beacon f) s = .next t ∧
      t.clock.time = s.clock.time + min d 2 ∧
      (d = 1 → t.clock.time = s.clock.time + 1) ∧ (2 ≤ d → t.clock.time = s.clock.time + 2) ∧
      { t with clock := s.clock } = s ∧ t.mgmt.events = s.mgmt.events ∧
      (∀ e rest, s.launch.waiting = e :: rest → s.clock.time < e.fire → e.fire ≤ s.clock.time + min d 2 →
        s.headDue = false ∧ t.headDue = true)

/-- A beacon steps an UNSET clock, and any clock that is more than 20 ms away: show time becomes B, TIME_STEP is raised
and the step is announced with the full d (R3, R4, R7, R8). That the new state stands before the announcement (log entry
10), that passed windows are released before it (log entry 13) and that TIME_STEP is raised before it (log entry 46) is
the model's order. The announcement moves the launch queue and the runs, has the calendar take a pending switch whose
base is reached or derive its position, and then has the show unit judge its head and the cursor of every run (R8,
R163); that the head is judged first and then the cursors in order of slot is the model's choice (log entry 42). -/
def Obligations.BeaconSteps : Prop :=
  (∀ (s : State) (f : List Byte) (day ms : Nat) (d : Int), s.fixedPath .head f .clock = true →
    readBeacon (framePayload f) = some (day, ms) → ms < 86400000 →
    d = ((day * 86400000 + ms : Nat) : Int) - s.clock.time → (s.clock.state = .unset ∨ 20 < d.natAbs) →
    let stepped : Clock := { s.clock with
      time := ((day * 86400000 + ms : Nat) : Int), state := .set, freeze := 0,
      lossDeadline := some (((day * 86400000 + ms : Nat) : Int) + 5000),
      lastDiff := max (-32767) (min 32767 d),
      beaconsAccepted := min (s.clock.beaconsAccepted + 1) 4294967295, steps := min (s.clock.steps + 1) 4294967295 }
    let open_ := s.strikeAccount.filter (fun a => decide (stepped.time < a.windowEnd))
    let before : State := ({ s with clock := stepped, strikeAccount := open_ } : State).raise .timeStep
      (max (-32767) (min 32767 d)) (if 32767 < d.natAbs then 1 else 0)
    ∃ t, exec (.beacon f) s = .next t ∧ t.clock = stepped ∧ t = before.announceStep d) ∧
  ∀ (s : State) (d : Int),
    s.announceStep d = (((s.launchStep d).runStep d).calendarStep).showStep ∧
    (∀ base, s.calendar.pendingSwitch = some base → base ≤ s.clock.time → s.calendarStep = s.takeSwitch base 0) ∧
    ((∀ base, s.calendar.pendingSwitch = some base → s.clock.time < base) → s.calendarStep = s.derive) ∧
    ∃ t0 t1 t2 t3, exec .showAdmission s = .next t0 ∧ exec (.moveStartTime 0) t0 = .next t1 ∧
      exec (.moveStartTime 1) t1 = .next t2 ∧ exec (.moveStartTime 2) t2 = .next t3 ∧
      exec (.moveStartTime 3) t3 = .next s.showStep

/-- A beacon that is short or whose millisecond of the day is out of range is ignored: BAD_BEACON alone changes (R3). At
the loss deadline the clock becomes FREE_RUNNING and BEACON_LOST is raised (R9); before it, and in the other states, the
row has no effect (the model's choice, log entry 2). -/
def Obligations.BadAndLostBeacons : Prop :=
  (∀ (s : State) (f : List Byte), s.fixedPath .head f .clock = true →
     ((framePayload f).length < 6 ∨
       ∃ day ms, readBeacon (framePayload f) = some (day, ms) ∧ 86400000 ≤ ms) →
     exec (.beacon f) s = .next { s with clock := { s.clock with badBeacon := min (s.clock.badBeacon + 1) 4294967295 } }) ∧
  (∀ s : State,
     (∀ deadline, s.clock.state = .set → s.clock.lossDeadline = some deadline → deadline ≤ s.clock.time →
       exec .beaconLost s = .next (({ s with clock := { s.clock with state := .freeRunning, lossDeadline := none } } :
         State).raise .beaconLost 0 0)) ∧
     ((s.clock.state ≠ .set ∨ ∀ deadline, s.clock.lossDeadline = some deadline → s.clock.time < deadline) →
       exec .beaconLost s = .next s))

/-! The link. -/

/-- A frame the engine forms passes the checks at reception (R12, R13, R17). -/
def Obligations.FormedFramesArrive : Prop :=
  ∀ (dest src : Byte) (kind : Nat) (payload : List Byte), payload.length ≤ 56 → kind < 256 →
    reception (formFrame dest src kind payload) = .arrived ∧
    frameDest (formFrame dest src kind payload) = dest ∧ frameSrc (formFrame dest src kind payload) = src ∧
    frameKind (formFrame dest src kind payload) = kind ∧ framePayload (formFrame dest src kind payload) = payload

/-- A frame that fails a check is dropped and counted at its port; one that the fixed path does not take is dropped and
counted in UNKNOWN_KIND; nothing else changes (R12, R15). -/
def Obligations.DroppedFramesCounted : Prop :=
  ∀ (s : State) (f : List Byte),
    (reception f = .malformed →
      exec (.malformed .head f) s = .next { s with head := { s.head with counters :=
        { s.head.counters with malformed := min (s.head.counters.malformed + 1) 4294967295 } } } ∧
      exec (.malformed .tail f) s = .next { s with tail := { s.tail with counters :=
        { s.tail.counters with malformed := min (s.tail.counters.malformed + 1) 4294967295 } } }) ∧
    (reception f = .crcError →
      exec (.crcError .head f) s = .next { s with head := { s.head with counters :=
        { s.head.counters with crcError := min (s.head.counters.crcError + 1) 4294967295 } } } ∧
      exec (.crcError .tail f) s = .next { s with tail := { s.tail with counters :=
        { s.tail.counters with crcError := min (s.tail.counters.crcError + 1) 4294967295 } } }) ∧
    (∀ p : Port, reception f = .arrived → frameDest f = s.node → fixedBlock p (frameKind f) = none →
      exec (.unknownKind p f) s = .next { s with classifier :=
        { s.classifier with unknownKind := min (s.classifier.unknownKind + 1) 4294967295 } })

/-- Every walk is counted once and ends in a verdict. With live entries 0 it takes the fallback verdict at once; else
it examines entry 0 and goes on: a verdict ends it, a NEXT that names a live entry within the step limit goes on with
that entry, and a NEXT beyond live entries or past the step limit ends it with the fallback verdict (R29, R30). An
entry whose direction filter does not match, or whose selected bits lie beyond the frame or the window (counted in
OFFSET_BEYOND), takes its false outcome; else the masked field is compared with the match value (R27, R28). -/
def Obligations.WalkEndsInAVerdict : Prop :=
  (∀ (s : State) (p : Port) (f : List Byte),
    let walked := s.walkFrom p f s.mgmt.settings.stepLimit 0 s.classifier
    (s.mgmt.settings.liveEntries = 0 → s.walk p f = (s.mgmt.settings.fallback, { s.classifier with
      classified := min (s.classifier.classified + 1) 4294967295,
      fallback := min (s.classifier.fallback + 1) 4294967295 })) ∧
    (s.mgmt.settings.liveEntries ≠ 0 → s.walk p f = (walked.1, { walked.2 with
      classified := min (s.classifier.classified + 1) 4294967295 }))) ∧
  (∀ (s : State) (p : Port) (f : List Byte) (k : Nat) (i : Fin 48) (c : ClassifierCounters),
    let x := examine s.parse[i] p f
    let d : ClassifierCounters := { c with
      offsetBeyond := if x.2 then min (c.offsetBeyond + 1) 4294967295 else c.offsetBeyond }
    let fellBack : ClassifierCounters := { d with fallback := min (c.fallback + 1) 4294967295 }
    (∀ v, x.1 = .verdict v → s.walkFrom p f (k + 1) i.val c = (v, d)) ∧
    (∀ n, x.1 = .next n → s.mgmt.settings.liveEntries ≤ n → s.walkFrom p f (k + 1) i.val c =
      (s.mgmt.settings.fallback, { fellBack with liveExceeded := min (c.liveExceeded + 1) 4294967295 })) ∧
    (∀ n, x.1 = .next n → n < s.mgmt.settings.liveEntries → s.walkFrom p f 1 i.val c =
      (s.mgmt.settings.fallback, { fellBack with stepExceeded := min (c.stepExceeded + 1) 4294967295 })) ∧
    (∀ n, x.1 = .next n → n < s.mgmt.settings.liveEntries →
      s.walkFrom p f (k + 2) i.val c = s.walkFrom p f (k + 1) n d)) ∧
  (∀ (e : ParseEntry) (p : Port) (f : List Byte),
    let suits := e.filter = .both ∨ (e.filter = .outbound ∧ p = .head) ∨ (e.filter = .inbound ∧ p = .tail)
    let beyond := e.width ≠ 0 ∧ 8 * min f.length 32 < e.rightmost + e.width
    let window_ := (f.take 32).foldr (fun b n => b.toNat + 256 * n) 0
    let masked := (BitVec.ofNat 16 (window_ / 2 ^ e.rightmost % 2 ^ e.width) &&& e.mask).toNat
    let holds := match e.comparison with
      | .equal => masked = e.matchValue.toNat
      | .notEqual => masked ≠ e.matchValue.toNat
      | .atMost => masked ≤ e.matchValue.toNat
      | .atLeast => e.matchValue.toNat ≤ masked
    (¬suits → examine e p f = (e.onFalse, false)) ∧
    (suits → beyond → examine e p f = (e.onFalse, true)) ∧
    (suits → ¬beyond → holds → examine e p f = (e.onTrue, false)) ∧
    (suits → ¬beyond → ¬holds → examine e p f = (e.onFalse, false)))

/-- A verdict NONE with forward no drops the frame; NONE with forward yes retransmits it unchanged out of the other
port, or drops it at a full pass queue (R23, R31). CUE, BEACON and QUIET on an outbound frame, and BOARD on an inbound
one, reach the block that the fixed path would name; then the frame is forwarded if the verdict says so (R31 to R34);
the payload is read as a frame of that KIND would be (R31). The rule has the two carried out together; that the action
comes first is the model's order (log entry 11), and so is that the judgement of the head which an action brings (R145)
comes inside the action, before the forward (log entry 36). -/
def Obligations.VerdictsDropOrForward : Prop :=
  ∀ (s : State) (p : Port) (f : List Byte), reception f = .arrived → frameDest f ≠ s.node →
    let v := (s.walk p f).1
    let c := (s.walk p f).2
    let counted : State := { s with classifier := c }
    let ends (t : State) : Prop := exec (.classifierWalk p f) s = .next (if v.forward = true then t.forwardFrame p f else t)
    (v.action = .none → v.forward = false →
      exec (.classifierWalk p f) s = .next { s with classifier := { c with dropped := min (c.dropped + 1) 4294967295 } }) ∧
    (v.action = .none → v.forward = true → exec (.classifierWalk p f) s = .next (counted.forwardFrame p f)) ∧
    (p = .head → v.action = .cue → ends (counted.takeCue (framePayload f))) ∧
    (p = .head → v.action = .beacon → ends (counted.takeBeacon (framePayload f))) ∧
    (∀ level hold, p = .head → v.action = .quiet level hold → ends (counted.imposeQuiet level hold true)) ∧
    (p = .tail → v.action = .board → frameKind f = kindBoardAnswer →
      ends (counted.takeAnswer (frameSrc f) (framePayload f))) ∧
    (p = .tail → v.action = .board → frameKind f = kindBoardStatus →
      ends (counted.takeStatus (frameSrc f) (framePayload f))) ∧
    (p = .tail → v.action = .board → frameKind f ≠ kindBoardAnswer → frameKind f ≠ kindBoardStatus →
      ends { s with classifier := { c with unknownKind := min (c.unknownKind + 1) 4294967295 } }) ∧
    ∀ t : State,
      (p = .head → t.tail.passQueue.length < 8 → t.forwardFrame p f = { t with
        tail := { t.tail with passQueue := t.tail.passQueue ++ [f] } }) ∧
      (p = .head → 8 ≤ t.tail.passQueue.length → t.forwardFrame p f = { t with
        tail := { t.tail with counters :=
          { t.tail.counters with passOverrun := min (t.tail.counters.passOverrun + 1) 4294967295 } } }) ∧
      (p = .tail → t.head.passQueue.length < 8 → t.forwardFrame p f = { t with
        head := { t.head with passQueue := t.head.passQueue ++ [f] } }) ∧
      (p = .tail → 8 ≤ t.head.passQueue.length → t.forwardFrame p f = { t with
        head := { t.head with counters :=
          { t.head.counters with passOverrun := min (t.head.counters.passOverrun + 1) 4294967295 } } }) ∧
      ∀ g : List Byte,
        (t.cued g .strike = true → exec (.strikeCue g) t = .next (t.takeCue (framePayload g))) ∧
        (t.cued g .motifPlay = true → exec (.motifPlay g) t = .next (t.takeCue (framePayload g))) ∧
        (t.cued g .showStart = true → exec (.showStart g) t = .next (t.takeCue (framePayload g))) ∧
        (t.cued g .showStop = true → exec (.showStop g) t = .next (t.takeCue (framePayload g))) ∧
        (t.cued g .figureGo = true → exec (.figureGo g) t = .next (t.takeCue (framePayload g))) ∧
        (t.cued g .allStop = true → exec (.allStop g) t = .next (t.takeCue (framePayload g))) ∧
        (t.cued g .unreadable = true → exec (.unknownCueType g) t = .next (t.takeCue (framePayload g))) ∧
        (t.fixedPath .head g .clock = true → exec (.beacon g) t = .next (t.takeBeacon (framePayload g))) ∧
        (t.fixedPath .tail g .boardAnswer = true → exec (.boardAnswer g) t =
          .next (t.takeAnswer (frameSrc g) (framePayload g))) ∧
        (t.fixedPath .tail g .boardStatus = true → exec (.boardStatus g) t =
          .next (t.takeStatus (frameSrc g) (framePayload g)))

/-- An action that does not suit the frame's direction is not carried out: BOARD on an outbound frame, CUE, BEACON or
QUIET on an inbound one. ACTION_MISDIRECTED rises by one, DROPPED does not, and the forward flag is still carried out
(R35). -/
def Obligations.MisdirectedAction : Prop :=
  ∀ (s : State) (p : Port) (f : List Byte), reception f = .arrived → frameDest f ≠ s.node →
    let v := (s.walk p f).1
    let c := (s.walk p f).2
    ((p = .head ∧ v.action = .board) ∨
      (p = .tail ∧ (v.action = .cue ∨ v.action = .beacon ∨ ∃ l h, v.action = .quiet l h))) →
    let counted : State := { s with classifier :=
      { c with actionMisdirected := min (c.actionMisdirected + 1) 4294967295 } }
    (v.forward = true → exec (.classifierWalk p f) s = .next (counted.forwardFrame p f)) ∧
    (v.forward = false → exec (.classifierWalk p f) s = .next counted)

/-- The choice of a free tail port: the oldest STRIKE frame, whatever the guard; while the guard holds, nothing else;
then the oldest command frame that is ready; then the oldest outbound pass frame (R18, R19). A frame for re-send is
ready, in CONFIG too (the model's choice, log entry 49); that of a waiting command is, when no command of its board is
in handshake, it is the first waiting command of its list with none in holdoff before it unless it is a STOP, and the
engine is in RUN or it is a STOP. A frame that starts takes the board's next tag, or keeps that of a re-send; its
command is outstanding with a timer, SENT rises, and the frame carries the command (R129). -/
def Obligations.TailPortChooses : Prop :=
  (∀ s : State,
    let free : State := { s with tail := { s.tail with sending := none } }
    (∀ f fs, s.tail.strikeQueue = f :: fs →
      exec .tailPortFree s = .next { s with tail := { s.tail with strikeQueue := fs, sending := some f } }) ∧
    (s.tail.strikeQueue = [] → s.guardHolds = true → exec .tailPortFree s = .next free) ∧
    (∀ f c, s.tail.strikeQueue = [] → s.guardHolds = false → free.readyCommand = some (f, c) →
      exec .tailPortFree s = .next (free.sendCommand f c)) ∧
    (∀ f fs, s.tail.strikeQueue = [] → s.guardHolds = false → free.readyCommand = none →
      s.tail.passQueue = f :: fs →
      exec .tailPortFree s = .next { s with tail := { s.tail with passQueue := fs, sending := some f } }) ∧
    (s.tail.strikeQueue = [] → s.guardHolds = false → free.readyCommand = none → s.tail.passQueue = [] →
      exec .tailPortFree s = .next free) ∧
    (s.guardHolds = true ↔ ∃ e rest, s.launch.waiting = e :: rest ∧
      e.fire ≤ s.clock.time + s.mgmt.settings.strikeGuard)) ∧
  (∀ s : State,
    let ready (f : CommandFrame) (c : Command) : Prop :=
      s.boards[f.board].commands.find? (fun d => d.id = f.id) = some c ∧
      (c.condition = .resend ∨
        (c.condition = .waiting ∧ (∀ d ∈ s.boards[f.board].commands, d.condition.inHandshake = false) ∧
          (s.mgmt.engine = .run ∨ c.op = .stop) ∧
          ∃ before after, s.boards[f.board].commands = before ++ c :: after ∧
            (∀ d ∈ before, d.condition ≠ .waiting) ∧
            (c.op = .stop ∨ ∀ d ∈ before, ∀ until_, d.condition ≠ .holdoff until_)))
    (∀ older f newer c, s.tail.commandQueue = older ++ f :: newer → (∀ g ∈ older, ∀ d, ¬ready g d) → ready f c →
      s.readyCommand = some (f, c)) ∧
    ((∀ f ∈ s.tail.commandQueue, ∀ c, ¬ready f c) → s.readyCommand = none)) ∧
  ∀ (s : State) (f : CommandFrame) (c : Command) (tag : Byte),
    let b := s.boards[f.board]
    ((c.condition = .resend ∧ c.tag = some tag) ∨ (c.condition = .waiting ∧ tag = b.nextTag)) →
    let parts : Nat × Nat × Nat × Nat := match c.op with
      | .move target way speed => (0, target, way.code, speed)
      | .home => (1, 0, 0, 0)
      | .stop => (2, 0, 0, 0)
      | .clearFault => (3, 0, 0, 0)
    let channel := match c.channel with
      | some n => n.val
      | none => 15
    let payload := [tag, byteOf parts.1, byteOf channel] ++ leBytes 2 parts.2.1 ++ [byteOf parts.2.2.1] ++
      leBytes 2 parts.2.2.2
    s.sendCommand f c = { s with
      tail := { s.tail with
        commandQueue := s.tail.commandQueue.filter (fun g => g ≠ f),
        sending := some (formFrame f.dest s.node 0x41 payload) },
      boards := s.boards.set f.board.val { b with
        commands := b.commands.map (fun d => if d.id = c.id then
          { d with condition := .outstanding (s.clock.time + s.mgmt.settings.answerTimeout), tag := some tag } else d),
        nextTag := if c.condition = .resend then b.nextTag else b.nextTag + 1,
        sent := min (b.sent + 1) 65535 } }

/-- The choice of a free head port: the oldest response first, the turn unchanged; then, of an event report and an
inbound frame, the one whose turn it is, or the only one there is; the turn passes to the other (R22). The pending
response takes a free place of the head report queue; an event report is formed of the four oldest events when an event
is queued, a place is free, no response is pending and no event report waits (R20, R21, R175). A row whose condition is
not met has no effect (the model's choice, log entry 2). -/
def Obligations.HeadPortAndItsReports : Prop :=
  (∀ s : State,
     let responses := s.head.reportQueue.filter (fun r => !r.isEvent)
     let events := s.head.reportQueue.filter (fun r => r.isEvent)
     (∀ r rs, responses = r :: rs → ∃ t, exec .headPortFree s = .next t ∧ t.head.sending = some r.bytes ∧
       t.head.turn = s.head.turn ∧ t.head.passQueue = s.head.passQueue ∧
       t.head.reportQueue.filter (fun r => !r.isEvent) = rs ∧ t.head.reportQueue.filter (fun r => r.isEvent) = events ∧
       { t with head := s.head } = s) ∧
     (∀ r rs, responses = [] → events = r :: rs → (s.head.passQueue = [] ∨ s.head.turn = .events) →
       exec .headPortFree s = .next { s with head := { s.head with
         reportQueue := rs, sending := some r.bytes, turn := .pass } }) ∧
     (∀ f fs, responses = [] → (events = [] ∨ s.head.turn = .pass) → s.head.passQueue = f :: fs →
       exec .headPortFree s = .next { s with head := { s.head with
         passQueue := fs, sending := some f, turn := .events } }) ∧
     (responses = [] → events = [] → s.head.passQueue = [] →
       exec .headPortFree s = .next { s with head := { s.head with sending := none } })) ∧
  (∀ s : State,
     let report : List Byte :=
       formFrame s.mgmt.settings.reportDest s.node kindReport (eventPayload s.mgmt.lost (s.mgmt.events.take 4))
     (∀ r, s.head.pendingResponse = some r → s.head.reportQueue.length < 8 →
       exec .pendingResponsePlace s = .next { s with head := { s.head with
         reportQueue := s.head.reportQueue ++ [{ isEvent := false, bytes := r }], pendingResponse := none } }) ∧
     ((s.head.pendingResponse = none ∨ 8 ≤ s.head.reportQueue.length) → exec .pendingResponsePlace s = .next s) ∧
     (s.mgmt.events ≠ [] → s.head.reportQueue.length < 8 → s.head.pendingResponse = none →
       (∀ r ∈ s.head.reportQueue, r.isEvent = false) →
       exec .eventReportForm s = .next { s with
         head := { s.head with reportQueue := s.head.reportQueue ++ [{ isEvent := true, bytes := report }] },
         mgmt := { s.mgmt with events := s.mgmt.events.drop 4, lost := 0 } }) ∧
     ((s.mgmt.events = [] ∨ 8 ≤ s.head.reportQueue.length ∨ s.head.pendingResponse ≠ none ∨
         ∃ r ∈ s.head.reportQueue, r.isEvent = true) →
       exec .eventReportForm s = .next s))

/-! Strikes and the launch queue. -/

/-- A strike request is refused for its bell first, ignored for a cue velocity of 0, refused LATE, BEYOND_HORIZON or
QUEUE_FULL, or accepted with the fire time T - f and a place behind every entry at or before it (R44 to R49, R60). A
STRIKE cue in RUN sends its entries to the strike planner in order; each refused entry raises CUE_REFUSED with its
reason and its index (R173, R174). -/
def Obligations.StrikePlanning : Prop :=
  (∀ (s : State) (q : StrikeRequest),
    ((47 < q.bell ∨ ∃ bell : Fin 48, q.bell = bell.val ∧ s.bellRecs[bell].enabled = false) →
      planStrike s q = (.refused .bellInvalid, { s with launch := { s.launch with counters := { s.launch.counters with
        refusedBellInvalid := min (s.launch.counters.refusedBellInvalid + 1) 4294967295 } } })) ∧
    ∀ bell : Fin 48, q.bell = bell.val → s.bellRecs[bell].enabled = true →
      (q.origin = .cue → q.velocity = 0 → planStrike s q = (.ignored, s)) ∧
      ((q.origin = .cue → q.velocity ≠ 0) →
        let b := s.bellRecs[bell]
        let v := max 1 (min 127 q.velocity)
        let shaped := match b.curve with
          | .linear => v
          | .square => max 1 ((v * v + 63) / 127)
        let flight := b.flightSoft - ((b.flightSoft - b.flightLoud) * (shaped - 1) + 63) / 126
        let sound : Int := match q.time with
          | .soundAt t => t
          | .asap offset => s.clock.time + offset + flight
        let fire := sound - flight
        let expiry := s.mgmt.settings.expiry
        ((fire < 0 ∨ (fire ≤ s.clock.time + 10000 ∧ fire < s.clock.time - expiry)) →
          planStrike s q = (.refused .late, { s with launch := { s.launch with counters := { s.launch.counters with
            refusedLate := min (s.launch.counters.refusedLate + 1) 4294967295 } } })) ∧
        (0 ≤ fire → s.clock.time + 10000 < fire →
          planStrike s q = (.refused .beyondHorizon, { s with launch := { s.launch with counters :=
            { s.launch.counters with
              refusedBeyondHorizon := min (s.launch.counters.refusedBeyondHorizon + 1) 4294967295 } } })) ∧
        (0 ≤ fire → fire ≤ s.clock.time + 10000 → s.clock.time - expiry ≤ fire → 256 ≤ s.held →
          planStrike s q = (.refused .queueFull, { s with launch := { s.launch with counters := { s.launch.counters with
            refusedQueueFull := min (s.launch.counters.refusedQueueFull + 1) 4294967295 } } })) ∧
        (0 ≤ fire → fire ≤ s.clock.time + 10000 → s.clock.time - expiry ≤ fire → s.held < 256 →
          planStrike s q = (.accepted, { s with launch := { s.launch with
            waiting := s.launch.waiting.takeWhile (fun x => x.fire ≤ fire) ++
              { bell := bell, shaped := shaped, sound := sound, fire := fire, fire0 := fire, origin := q.origin,
                deferred := 0 } :: s.launch.waiting.dropWhile (fun x => x.fire ≤ fire),
            counters := { s.launch.counters with
              accepted := min (s.launch.counters.accepted + 1) 4294967295 } } })))) ∧
  (∀ (s : State) (f : List Byte) (base : Nat) (entries : List CueStrike), s.cued f .strike = true →
    s.mgmt.engine = .run → readCue (framePayload f) = some (.strike base entries) →
    (base = 0 ∨ s.clock.state ≠ .unset) →
    exec (.strikeCue f) s = .next (State.cueEntries base entries 0 s)) ∧
  (∀ (s : State) (base i : Nat), State.cueEntries base [] i s = s) ∧
  (∀ (s : State) (base i : Nat) (e : CueStrike) (es : List CueStrike),
    let when_ : StrikeWhen := if base = 0 then .asap e.offset else .soundAt (base + e.offset : Nat)
    let p := planStrike s { bell := e.bell, velocity := e.velocity, time := when_, origin := .cue }
    ((p.1 = .accepted ∨ p.1 = .ignored) →
      State.cueEntries base (e :: es) i s = State.cueEntries base es (i + 1) p.2) ∧
    (∀ r, p.1 = .refused r →
      State.cueEntries base (e :: es) i s =
        State.cueEntries base es (i + 1) (p.2.raise .cueRefused r.reason.code (256 + i))))

/-- The due head is removed and fired: gated, skipped with its reason, emitted with the pulse of R54 and R55, or
deferred to the end of the group's earliest window; the end of the batch and the notice of room follow (R51 to R58, R63
to R67, R69). Windows that show time has reached are released first (the model's order, log entry 13). The current of a
HOMING figure counts in M_g as that of any other (the model's reading of R136 and R137, log entry 38). An emitted strike
joins its board's open frame or opens one; a frame of eight pairs is closed and offered, and so is every open frame when
no entry is due, in the order of their first strikes. A frame that is offered joins the strike output queue, or is lost
whole and its pairs skipped (R66 to R68). A number held that comes down from 256 is told to every paused run (R61). -/
def Obligations.FiringOutcomes : Prop :=
  (∀ (s : State) (e : LaunchEntry) (rest : List LaunchEntry), s.launch.waiting = e :: rest → e.fire ≤ s.clock.time →
    let now := s.clock.time
    let open_ := s.strikeAccount.filter (fun a => decide (now < a.windowEnd))
    let fired : State := { s with launch := { s.launch with waiting := rest }, strikeAccount := open_ }
    let ends (t : State) : Prop := exec .fireHeadEntry s = .next (t.endBatch.noticeRoom s.held)
    let c := s.launch.counters
    let b := s.bellRecs[e.bell]
    let h := s.bells[e.bell]
    let board := s.boards[b.board]
    let g := s.boardRecs[b.board].group
    let gate := s.calendar.listBells = .opened ∧ s.calendar.override = none
    let coil := b.enabled = true ∧ s.boardRecs[b.board].enabled = true ∧ s.boardRecs[b.board].kind = .bell ∧
      board.presence = .present ∧ h.unavailable = false
    let rested := ∀ last, h.lastFire = some last → (b.recovery : Int) ≤ now - last
    let heat := h.heat - (b.coolRate * (now - h.heatAt).toNat) / 1000
    let cooled : State := { fired with bells := s.bells.set e.bell.val { h with heat := heat, heatAt := now } }
    let p0 := b.pulseMin + ((b.pulseMax - b.pulseMin) * (e.shaped - 1) + 63) / 126
    let vnom := s.mgmt.settings.vnom
    let vb := clamp ((2 * vnom + 2) / 3) ((4 * vnom) / 3) (board.rail.getD vnom)
    let p1 := clamp b.pulseMin b.pulseCeiling ((p0 * vnom + vb / 2) / vb)
    let p2 := if heat + p1 ≤ b.heatLimit then p1 else b.heatLimit - heat
    let cold := heat + p1 ≤ b.heatLimit ∨ b.pulseMin ≤ b.heatLimit - heat
    let admitted := fired.strikeSum g + b.coilCurrent + s.motorSum g ≤ s.groups[g].limit
    let skipped (t : State) (d : StrikeCounters) : State :=
      { t with launch := { t.launch with counters := { d with skipped := min (c.skipped + 1) 4294967295 } } }
    (¬gate → ends { fired with launch := { fired.launch with counters :=
      { c with gated := min (c.gated + 1) 4294967295 } } }) ∧
    (gate → ¬coil → ends (skipped fired { c with skipBoardAbsent := min (c.skipBoardAbsent + 1) 4294967295 })) ∧
    (gate → coil → ¬rested → ends (skipped fired { c with skipRecovery := min (c.skipRecovery + 1) 4294967295 })) ∧
    (gate → coil → rested → ¬cold → ends (skipped cooled { c with skipHeat := min (c.skipHeat + 1) 4294967295 })) ∧
    (gate → coil → rested → cold → ¬admitted →
      (fired.earliestEnd g = none ∨ ∃ t, fired.earliestEnd g = some t ∧ (s.mgmt.settings.expiry : Int) < t - e.fire0) →
      ends (skipped cooled { c with skipBudget := min (c.skipBudget + 1) 4294967295 })) ∧
    (∀ t, gate → coil → rested → cold → ¬admitted → fired.earliestEnd g = some t →
      t - e.fire0 ≤ (s.mgmt.settings.expiry : Int) →
      ends { cooled with launch := { cooled.launch with
        waiting := rest.takeWhile (fun x => x.fire ≤ t) ++
          { e with fire := t, deferred := min (e.deferred + 1) 255 } :: rest.dropWhile (fun x => x.fire ≤ t),
        counters := { c with deferrals := min (c.deferrals + 1) 4294967295 } } }) ∧
    (gate → coil → rested → cold → admitted →
      ends (({ fired with
        bells := s.bells.set e.bell.val { h with heat := heat + p2, heatAt := now, lastFire := some now },
        strikeAccount := open_ ++ [{ group := g, bell := e.bell, current := b.coilCurrent,
                                     windowEnd := now + ((p2 + 999) / 1000 : Nat) }],
        launch := { fired.launch with
          counters := { c with
            heatTrimmed := if p2 < p1 then min (c.heatTrimmed + 1) 4294967295 else c.heatTrimmed,
            lateFired := if e.fire0 < now then min (c.lateFired + 1) 4294967295 else c.lateFired },
          greatestLateness := max s.launch.greatestLateness (min (now - e.fire0).toNat 65535) } } : State).joinAssembly
        b.board (b.channel, p2)))) ∧
  (∀ (s : State) (g : Fin 4),
    s.strikeSum g = ((s.strikeAccount.filter (fun a => a.group = g)).map (fun a => a.current)).sum ∧
    s.motorSum g = ((List.finRange 16).map (fun x : Fin 16 => match s.figs[x].admitted with
      | some (ma, h) => if h = g then ma else 0
      | none => 0)).sum ∧
    (s.earliestEnd g = none ↔ ∀ a ∈ s.strikeAccount, a.group ≠ g) ∧
    (∀ t, s.earliestEnd g = some t ↔ (∃ a ∈ s.strikeAccount, a.group = g ∧ a.windowEnd = t) ∧
      ∀ a ∈ s.strikeAccount, a.group = g → t ≤ a.windowEnd)) ∧
  ∀ s : State,
    let closed (u : State) (close : OpenFrame → Bool) : State := (u.launch.assembly.filter close).foldl State.offerFrame
      { u with launch := { u.launch with assembly := u.launch.assembly.filter (fun o => !close o) } }
    let assembled (l : List OpenFrame) : State :=
      closed { s with launch := { s.launch with assembly := l } } (fun o => decide (8 ≤ o.pairs.length))
    (∀ o : OpenFrame,
      let n := o.pairs.length
      let c := s.launch.counters
      let payload := byteOf n :: o.pairs.flatMap (fun p => byteOf p.1.val :: leBytes 2 p.2)
      (s.tail.strikeQueue.length < 8 → s.offerFrame o = { s with
        tail := { s.tail with strikeQueue :=
          s.tail.strikeQueue ++ [formFrame s.boardRecs[o.board].address s.node 0x40 payload] },
        launch := { s.launch with counters := { c with emitted := min (c.emitted + n) 4294967295 } } }) ∧
      (8 ≤ s.tail.strikeQueue.length → s.offerFrame o = { s with launch := { s.launch with counters := { c with
        skipped := min (c.skipped + n) 4294967295, skipOutOverrun := min (c.skipOutOverrun + n) 4294967295 } } })) ∧
    (∀ (b : Fin 32) (pair : Fin 16 × Nat),
      ((∀ o ∈ s.launch.assembly, o.board ≠ b) →
        s.joinAssembly b pair = assembled (s.launch.assembly ++ [{ board := b, pairs := [pair] }])) ∧
      (∀ before o after, s.launch.assembly = before ++ o :: after → (∀ x ∈ before, x.board ≠ b) → o.board = b →
        s.joinAssembly b pair = assembled (before ++ { o with pairs := o.pairs ++ [pair] } :: after))) ∧
    ((∀ e rest, s.launch.waiting = e :: rest → s.clock.time < e.fire) → s.endBatch = closed s (fun _ => true)) ∧
    (∀ e rest, s.launch.waiting = e :: rest → e.fire ≤ s.clock.time → s.endBatch = s) ∧
    s.held = s.launch.waiting.length + (s.launch.assembly.map (fun o => o.pairs.length)).sum ∧
    (∀ before : Nat, 256 ≤ before → s.held < 256 → s.noticeRoom before = { s with
      runs := s.runs.map (fun r => if r.paused then { r with roomNotice := true } else r) }) ∧
    (∀ before : Nat, (before < 256 ∨ 256 ≤ s.held) → s.noticeRoom before = s)

/-- A time step of `d` moves the entries of runs and leaves those of cues, purges the cue entries outside the expiry
and horizon bounds, and keeps the order among equal fire times (R70, R71); it moves the anchor and the mark times of
every run that is not FREE (R98). -/
def Obligations.StepsMoveRuns : Prop :=
  ∀ (s : State) (d : Int),
    (let moved := s.launch.waiting.map (fun e => match e.origin with
        | .cue => e
        | .run _ => { e with sound := e.sound + d, fire := e.fire + d, fire0 := e.fire0 + d })
     let purged := fun (e : LaunchEntry) => decide (e.origin = .cue ∧
        (e.fire < s.clock.time - s.mgmt.settings.expiry ∨ s.clock.time + 10000 < e.fire))
     let t := s.launchStep d
     t.inFireOrder ∧
     (∀ fire : Int, t.launch.waiting.filter (fun e => e.fire = fire) =
        (moved.filter (fun e => !purged e)).filter (fun e => e.fire = fire)) ∧
     t.launch.counters.purged = min (s.launch.counters.purged + moved.countP purged) 4294967295 ∧
     t.launch.counters.stepPurged = min (s.launch.counters.stepPurged + moved.countP purged) 4294967295) ∧
    (∀ k : Fin 4,
      (s.runs[k].state = .free → (s.runStep d).runs[k] = s.runs[k]) ∧
      (s.runs[k].state ≠ .free → (s.runStep d).runs[k] = { s.runs[k] with
        anchor := s.runs[k].anchor + d, marks := s.runs[k].marks.map (fun m => m.map (fun x => x + d)),
        barrier := s.runs[k].barrier.map (fun b => { b with time := b.time + d }) }))

/-! Runs. -/

/-- A MOTIF_PLAY cue creates a motif run in the lowest FREE slot with its parameters clamped, raises MOTIF_STARTED and
begins to expand, its first expansion step inside this row and after the event (the model's choices, log entries 1 and
46); with no FREE slot it is refused (R82, R94). This speaks of a motif index below 64; one above is judged before the
slots (the model's choice, log entry 53). -/
def Obligations.MotifPlayCreatesARun : Prop :=
  ∀ (s : State) (f : List Byte) (m : Fin 64) (anchor tempo : Nat) (transpose : Int) (scale count : Nat),
    s.cued f .motifPlay = true → s.mgmt.engine = .run →
    readCue (framePayload f) = some (.motifPlay m.val anchor tempo transpose scale count) →
    (anchor = 0 ∨ s.clock.state ≠ .unset) →
    (∀ k : Fin 4, s.runs[k].state = .free → (∀ j : Fin 4, j < k → s.runs[j].state ≠ .free) →
      let run : Run :=
        { state := .playing, kind := .motif, showId := none, topMotif := m, origin := .cue,
          anchor := if anchor = 0 then s.clock.time + 300 else (anchor : Int),
          tempo := max 50 (min 200 tempo), count := count, position := 0,
          stack := [{ motif := m, nextRow := s.motifDirs[m].firstRow, repeatsLeft := 1,
                      transpose := max (-24) (min 24 transpose), scale := max 1 (min 128 scale) }],
          barrier := none, marks := Vector.replicate 16 none, paused := false, roomNotice := false, zeroCount := 0,
          cursor := 0, progress := [], planned := 0, lost := 0, nestTooDeep := 0, holdTotal := 0 }
      exec (.motifPlay f) s = .next
        ((({ s with runs := s.runs.set k.val run } : State).raise .motifStarted k.val (256 + m.val)).expand k)) ∧
    ((∀ k : Fin 4, s.runs[k].state ≠ .free) → exec (.motifPlay f) s = .next (s.raise .cueRefused 9 (256 * 2)))

/-- A REST row raises P by its delta and moves the top frame's next row to the following row; no request is made, and a
REST of delta 0 advances the row and not the position (R86). P saturates (R83), and the zero-time guard ends the step
(R91): the row has its effect, and then the run is cancelled (the model's order, log entry 18) and the head of the show
queue judged for the slot it frees (R145; log entry 36). -/
def Obligations.RestRow : Prop :=
  ∀ (s : State) (k : Fin 4) (f : StackFrame) (fs : List StackFrame) (delta : Nat),
    s.expands k = true → s.runs[k].stack = f :: fs →
    f.nextRow < s.motifDirs[f.motif].firstRow + s.motifDirs[f.motif].rowCount →
    s.rows[f.nextRow]? = some (.rest delta) →
    let r := s.runs[k]
    let put (x : Run) : State := { s with runs := s.runs.set k.val x }
    let done : Run := { r with
      position := min (r.position + delta) 4294967295, stack := { f with nextRow := f.nextRow + 1 } :: fs }
    let raised := 0 < delta ∧ r.position + delta ≤ 4294967295
    (raised → exec (.expansionStep k) s = .next (put { done with zeroCount := 0 })) ∧
    (¬raised → r.zeroCount < 255 →
      exec (.expansionStep k) s = .next (put { done with zeroCount := r.zeroCount + 1 })) ∧
    (¬raised → 255 ≤ r.zeroCount →
      exec (.expansionStep k) s = .next (s.judgeAfter ((put done).cancelRun k .zeroTimeGuard)))

/-- A NOTE row asks the strike planner for its transposed bell at its scaled velocity and the position's sound time. An
accepted or lost note is counted and the row is done; a full queue pauses the run at the row (R83, R85, R87). Where the
zero-time guard of R91 is met, the note is planned and counted first and the run cancelled after it (the model's order,
log entry 18), and then the head of the show queue is judged (R145; log entry 36). -/
def Obligations.NoteRow : Prop :=
  ∀ (s : State) (k : Fin 4) (f : StackFrame) (fs : List StackFrame) (bell : Fin 48) (velocity delta : Nat),
    s.expands k = true → s.runs[k].stack = f :: fs →
    f.nextRow < s.motifDirs[f.motif].firstRow + s.motifDirs[f.motif].rowCount →
    s.rows[f.nextRow]? = some (.note bell velocity delta) →
    let r := s.runs[k]
    let target : Int := bell.val + f.transpose
    let sound : Int := r.anchor + ((r.position * 100 + r.tempo / 2) / r.tempo : Nat)
    let p := planStrike s { bell := target.toNat, velocity := (velocity * f.scale + 32) / 64, time := .soundAt sound,
                            origin := .run k }
    let rowDone (x : Run) : Run := { x with
      position := min (r.position + delta) 4294967295, stack := { f with nextRow := f.nextRow + 1 } :: fs }
    let planned : Run := rowDone { r with planned := min (r.planned + 1) 4294967295 }
    let lost : Run := rowDone { r with lost := min (r.lost + 1) 4294967295 }
    let raised := 0 < delta ∧ r.position + delta ≤ 4294967295
    let ends (u : State) (x : Run) : Prop :=
      (raised → exec (.expansionStep k) s = .next { u with runs := s.runs.set k.val { x with zeroCount := 0 } }) ∧
      (¬raised → r.zeroCount < 255 →
        exec (.expansionStep k) s = .next { u with runs := s.runs.set k.val { x with zeroCount := r.zeroCount + 1 } }) ∧
      (¬raised → 255 ≤ r.zeroCount → exec (.expansionStep k) s = .next
        (s.judgeAfter (State.cancelRun { u with runs := s.runs.set k.val x } k .zeroTimeGuard)))
    ((target < 0 ∨ 47 < target) → ends s lost) ∧
    (0 ≤ target → target ≤ 47 → p.1 = .accepted → ends p.2 planned) ∧
    (0 ≤ target → target ≤ 47 →
      (p.1 = .refused .bellInvalid ∨ p.1 = .refused .late ∨ p.1 = .refused .beyondHorizon) → ends p.2 lost) ∧
    (0 ≤ target → target ≤ 47 → p.1 = .refused .queueFull → exec (.expansionStep k) s = .next { p.2 with
      runs := s.runs.set k.val { r with paused := true, roomNotice := false } })

/-- A NEST row pushes a frame, is skipped when its repeat is 0, and is skipped and counted when the stack holds 4
frames; the outer motif goes on with the following row and the position does not move (R88, R89). The zero-time guard
ends the step (R91): the row has its effect, and then the run is cancelled (the model's order, log entry 18) and the
head of the show queue judged (R145; log entry 36). -/
def Obligations.NestRow : Prop :=
  ∀ (s : State) (k : Fin 4) (f : StackFrame) (fs : List StackFrame) (motif : Fin 64) (times : Nat) (transpose : Int)
      (scale : Nat),
    s.expands k = true → s.runs[k].stack = f :: fs →
    f.nextRow < s.motifDirs[f.motif].firstRow + s.motifDirs[f.motif].rowCount →
    s.rows[f.nextRow]? = some (.nest motif times transpose scale) → s.runs[k].position ≤ 4294967295 →
    let r := s.runs[k]
    let n := if times = 0 then r.count else times
    let done : Run := { r with stack := { f with nextRow := f.nextRow + 1 } :: fs }
    let ends (x : Run) : Prop :=
      (r.zeroCount < 255 → exec (.expansionStep k) s =
        .next { s with runs := s.runs.set k.val { x with zeroCount := r.zeroCount + 1 } }) ∧
      (255 ≤ r.zeroCount → exec (.expansionStep k) s =
        .next (s.judgeAfter (State.cancelRun { s with runs := s.runs.set k.val x } k .zeroTimeGuard)))
    (n = 0 → ends done) ∧
    (n ≠ 0 → 4 ≤ (f :: fs).length → ends { done with nestTooDeep := min (r.nestTooDeep + 1) 65535 }) ∧
    (n ≠ 0 → (f :: fs).length < 4 → ends { done with
      stack := { motif := motif, nextRow := s.motifDirs[motif].firstRow, repeatsLeft := n,
                 transpose := f.transpose + transpose, scale := clamp 1 128 ((f.scale * scale + 32) / 64) } ::
        done.stack })

/-- A MARK row sets its mark time to the sound time of the position and, for a show run with a move outstanding that
arrives at the mark, sets the barrier; the cursor is judged at the setting (R92, R148). The end of a motif's rows plays
the motif again or returns to the frame below; the end of the top motif makes the run DRAINING, with the moves whose
marks were not met UNREACHED (R90, R149). The zero-time guard ends each of these steps (R91): the step has its effect,
then the run is cancelled, even where R95 would complete it, and the cursor is judged after that (the model's
choices, log entry 18), all inside this row
(log entry 1); the head of the show queue is judged last (R145; log entry 36). -/
def Obligations.MarkAndMotifEnd : Prop :=
  ∀ (s : State) (k : Fin 4) (f : StackFrame) (fs : List StackFrame),
    s.expands k = true → s.runs[k].stack = f :: fs → s.runs[k].position ≤ 4294967295 →
    let r := s.runs[k]
    let range := s.motifDirs[f.motif].firstRow + s.motifDirs[f.motif].rowCount
    let sound : Int := r.anchor + ((r.position * 100 + r.tempo / 2) / r.tempo : Nat)
    let guarded (u : State) (x : Run) (t : State) : Prop :=
      (r.zeroCount < 255 → t = { u with runs := s.runs.set k.val { x with zeroCount := r.zeroCount + 1 } }) ∧
      (255 ≤ r.zeroCount → t = State.cancelRun { u with runs := s.runs.set k.val x } k .zeroTimeGuard)
    (∀ m : Fin 16, f.nextRow < range → s.rows[f.nextRow]? = some (.mark m) →
      let outstanding := ∃ x ∈ (s.runMoves r).zip r.progress, x.1.arriveMark = some m ∧
        (x.2 = .notIssued ∨ x.2 = .issued)
      let marked : Run := { r with
        stack := { f with nextRow := f.nextRow + 1 } :: fs, marks := r.marks.set m.val (some sound) m.isLt }
      let barred : Run := { marked with barrier := some { mark := m, time := sound } }
      (outstanding → ∃ t, exec (.expansionStep k) s = .next (s.judgeAfter (t.judgeCursor k)) ∧ guarded s barred t) ∧
      (¬outstanding → ∃ t, exec (.expansionStep k) s = .next (s.judgeAfter (t.judgeCursor k)) ∧ guarded s marked t)) ∧
    (let again : StackFrame := { f with
       repeatsLeft := f.repeatsLeft - 1, nextRow := s.motifDirs[f.motif].firstRow }
     range ≤ f.nextRow → 1 < f.repeatsLeft →
       ∃ t, exec (.expansionStep k) s = .next (s.judgeAfter t) ∧ guarded s { r with stack := again :: fs } t) ∧
    (range ≤ f.nextRow → f.repeatsLeft ≤ 1 → fs ≠ [] →
      ∃ t, exec (.expansionStep k) s = .next (s.judgeAfter t) ∧ guarded s { r with stack := fs } t) ∧
    (range ≤ f.nextRow → f.repeatsLeft ≤ 1 → fs = [] →
      let after (m : MoveEntry) (p : Progress) : Progress :=
        if p = .notIssued ∧ r.marks[m.startMark] = none then .unreached else p
      let progress := List.zipWith after (s.runMoves r) r.progress
      let missed := progress.countP (fun p => p = .unreached) - r.progress.countP (fun p => p = .unreached)
      let counted : ShowUnit := { s.showUnit with counters := { s.showUnit.counters with
        moveUnreached := min (s.showUnit.counters.moveUnreached + missed) 4294967295 } }
      ∃ t, exec (.expansionStep k) s = .next (s.judgeAfter (t.judgeCursor k)) ∧
        guarded { s with showUnit := counted } { r with stack := [], state := .draining, progress := progress } t)

/-- A run expands while it is PLAYING with no barrier, not paused, and its position sounds within the lookahead (R84).
A paused run that has been told of room leaves the pause and takes its row again, in an expansion step inside the row
(R87; the model's choice, log entry 1); a DRAINING run whose strikes have left the launch queue and whose moves have
ended becomes FREE, raises SHOW_DONE or MOTIF_DONE and releases its figures (R95, R99). The head of the show queue is
judged for the slot and the figures that are freed (R145, R153; log entry 36). A row whose event has not come has no
effect (the model's choice, log entry 2). -/
def Obligations.RunsResumeAndComplete : Prop :=
  ∀ (s : State) (k : Fin 4),
    let r := s.runs[k]
    let resumed : State := { s with runs := s.runs.set k.val { r with paused := false, roomNotice := false } }
    let sound : Int := r.anchor + ((r.position * 100 + r.tempo / 2) / r.tempo : Nat)
    (s.expands k = true ↔ r.state = .playing ∧ r.barrier = none ∧ r.paused = false ∧
      sound ≤ s.clock.time + s.mgmt.settings.lookahead) ∧
    (s.expands k = false → exec (.expansionStep k) s = .next s) ∧
    exec (.expansionStep k) s = .next (s.judgeAfter (s.expand k)) ∧
    (r.paused = true → r.roomNotice = true →
      exec (.runPauseResume k) s = .next (s.judgeAfter (resumed.expand k))) ∧
    ((r.paused = false ∨ r.roomNotice = false) → exec (.runPauseResume k) s = .next s) ∧
    (r.state = .draining → (∀ e ∈ s.launch.waiting, e.origin ≠ .run k) →
      (∀ p ∈ r.progress, p = .arrived ∨ p = .failed ∨ p = .unreached) →
      let released := s.figs.map (fun x => if x.owner = some k then { x with owner := none } else x)
      let freed : State := { s with runs := s.runs.set k.val { r with state := .free }, figs := released }
      (∀ w, r.showId = some w → exec (.runComplete k) s =
        .next (s.judgeAfter (freed.raise .showDone k.val w.val))) ∧
      (r.showId = none → exec (.runComplete k) s =
        .next (s.judgeAfter (freed.raise .motifDone k.val (256 + r.topMotif.val))))) ∧
    ((r.state ≠ .draining ∨ (∃ e ∈ s.launch.waiting, e.origin = .run k) ∨
        ∃ p ∈ r.progress, p = .notIssued ∨ p = .issued) →
      exec (.runComplete k) s = .next s)

/-! Shows. -/

/-- A SHOW_START cue of an enabled show that is neither queued nor played, fits the active bank and finds a place joins
the end of the queue, and is judged if it is the head (R142, R143, R145); each check that fails refuses it with its
reason, in order, and the first show dropped as fitting nowhere is captured. A show fits a bank with no entries or with
every span open; else when its scaled length is at most the length of a stretch of open spans, taken round the cycle as
a ring (R143). -/
def Obligations.ShowStartQueues : Prop :=
  (∀ (s : State) (f : List Byte) (w : Fin 32) (anchor tempo count : Nat),
    s.cued f .showStart = true → s.mgmt.engine = .run →
    readCue (framePayload f) = some (.showStart w.val anchor tempo count) → (anchor = 0 ∨ s.clock.state ≠ .unset) →
    let t := if tempo = 0 then s.shows[w].tempo else max 50 (min 200 tempo)
    let held := (∃ q ∈ s.showUnit.queue, q.showId = w) ∨ ∃ k : Fin 4, s.runs[k].state ≠ .free ∧ s.runs[k].showId = some w
    let u := s.showUnit
    let c := u.counters
    let joined : ShowRequest :=
      { showId := w, count := count, tempo := t, anchor := if anchor = 0 then none else some (anchor : Int),
        origin := .cue, cyclesWaited := 0 }
    let counting (d : ShowCounters) : State := { s with showUnit := { u with counters := d } }
    let captured : ShowUnit := { u with
      counters := { c with fitsNowhere := min (c.fitsNowhere + 1) 4294967295 },
      capture := match u.capture with
        | none => some (w, (s.shows[w].declaredLength * 100 + t / 2) / t)
        | some x => some x }
    (s.shows[w].enabled = false → exec (.showStart f) s = .next
      ((counting { c with invalid := min (c.invalid + 1) 4294967295 }).raise .cueRefused 10 768)) ∧
    (s.shows[w].enabled = true → held → exec (.showStart f) s = .next
      ((counting { c with duplicate := min (c.duplicate + 1) 4294967295 }).raise .cueRefused 11 768)) ∧
    (s.shows[w].enabled = true → ¬held → s.fitsActive w t = false → exec (.showStart f) s = .next
      (({ s with showUnit := captured } : State).raise .cueRefused 12 768)) ∧
    (s.shows[w].enabled = true → ¬held → s.fitsActive w t = true → 8 ≤ u.queue.length → exec (.showStart f) s = .next
      ((counting { c with queueFull := min (c.queueFull + 1) 4294967295 }).raise .cueRefused 13 768)) ∧
    (s.shows[w].enabled = true → ¬held → s.fitsActive w t = true → u.queue.length < 8 →
      exec (.showStart f) s = .next (s.judgeAfter { s with showUnit := { u with
        queue := u.queue ++ [joined],
        counters := { c with requests := min (c.requests + 1) 4294967295 } } }))) ∧
  (∀ (s : State) (w : Fin 32) (tempo : Nat), s.fitsActive w tempo =
    (match s.calendar.active with
      | .a => s.calendar.bankA
      | .b => s.calendar.bankB).fits s.shows[w].need ((s.shows[w].declaredLength * 100 + tempo / 2) / tempo)) ∧
  ∀ (b : Bank) (need : GateNeed) (length : Nat),
    let entries := b.entries.toList.take b.count
    let opens (e : SchedEntry) : Bool := match need with
      | .bells => e.bellGate = .opened
      | .figures => e.figureGate = .opened
      | .both => e.bellGate = .opened && e.figureGate = .opened
    let ends : List Nat := (entries.drop 1).map (fun e => e.offset) ++ (entries.take 1).map (fun e => e.offset + b.cycle)
    let spans : List (Nat × Bool) := List.zipWith (fun e next => (next - e.offset, opens e)) entries ends
    (b.fits need length = true ↔ entries = [] ∨ (∀ e ∈ entries, opens e = true) ∨
      ∃ front back stretch rest, spans = front ++ back ∧ back ++ front = stretch ++ rest ∧
        (∀ x ∈ stretch, x.2 = true) ∧ length ≤ (stretch.map (fun x => x.1)).sum)

/-- A SHOW_STOP cue removes a queued show with SHOW_DROPPED, reason STOPPED; cancels a show that is played: its run
becomes FREE, its waiting strikes are purged, its moves are withdrawn and its figures become unowned; and is refused
otherwise (R96, R153). A figure whose current move is the run's becomes IDLE if it waits or is HELD, releases the zones
away from its position and takes a move of another requester from its slot; under way it is asked to STOP and enters
STOPPING with stop end IDLE, or faults with BOARD_ABSENT if its board is ABSENT (R128; log entry 26); in STOPPING its
stop end becomes IDLE; in FAULT it stays (R123). A next move of the run leaves the slot. No counter rises for a
withdrawn move (the model's choice, log entry 15). After a removal or a cancellation the head of the show queue is
judged (R145, R153; log entry 36). -/
def Obligations.ShowStopEndsTheShow : Prop :=
  ∀ (s : State) (f : List Byte) (w : Fin 32), s.cued f .showStop = true → s.mgmt.engine = .run →
    readCue (framePayload f) = some (.showStop w.val) →
    let played := ∃ k : Fin 4, s.runs[k].state ≠ .free ∧ s.runs[k].showId = some w
    let queued := ∃ q ∈ s.showUnit.queue, q.showId = w
    let left : ShowUnit := { s.showUnit with queue := s.showUnit.queue.filter (fun q => q.showId ≠ w) }
    (¬played → queued → exec (.showStop f) s = .next
      (s.judgeAfter (({ s with showUnit := left } : State).raise .showDropped w.val 5))) ∧
    (¬played → ¬queued → exec (.showStop f) s = .next (s.raise .cueRefused 14 1024)) ∧
    (∀ k : Fin 4, s.runs[k].state ≠ .free → s.runs[k].showId = some w →
      (∀ j : Fin 4, j ≠ k → s.runs[j].state = .free ∨ s.runs[j].showId ≠ some w) →
      ∃ t, exec (.showStop f) s = .next (s.judgeAfter t) ∧ t.runs[k].state = .free ∧ t.runs[k].stack = [] ∧
        (∀ e ∈ t.launch.waiting, e.origin ≠ .run k) ∧ (∀ x : Fin 16, t.figs[x].owner ≠ some k) ∧
        t.showUnit.queue = s.showUnit.queue ∧ t.written = s.written ∧ t.clock = s.clock ∧
        let ofRun (m : Option Move) : Prop := ∃ y i, m = some y ∧ y.requester = .run k i ∧ y.withdrawn = false
        ∀ (x : Fin 16) (left : Option Move),
          ((ofRun s.figs[x].nextMove ∧ left = none) ∨ (¬ofRun s.figs[x].nextMove ∧ left = s.figs[x].nextMove)) →
          let fig := s.figs[x]
          let r := s.figRecs[x]
          let unowned (y : Figure) : Figure := { y with owner := if y.owner = some k then none else y.owner }
          let keepsZones := ∀ z : Fin 24, s.zones[z] = some x → t.zones[z] = some x
          (¬ofRun fig.current → t.figs[x] = unowned { fig with nextMove := left } ∧ keepsZones) ∧
          ∀ m i, fig.current = some m → m.requester = .run k i → m.withdrawn = false →
            let waits := fig.state = .waitZone ∨ fig.state = .waitSupply ∨ fig.state = .held
            let rested : Figure := { fig with
              state := if m.goal = .home then .unhomed else .idle, current := none, nextMove := none, waitStart := none }
            let ended : Option Move := some { m with withdrawn := true }
            (waits →
              (left = none → t.figs[x] = unowned rested) ∧
              (∀ n, left = some n → ∃ u : State, u.figs[x] = rested ∧ u.calendar = s.calendar ∧ u.figRecs = s.figRecs ∧
                u.boardRecs = s.boardRecs ∧ u.clock = s.clock ∧ t.figs[x] = unowned (u.takeMove x n).figs[x]) ∧
              ∀ z : Fin 24, s.zones[z] = some x →
                t.zones[z] = if z ∈ zonesAt r fig.position then some x else none) ∧
            ((fig.state = .starting ∨ fig.state = .moving) → s.boards[r.board].presence ≠ .absent →
              t.figs[x] = unowned { fig with
                state := .stopping, stopEnd := .idle, travelDeadline := none, commandDone := false, current := ended,
                nextMove := left } ∧
              keepsZones ∧ ∃ c ∈ t.boards[r.board].commands, c.op = .stop ∧ x ∈ c.owners) ∧
            ((fig.state = .starting ∨ fig.state = .moving) → s.boards[r.board].presence = .absent →
              t.figs[x] = unowned { fig with
                state := .fault, faultCause := some .boardAbsent, stopEnd := .idle, travelDeadline := none,
                commandDone := false, current := none, nextMove := none, waitStart := none, waitUsed := 0,
                admitted := none,
                movesFailed := if left = none then fig.movesFailed else min (fig.movesFailed + 1) 65535 } ∧
              keepsZones) ∧
            (fig.state = .stopping →
              t.figs[x] = unowned { fig with stopEnd := .idle, current := ended, nextMove := left } ∧ keepsZones) ∧
            (fig.state = .fault → t.figs[x] = unowned { fig with nextMove := left } ∧ keepsZones))

/-- An ALL_STOP cue empties the show queue, leaves every run FREE and the waiting list empty, clears the owners of the
figures of its runs, withdraws the moves of the runs and withdraws every live move, which is reported by LIVE_MOVE_DONE
as FAILED (R73, R96, R123, R141, R174): a figure that waits or is HELD becomes IDLE and releases the zones away from its
position, one under way is asked to STOP and enters STOPPING with stop end IDLE, or faults with BOARD_ABSENT if its
board is ABSENT (R128; log entry 26), and in STOPPING the stop end becomes IDLE. A live move in the slot behind a run's
is withdrawn too, but where the figure comes to rest at once it has been taken by R105 and may end as ARRIVED. Homings
and figures with no move go on as they were. A live move that is withdrawn counts in MOVES_FAILED and a run's does not
(log entry 15); the runs are cancelled before the live moves are withdrawn (the model's order, log entry 39). -/
def Obligations.AllStopStopsEverything : Prop :=
  ∀ (s : State) (f : List Byte), s.cued f .allStop = true → s.mgmt.engine = .run →
    ∃ t, exec (.allStop f) s = .next t ∧ t.showUnit.queue = [] ∧ (∀ k : Fin 4, t.runs[k].state = .free) ∧
      (∀ (x : Fin 16) (k : Fin 4), s.figs[x].owner = some k → s.runs[k].state ≠ .free → t.figs[x].owner = none) ∧
      t.launch.waiting = [] ∧ t.mgmt.engine = .run ∧ t.written = s.written ∧ t.clock = s.clock ∧
      t.calendar = s.calendar ∧ t.strikeAccount = s.strikeAccount ∧
      ∀ x : Fin 16,
        let fig := s.figs[x]
        let r := s.figRecs[x]
        let unowned (y : Figure) : Figure := { y with owner := match y.owner with
          | some k => if s.runs[k].state = .free then some k else none
          | none => none }
        let keepsZones := ∀ z : Fin 24, s.zones[z] = some x → t.zones[z] = some x
        let reports (arrived : Prop) : Prop := ∃ new, t.mgmt.events = s.mgmt.events ++ new ∧
          (s.mgmt.mask[2] = true → t.mgmt.events.length < 32 →
            ∃ e ∈ new, e.kind = .liveMoveDone ∧ e.arg1 = x.val ∧ (e.arg2 = 0 ∨ (arrived ∧ e.arg2 = 1)))
        let waits := fig.state = .waitZone ∨ fig.state = .waitSupply ∨ fig.state = .held
        let emptied := fig.nextMove = none ∨ ∃ n k i, fig.nextMove = some n ∧ n.requester = .run k i ∧
          n.withdrawn = false ∧ s.runs[k].state ≠ .free
        let stops (m : Move) (movesFailed : Nat) : Prop :=
          let ended : Option Move := some { m with withdrawn := true }
          ((fig.state = .starting ∨ fig.state = .moving) → s.boards[r.board].presence ≠ .absent →
            t.figs[x] = unowned { fig with
              state := .stopping, stopEnd := .idle, travelDeadline := none, commandDone := false, current := ended,
              nextMove := none, movesFailed := movesFailed } ∧
            keepsZones ∧ ∃ c ∈ t.boards[r.board].commands, c.op = .stop ∧ x ∈ c.owners) ∧
          ((fig.state = .starting ∨ fig.state = .moving) → s.boards[r.board].presence = .absent →
            t.figs[x] = unowned { fig with
              state := .fault, faultCause := some .boardAbsent, stopEnd := .idle, travelDeadline := none,
              commandDone := false, current := none, nextMove := none, waitStart := none, waitUsed := 0,
              admitted := none, movesFailed := movesFailed } ∧ keepsZones) ∧
          (fig.state = .stopping →
            t.figs[x] = unowned { fig with
              stopEnd := .idle, current := ended, nextMove := none, movesFailed := movesFailed } ∧ keepsZones)
        let ends (m : Move) (movesFailed : Nat) : Prop :=
          (waits → t.figs[x] = unowned { fig with
              state := if m.goal = .home then .unhomed else .idle, current := none, nextMove := none, waitStart := none,
              movesFailed := movesFailed } ∧
            ∀ z : Fin 24, s.zones[z] = some x →
              t.zones[z] = if z ∈ zonesAt r fig.position then some x else none) ∧
          stops m movesFailed
        (∀ m, fig.current = some m → m.requester = .cue → m.withdrawn = false →
          reports False ∧
          (emptied → ends m (min (fig.movesFailed + 1) 65535)) ∧
          (∀ n, fig.nextMove = some n → n.requester = .cue → n.withdrawn = false →
            ends m (min (fig.movesFailed + 2) 65535))) ∧
        (∀ m k i, fig.current = some m → m.requester = .run k i → m.withdrawn = false → s.runs[k].state ≠ .free →
          (fig.nextMove = none → ends m fig.movesFailed) ∧
          (∀ n, fig.nextMove = some n → n.requester = .cue → n.withdrawn = false →
            stops m (min (fig.movesFailed + 1) 65535) ∧
            (waits ∨ fig.state = .starting ∨ fig.state = .moving ∨ fig.state = .stopping → reports waits) ∧
            (waits → (t.figs[x].state = .idle ∨ t.figs[x].state = .unhomed) ∧ t.figs[x].current = none ∧
              t.figs[x].nextMove = none))) ∧
        ((fig.current = none ∨ ∃ m, fig.current = some m ∧ (m.requester = .mgmt ∨ m.withdrawn = true)) →
          (emptied → t.figs[x] = unowned { fig with nextMove := none } ∧ keepsZones) ∧
          (∀ n, fig.nextMove = some n → n.requester = .cue → n.withdrawn = false →
            reports False ∧ keepsZones ∧ t.figs[x] = unowned { fig with
              nextMove := none, movesFailed := min (fig.movesFailed + 1) 65535 }))

/-- An admissible head is admitted to the lowest FREE slot: it leaves the queue, a show run is created at the start of
R144, the healthy figures of its moves become owned, SHOW_STARTED is raised and the run begins, inside the row and after
the event (the model's choices, log entries 1 and 46); then the new head is judged; a head that is not admissible waits
(R82, R144, R146). A head is admissible when the engine is in RUN, a slot is FREE, no healthy figure of its moves is
owned, the effective gates are open now, and the active bank's list gates are open over the show (R144, R157, R159).
ENTRY_LEAD_JUDGE judges the head once the lead of an entry is reached, by the model's own record of the leads it has
taken (log entry 14), and has no effect before it (log entry 2). What an event leads to is followed by a judgement when
another entry is the head, a slot has become FREE, a figure has become unowned, FAULT, UNHOMED or disabled, or an
effective gate has changed (R145); that the judgement comes after the event's other effects is the model's order (log
entry 36). -/
def Obligations.HeadsAreAdmitted : Prop :=
  (∀ (s : State) (q : ShowRequest) (rest : List ShowRequest), s.showUnit.queue = q :: rest →
    let w := s.shows[q.showId]
    let start : Int := match q.anchor with
      | some a => if s.clock.time + 300 ≤ a then a else s.clock.time + 300
      | none => s.clock.time + 300
    (s.admissible q = true → ∀ k : Fin 4, s.runs[k].state = .free → (∀ j : Fin 4, j < k → s.runs[j].state ≠ .free) →
      let run : Run := { Run.initial with
        state := .playing, kind := .show, showId := some q.showId, topMotif := w.topMotif, origin := q.origin,
        anchor := start, tempo := q.tempo, count := q.count,
        stack := [{ motif := w.topMotif, nextRow := s.motifDirs[w.topMotif].firstRow, repeatsLeft := 1,
                    transpose := 0, scale := 64 }],
        progress := List.replicate (s.movesOf w).length .notIssued }
      let u := s.showUnit
      let admitted : ShowUnit := { u with
        queue := rest, counters := { u.counters with admitted := min (u.counters.admitted + 1) 4294967295 } }
      let owned := Vector.ofFn (fun x : Fin 16 =>
        if s.healthy x = true ∧ ∃ m ∈ s.movesOf w, m.figure = x then { s.figs[x] with owner := some k } else s.figs[x])
      let begun : State := { s with showUnit := admitted, runs := s.runs.set k.val run, figs := owned }
      exec .showAdmission s = exec .showAdmission ((begun.raise .showStarted k.val q.showId.val).beginRun k)) ∧
    (s.admissible q = false → exec .showAdmission s = .next s)) ∧
  (∀ s : State, s.showUnit.queue = [] → exec .showAdmission s = .next s) ∧
  (∀ (s : State) (q : ShowRequest),
    let w := s.shows[q.showId]
    let c := s.calendar
    let bank := match c.active with
      | .a => c.bankA
      | .b => c.bankB
    let entries := bank.entries.toList.take bank.count
    let start : Int := match q.anchor with
      | some a => if s.clock.time + 300 ≤ a then a else s.clock.time + 300
      | none => s.clock.time + 300
    let length : Nat := (w.declaredLength * 100 + q.tempo / 2) / q.tempo
    let position : Int := if start < c.cycleStart then start - c.cycleStart else (start - c.cycleStart) % bank.cycle
    let met (bells figures : Prop) : Prop := match w.need with
      | .bells => bells
      | .figures => figures
      | .both => bells ∧ figures
    let opens (e : SchedEntry) : Prop := met (e.bellGate = .opened) (e.figureGate = .opened)
    let inForce := match (entries.filter (fun e => decide ((e.offset : Int) ≤ position))).getLast? with
      | some e => some e
      | none => entries.getLast?
    (s.admissible q = true ↔ s.mgmt.engine = .run ∧ (∃ k : Fin 4, s.runs[k].state = .free) ∧
      (∀ m ∈ s.movesOf w, s.healthy m.figure = true → s.figs[m.figure].owner = none) ∧
      met (c.bellsOpen = true) (c.figuresOpen = true) ∧ (∀ e, inForce = some e → opens e) ∧
      ∀ (n : Nat) (e : SchedEntry), e ∈ entries → start < c.cycleStart + n * bank.cycle + e.offset →
        c.cycleStart + n * bank.cycle + e.offset < start + length → opens e) ∧
    s.movesOf w = (s.moves.toList.drop w.firstMove).take w.moveCount ∧
    (∀ x : Fin 16, s.healthy x = true ↔
      s.figRecs[x].enabled = true ∧ s.figs[x].state ≠ .fault ∧ s.figs[x].state ≠ .unhomed) ∧
    (c.bellsOpen = true ↔ c.listBells = .opened ∧ c.override = none) ∧
    (c.figuresOpen = true ↔ c.listFigures = .opened ∧ ∀ o, c.override = some o → o.level ≠ .all) ∧
    (s.leadReached = true ↔ ∃ e ∈ entries, ∃ te : Int,
      (te = c.cycleStart + e.offset ∨ te = c.cycleStart + e.offset + bank.cycle) ∧
      c.leadsTaken < te - 300 ∧ te - 300 ≤ s.clock.time)) ∧
  (∀ s : State,
    (s.leadReached = true → exec .entryLeadJudge s =
      exec .showAdmission { s with calendar := { s.calendar with leadsTaken := s.clock.time } }) ∧
    (s.leadReached = false → exec .entryLeadJudge s = .next s)) ∧
  ∀ before after : State,
    let head (s : State) : Option (Fin 32) := s.showUnit.queue.head?.map (fun q => q.showId)
    let freed (x : Fin 16) : Prop := (before.figs[x].owner ≠ none ∧ after.figs[x].owner = none) ∨
      ((after.figs[x].state = .fault ∨ after.figs[x].state = .unhomed) ∧ after.figs[x].state ≠ before.figs[x].state) ∨
      (before.figRecs[x].enabled = true ∧ after.figRecs[x].enabled = false)
    let judged : Prop := head after ≠ head before ∨
      (∃ k : Fin 4, before.runs[k].state ≠ .free ∧ after.runs[k].state = .free) ∨ (∃ x, freed x) ∨
      after.calendar.bellsOpen ≠ before.calendar.bellsOpen ∨ after.calendar.figuresOpen ≠ before.calendar.figuresOpen
    (judged → exec .showAdmission after = .next (before.judgeAfter after)) ∧
    (¬judged → before.judgeAfter after = after)

/-- At its barrier's mark time a PLAYING run becomes HOLDING; with a grace of 0 it is released at the same event (R150).
When the awaited moves have ended the barrier clears; from HOLDING the anchor, the mark time and HOLD_TOTAL take the
hold length (R151). At the hold deadline the barrier is released with LATE_FIGURE (R152). Then the cursor is judged and
the run takes its first step, inside the row and after the event (the model's choices, log entries 1 and 46), and the
head of the show queue is judged last (R145; log entry 36). A row whose event has not come has no effect (the model's
choice, log entry 2). -/
def Obligations.BarriersHoldAndClear : Prop :=
  (∀ (s : State) (k : Fin 4) (b : Barrier), s.runs[k].barrier = some b →
    let r := s.runs[k]
    let now := s.clock.time
    let released : Run := { r with
      anchor := r.anchor + (now - b.time), marks := r.marks.set b.mark.val (some now) b.mark.isLt,
      holdTotal := min (r.holdTotal + (now - b.time).toNat) 4294967295, barrier := none, state := .playing }
    let ended := ∀ x ∈ (s.runMoves r).zip r.progress, x.1.arriveMark = some b.mark →
      x.2 = .arrived ∨ x.2 = .failed ∨ x.2 = .unreached
    let grace := match r.showId with
      | some w => s.shows[w].grace
      | none => 0
    let counters := s.showUnit.counters
    let setRun (x : Run) : State := { s with runs := s.runs.set k.val x }
    let late : ShowUnit := { s.showUnit with
      counters := { counters with lateFigure := min (counters.lateFigure + 1) 4294967295 } }
    let id : Nat := match r.showId with
      | some w => w.val
      | none => 256 + r.topMotif.val
    let overdue : State := State.raise { setRun released with showUnit := late } .lateFigure k.val (256 * b.mark.val + id)
    (r.state = .playing → b.time ≤ now → 0 < grace →
      exec (.barrierMarkTime k) s = .next (setRun { r with state := .holding })) ∧
    (r.state = .playing → b.time ≤ now → grace = 0 →
      exec (.barrierMarkTime k) s = .next (s.judgeAfter (overdue.beginRun k))) ∧
    ((r.state ≠ .playing ∨ now < b.time) → exec (.barrierMarkTime k) s = .next s) ∧
    (r.state = .playing → ended →
      exec (.barrierClear k) s = .next (s.judgeAfter ((setRun { r with barrier := none }).beginRun k))) ∧
    (r.state = .holding → ended →
      exec (.barrierClear k) s = .next (s.judgeAfter ((setRun released).beginRun k))) ∧
    (¬ended → exec (.barrierClear k) s = .next s) ∧
    (r.state = .holding → b.time + grace ≤ now →
      exec (.holdDeadline k) s = .next (s.judgeAfter (overdue.beginRun k))) ∧
    ((r.state ≠ .holding ∨ now < b.time + grace) → exec (.holdDeadline k) s = .next s)) ∧
  ∀ (s : State) (k : Fin 4), ∃ t, exec (.moveStartTime k) s = .next t ∧ s.beginRun k = t.expand k ∧
    exec (.expansionStep k) t = .next (t.judgeAfter (t.expand k))

/-- When show time reaches the start time of the cursor's move, the move is issued to its figure, or fails without a
request when the run does not own the figure, and the cursor goes on to the next move; it waits for a mark that has no
time, for a barrier on the mark and for the start time, and passes a move that is no longer NOT_ISSUED (R148). The row
of a FREE run, or of one with no further move, has no effect (the model's choice, log entry 2). -/
def Obligations.CursorIssuesMoves : Prop :=
  ∀ (s : State) (k : Fin 4),
    let r := s.runs[k]
    ((r.state = .free ∨ (s.runMoves r).drop r.cursor = []) → exec (.moveStartTime k) s = .next s) ∧
    ∀ (m : MoveEntry) (ms : List MoveEntry), r.state ≠ .free → (s.runMoves r).drop r.cursor = m :: ms →
      let goesOn (u : State) : Prop := ∃ t, exec (.moveStartTime k) s = .next t ∧ exec (.moveStartTime k) u = .next t ∧
        (ms = [] → t = u)
      let barred := ∃ b, r.barrier = some b ∧ b.mark = m.startMark
      let failed : Run := { r with progress := r.progress.set r.cursor .failed, cursor := r.cursor + 1 }
      let issued : Run := { r with progress := r.progress.set r.cursor .issued }
      (r.progress[r.cursor]? ≠ some .notIssued →
        goesOn { s with runs := s.runs.set k.val { r with cursor := r.cursor + 1 } }) ∧
      (r.progress[r.cursor]? = some .notIssued → r.marks[m.startMark] = none → exec (.moveStartTime k) s = .next s) ∧
      ∀ t : Int, r.progress[r.cursor]? = some .notIssued → r.marks[m.startMark] = some t →
        ((barred ∨ s.clock.time < t + m.startDelay) → exec (.moveStartTime k) s = .next s) ∧
        (¬barred → t + m.startDelay ≤ s.clock.time → s.figs[m.figure].owner ≠ some k →
          goesOn { s with runs := s.runs.set k.val failed }) ∧
        (¬barred → t + m.startDelay ≤ s.clock.time → s.figs[m.figure].owner = some k →
          goesOn ((({ s with runs := s.runs.set k.val issued } : State).requestMove m.figure
            m.target m.speedPercent m.way (.run k r.cursor)).modRun k (fun x => { x with cursor := r.cursor + 1 })))

/-! Figures and zones. -/

/-- A FIGURE_GO cue for an enabled, unowned figure becomes a live move: of an IDLE figure with the gate open the current
move, waiting for its zones from now, or with the gate closed HELD, its needed zones left as they were last computed
(the model's choice, log entry 48); of a figure under way the next move. Owned figures and figures in UNHOMED, HOMING,
STOPPING or FAULT refuse it (R103, R105, R122). -/
def Obligations.LiveMovesAreTaken : Prop :=
  ∀ (s : State) (f : List Byte) (x : Fin 16) (target pct : Nat) (w : Way),
    s.cued f .figureGo = true → s.mgmt.engine = .run →
    readCue (framePayload f) = some (.figureGo x.val target pct w) →
    let fig := s.figs[x]
    let r := s.figRecs[x]
    let goal : MoveGoal := .go (match r.kind with
      | .linear => clamp r.softLo r.softHi target
      | .rotary => target % r.span) (max 1 (min 100 pct)) w
    let move : Move := { goal := goal, requester := .cue, withdrawn := false }
    let able := r.enabled = true ∧ s.boardRecs[r.board].enabled = true ∧ s.boardRecs[r.board].kind = .motion
    let taken (y : Figure) : State := { s with figs := s.figs.set x.val y }
    let free := fig.owner = none ∧ fig.state ≠ .unhomed ∧ fig.state ≠ .homing ∧ fig.state ≠ .stopping ∧ fig.state ≠ .fault
    let fresh := free ∧ able ∧ fig.state = .idle ∧ atTarget r goal fig.position = false
    (r.enabled = false → exec (.figureGo f) s = .next (s.raise .cueRefused 15 1280)) ∧
    (r.enabled = true → ¬free → exec (.figureGo f) s = .next (s.raise .cueRefused 16 1280)) ∧
    (r.enabled = true → free → ¬able → exec (.figureGo f) s = .next
      ((taken { fig with movesFailed := min (fig.movesFailed + 1) 65535 }).raise .liveMoveDone x.val 0)) ∧
    (fresh → s.calendar.figuresOpen = true → exec (.figureGo f) s = .next (taken { fig with
      state := .waitZone, current := some move, waitStart := some s.clock.time, waitUsed := 0,
      needed := neededZones r goal fig.position, resolvedWay := goalWay r goal fig.position })) ∧
    (fresh → s.calendar.figuresOpen = false → exec (.figureGo f) s = .next (taken { fig with
      state := .held, current := some move, waitStart := none, waitUsed := 0 })) ∧
    (free → able → fig.state = .idle → atTarget r goal fig.position = true → exec (.figureGo f) s = .next
      ((taken { fig with movesArrived := min (fig.movesArrived + 1) 65535 }).raise .liveMoveDone x.val 1)) ∧
    (free → able → fig.state ≠ .idle → fig.nextMove = none →
      exec (.figureGo f) s = .next (taken { fig with nextMove := some move })) ∧
    (∀ old, free → able → fig.state ≠ .idle → fig.nextMove = some old → old.requester = .cue →
      exec (.figureGo f) s = .next ((taken { fig with
        nextMove := some move, movesFailed := min (fig.movesFailed + 1) 65535,
        moveReplaced := min (fig.moveReplaced + 1) 65535 }).raise .liveMoveDone x.val 0))

/-- FIGURE_HOME makes a homing the current move of an unowned UNHOMED or IDLE figure, with the gate closed in HELD and
its needed zones as they were last computed (the model's choice, log entry 48), and is answered OK; an owned one is
BUSY, and a figure in another state, or any in CONFIG, is WRONG_STATE (R120). FAULT_CLEAR in RUN of a faulted figure
without current asks CLEAR_FAULT of its board and leaves the figure UNHOMED with no position, no cause and no zone, and
the head of the show queue is judged for it (R145; log entry 36); with current it is BUSY, in another state WRONG_STATE.
For a board it clears every figure of the board that is in FAULT without current (R119), in order of figure index (the
model's choice, log entry 45), each followed by its own judgement of the head (R145; log entry 36). An index out of
range is BAD_INDEX and a scope above 1 BAD_VALUE. The order of these checks is the model's (log entry 29 for
FIGURE_HOME, 25 for FAULT_CLEAR), and so is the figure as the owner of its CLEAR_FAULT (log entry 31). -/
def Obligations.HomingsAndFaultsAreManaged : Prop :=
  (∀ (s : State) (f : List Byte) (x : Fin 16), s.reaches f .figureHome = true →
     readRequest (framePayload f) = some (.figureHome x.val) →
     let fig := s.figs[x]
     let r := s.figRecs[x]
     let able := r.enabled = true ∧ s.boardRecs[r.board].enabled = true ∧ s.boardRecs[r.board].kind = .motion ∧
       (fig.state = .unhomed ∨ fig.state = .idle)
     let move : Move := { goal := .home, requester := .mgmt, withdrawn := false }
     let taken (y : Figure) : State := { s with figs := s.figs.set x.val y }
     (s.mgmt.engine = .config → exec (.figureHome f) s = .next (s.respond f (Reply.plain .wrongState))) ∧
     (s.mgmt.engine = .run → ¬able → exec (.figureHome f) s = .next (s.respond f (Reply.plain .wrongState))) ∧
     (s.mgmt.engine = .run → able → fig.owner ≠ none →
       exec (.figureHome f) s = .next (s.respond f (Reply.plain .busy))) ∧
     (s.mgmt.engine = .run → able → fig.owner = none → s.calendar.figuresOpen = true →
       exec (.figureHome f) s = .next ((taken { fig with
         state := .waitZone, position := none, current := some move, waitStart := some s.clock.time, waitUsed := 0,
         needed := allZones r, resolvedWay := .forward }).respond f (Reply.plain .ok))) ∧
     (s.mgmt.engine = .run → able → fig.owner = none → s.calendar.figuresOpen = false →
       exec (.figureHome f) s = .next ((taken { fig with
         state := .held, position := none, current := some move, waitStart := none, waitUsed := 0 }).respond f
           (Reply.plain .ok)))) ∧
  (∀ (s : State) (f : List Byte) (x : Fin 16), s.reaches f .faultClear = true →
     readRequest (framePayload f) = some (.faultClear 0 x.val) →
     let fig := s.figs[x]
     let r := s.figRecs[x]
     (s.mgmt.engine = .config → exec (.faultClear f) s = .next (s.respond f (Reply.plain .wrongState))) ∧
     (s.mgmt.engine = .run → fig.state ≠ .fault →
       exec (.faultClear f) s = .next (s.respond f (Reply.plain .wrongState))) ∧
     (s.mgmt.engine = .run → fig.state = .fault → fig.admitted ≠ none →
       exec (.faultClear f) s = .next (s.respond f (Reply.plain .busy))) ∧
     let cleared (u : State) : State := { u with
       figs := s.figs.set x.val { fig with state := .unhomed, position := none, faultCause := none },
       zones := s.zones.map (fun h => if h = some x then none else h) }
     (s.mgmt.engine = .run → fig.state = .fault → fig.admitted = none → s.boards[r.board].presence ≠ .absent →
       exec (.faultClear f) s = .next ((s.judgeAfter (cleared (s.joinCommands r.board .clearFault (some r.channel)
         (some x)))).respond f (Reply.plain .ok))) ∧
     (s.mgmt.engine = .run → fig.state = .fault → fig.admitted = none → s.boards[r.board].presence = .absent →
       exec (.faultClear f) s = .next ((s.judgeAfter (cleared s)).respond f (Reply.plain .ok)))) ∧
  (∀ (s : State) (f : List Byte) (b : Fin 32), s.reaches f .faultClear = true →
     readRequest (framePayload f) = some (.faultClear 1 b.val) → s.mgmt.engine = .run →
     let named (x : Fin 16) : Prop := s.figRecs[x].board = b ∧ s.figs[x].state = .fault
     let clears (x : Fin 16) : Prop := named x ∧ s.figs[x].admitted = none
     let cleared (u : State) (x : Fin 16) : State :=
       let asked : State := if u.boards[b].presence = .absent then u
         else u.joinCommands b .clearFault (some s.figRecs[x].channel) (some x)
       { asked with
         figs := u.figs.set x.val { u.figs[x] with state := .unhomed, position := none, faultCause := none },
         zones := u.zones.map (fun h => if h = some x then none else h) }
     ((∃ x, clears x) → exec (.faultClear f) s = .next (((List.finRange 16).foldl (fun t x =>
       if s.figRecs[x].board = b ∧ s.figs[x].state = .fault ∧ s.figs[x].admitted = none then t.judgeAfter (cleared t x)
       else t) s).respond f (Reply.plain .ok))) ∧
     ((∃ x, clears x) → s.showUnit.queue = [] → ∃ t : State, exec (.faultClear f) s = .next (t.respond f (Reply.plain .ok)) ∧
       (∀ x, clears x →
         t.figs[x] = { s.figs[x] with state := .unhomed, position := none, faultCause := none } ∧
         ∀ z : Fin 24, t.zones[z] ≠ some x) ∧
       (∀ x, ¬clears x → t.figs[x] = s.figs[x] ∧ ∀ z : Fin 24, s.zones[z] = some x → t.zones[z] = some x)) ∧
     ((∀ x, ¬clears x) → (∃ x, named x) → exec (.faultClear f) s = .next (s.respond f (Reply.plain .busy))) ∧
     ((∀ x, ¬named x) → exec (.faultClear f) s = .next (s.respond f (Reply.plain .wrongState)))) ∧
  (∀ (s : State) (f : List Byte) (scope index : Nat), s.mgmt.engine = .run →
     (s.reaches f .figureHome = true → readRequest (framePayload f) = some (.figureHome index) → 16 ≤ index →
       exec (.figureHome f) s = .next (s.respond f (Reply.plain .badIndex))) ∧
     (s.reaches f .faultClear = true → readRequest (framePayload f) = some (.faultClear scope index) →
       (((scope = 0 ∧ 16 ≤ index) ∨ (scope = 1 ∧ 32 ≤ index)) →
         exec (.faultClear f) s = .next (s.respond f (Reply.plain .badIndex))) ∧
       (1 < scope → exec (.faultClear f) s = .next (s.respond f (Reply.plain .badValue)))))

/-- In an arbitration pass the first waiter in priority order takes all its needed zones, if they are all free or its
own, and waits for supply; one that is blocked receives nothing, no zone among others. A pass changes nothing but zones
and figures, never takes a zone from the figure that holds it, and gives zones to a figure only when it takes all that
the figure needs, and no others; a waiter that is not granted is left with a needed zone that another figure holds
(R107). -/
def Obligations.ZoneGrants : Prop :=
  ∀ s : State, ∃ t, exec .zoneGrant s = .next t ∧ { t with zones := s.zones, figs := s.figs } = s ∧
    (∀ (z : Fin 24) (x : Fin 16), s.zones[z] = some x → t.zones[z] = some x) ∧
    (∀ (z : Fin 24) (x : Fin 16), t.zones[z] = some x → s.zones[z] = some x ∨
      (s.zones[z] = none ∧ s.figs[x].state = .waitZone ∧ t.figs[x].state = .waitSupply ∧ z ∈ s.figs[x].needed)) ∧
    (∀ x : Fin 16, s.figs[x].state ≠ .waitZone → t.figs[x] = s.figs[x]) ∧
    (∀ x : Fin 16, s.figs[x].state = .waitZone →
      t.figs[x] = s.figs[x] ∨ (t.figs[x] = { s.figs[x] with state := .waitSupply } ∧
        ∀ z ∈ s.figs[x].needed, t.zones[z] = some x)) ∧
    (∀ x : Fin 16, s.figs[x].state = .waitZone →
      (∀ y : Fin 16, y ≠ x → s.figs[y].state = .waitZone → s.figRecs[y].priority < s.figRecs[x].priority ∨
        (s.figRecs[y].priority = s.figRecs[x].priority ∧ x < y)) →
      (∀ z ∈ s.figs[x].needed, s.zones[z] = none ∨ s.zones[z] = some x) →
      t.figs[x] = { s.figs[x] with state := .waitSupply }) ∧
    (∀ x : Fin 16, s.figs[x].state = .waitZone →
      (∃ z ∈ s.figs[x].needed, ∃ y : Fin 16, y ≠ x ∧ s.zones[z] = some y) →
      t.figs[x] = s.figs[x] ∧ ∀ z : Fin 24, t.zones[z] = some x → s.zones[z] = some x) ∧
    (∀ x : Fin 16, s.figs[x].state = .waitZone → t.figs[x] = s.figs[x] →
      ∃ z ∈ s.figs[x].needed, ∃ y : Fin 16, y ≠ x ∧ t.zones[z] = some y)

/-- The first figure in priority order that its group can admit has its run current admitted, its waiting time counted
and MOVE or HOME asked of its board, and enters STARTING, or HOMING with a deadline of 120,000 (R109, R120, R137); one
whose board is ABSENT is in FAULT and gives its current back (R117, R128; the model's choice, log entry 26). The waiting
time is kept within 0 to 600,000 (log entry 17). One that the group cannot admit waits. After an admission the head of
the show queue is judged if R145 asks for it (log entry 36). The windows of the earliest end that show time has reached
are released together (R137; the model's choice, log entry 13); with none reached the row has no effect (log
entry 2). -/
def Obligations.SupplyIsAdmittedAndReleased : Prop :=
  (∀ (s : State) (x : Fin 16) (m : Move) (start : Int),
     let fig := s.figs[x]
     let r := s.figRecs[x]
     let g := s.boardRecs[r.board].group
     fig.state = .waitSupply → fig.current = some m → fig.waitStart = some start →
     let here := s.boards[r.board].presence ≠ .absent
     let asks (y : Fin 16) : Prop := s.figs[y].state = .waitSupply ∧ s.figs[y].current ≠ none ∧
       s.boardRecs[s.figRecs[y].board].group = g ∧
       s.motorSum g + s.figRecs[y].runCurrent + s.strikeSum g + s.groups[g].reserve ≤ s.groups[g].limit
     (s.groups[g].limit < s.motorSum g + r.runCurrent + s.strikeSum g + s.groups[g].reserve →
       exec (.figureSupplyAdmit x) s = .next s) ∧
     ((∃ y, asks y ∧ (r.priority < s.figRecs[y].priority ∨ (s.figRecs[y].priority = r.priority ∧ y < x))) →
       exec (.figureSupplyAdmit x) s = .next s) ∧
     (s.motorSum g + r.runCurrent + s.strikeSum g + s.groups[g].reserve ≤ s.groups[g].limit →
       (∀ y : Fin 16, y ≠ x → asks y → s.figRecs[y].priority < r.priority ∨
         (s.figRecs[y].priority = r.priority ∧ x < y)) →
       let admitted : Figure := { fig with
         admitted := some (r.runCurrent, g),
         waitUsed := (max 0 (min 600000 (fig.waitUsed + (s.clock.time - start)))).toNat,
         waitStart := none, commandDone := false }
       let taken (y : Figure) : State := { s with figs := s.figs.set x.val y }
       (∀ target pct w, here → m.goal = .go target pct w →
         let v := (r.maxSpeed * pct + 99) / 100
         let distance := match fig.position with
           | some p => distanceBy r fig.resolvedWay p target
           | none => 0
         exec (.figureSupplyAdmit x) s = .next (s.judgeAfter ((taken { admitted with
           state := .starting, legDistance := distance, legSpeed := v }).joinCommands r.board
             (.move target fig.resolvedWay v) (some r.channel) (some x)))) ∧
       (here → m.goal = .home →
         exec (.figureSupplyAdmit x) s = .next (s.judgeAfter ((taken { admitted with
           state := .homing, travelDeadline := some (s.clock.time + 120000) }).joinCommands r.board .home
             (some r.channel) (some x)))) ∧
       (¬here → ∃ t, exec (.figureSupplyAdmit x) s = .next (s.judgeAfter t) ∧ t.figs[x].state = .fault ∧
         t.figs[x].faultCause = some .boardAbsent ∧ t.figs[x].admitted = none ∧ t.figs[x].current = none ∧
         t.figs[x].nextMove = none ∧ t.zones = s.zones ∧ t.boards = s.boards ∧ t.tail = s.tail))) ∧
  (∀ s : State,
     (∀ t : Int, (∃ a ∈ s.strikeAccount, a.windowEnd = t) → t ≤ s.clock.time →
       (∀ a ∈ s.strikeAccount, t ≤ a.windowEnd) →
       exec .strikeWindowEnd s = .next { s with strikeAccount := s.strikeAccount.filter (fun a => a.windowEnd ≠ t) }) ∧
     ((∀ a ∈ s.strikeAccount, s.clock.time < a.windowEnd) → exec .strikeWindowEnd s = .next s))

/-- At the wait deadline the move fails: it is counted in MOVES_FAILED, a homing too (the model's choice, log entry
15), its requester is told, then MOVE_ABANDONED is counted and raised (the order of the two is the model's, log
entry 46), the figure rests with its wait used as it was (log
entry 17), the zones away from its position are released, and the move in the next-move slot is taken (R106, R108). At
the travel deadline a MOVING figure is in FAULT with STALL (R113); at the homing's limit with HOME_FAILED (R121). The
fault keeps the zones and removes both moves (R117). The head of the show queue is judged after each (R145; log entry
36). -/
def Obligations.FigureDeadlines : Prop :=
  ∀ (s : State) (x : Fin 16) (m : Move),
    let fig := s.figs[x]
    fig.current = some m →
    (∀ start, (fig.state = .waitZone ∨ fig.state = .waitSupply) → fig.waitStart = some start →
      start + s.mgmt.settings.zoneWait - fig.waitUsed ≤ s.clock.time →
      let told : State := match m.requester with
        | .cue => s.raise .liveMoveDone x.val 0
        | .run _ _ => s
        | .mgmt => s
      let code : Nat := match m.requester with
        | .cue => 4
        | .run k _ => k.val
        | .mgmt => 5
      ∃ t, exec (.zoneWaitDeadline x) s = .next (s.judgeAfter (match fig.nextMove with
          | none => t
          | some n => t.takeMove x n)) ∧
        t.mgmt = (told.raise .moveAbandoned x.val code).mgmt ∧
        (∀ k i, m.requester = .run k i → s.runs[k].state ≠ .free →
          t.runs = s.runs.set k.val { s.runs[k] with progress := s.runs[k].progress.set i .failed }) ∧
        t.figs[x] = { fig with
          state := if m.goal = .home then .unhomed else .idle, current := none, nextMove := none, waitStart := none,
          movesFailed := min (fig.movesFailed + 1) 65535, moveAbandoned := min (fig.moveAbandoned + 1) 65535 } ∧
        (∀ z : Fin 24, s.zones[z] = some x → z ∉ zonesAt s.figRecs[x] fig.position → t.zones[z] ≠ some x) ∧
        (∀ z : Fin 24, s.zones[z] = some x → z ∈ zonesAt s.figRecs[x] fig.position → t.zones[z] = some x) ∧
        t.written = s.written ∧ t.clock = s.clock ∧ t.boards = s.boards ∧ t.launch = s.launch) ∧
    (fig.state = .moving → (∃ d, fig.travelDeadline = some d ∧ d ≤ s.clock.time) →
      ∃ t, exec (.travelDeadline x) s = .next (s.judgeAfter t) ∧
        t.figs[x].state = .fault ∧ t.figs[x].faultCause = some .stall ∧
        t.figs[x].current = none ∧ t.figs[x].nextMove = none ∧ t.figs[x].travelDeadline = none ∧
        (m.withdrawn = false → fig.nextMove = none → t.figs[x].movesFailed = min (fig.movesFailed + 1) 65535) ∧
        t.zones = s.zones ∧ t.figs[x].owner = fig.owner ∧
        (s.boards[s.figRecs[x].board].presence ≠ .absent →
          t.figs[x].admitted = fig.admitted ∧
          ∃ c ∈ t.boards[s.figRecs[x].board].commands, c.op = .stop ∧ x ∈ c.owners)) ∧
    (fig.state = .homing → (∃ d, fig.travelDeadline = some d ∧ d ≤ s.clock.time) →
      ∃ t, exec (.homingDeadline x) s = .next (s.judgeAfter t) ∧ t.figs[x].state = .fault ∧
        t.figs[x].faultCause = some .homeFailed ∧ t.figs[x].current = none ∧ t.figs[x].nextMove = none ∧
        t.zones = s.zones ∧
        (s.boards[s.figRecs[x].board].presence ≠ .absent →
          ∃ c ∈ t.boards[s.figRecs[x].board].commands, c.op = .stop ∧ x ∈ c.owners))

/-! Driver boards. -/

/-- An answer is matched to the enabled board of its SRC and to the tag in handshake: an ACK takes the command off the
list and tells its owner, which makes a STARTING figure MOVING with the deadline of R110; a REJECT holds the command off
or, beyond the retries, fails it, which faults a STARTING or HOMING figure with BOARD_BUSY and releases its current, and
a STOPPING one without; the completion of a HOME or a STOP is noted with a HOMING, STOPPING or FAULT figure; a figure in
another state is not changed. In CONFIG a rejected command other than STOP is withdrawn; a stale or malformed answer
changes its counter alone (R110, R115, R117, R121, R130, R134). The head of the show queue is judged after each owner
that is told (R145; log entry 36). -/
def Obligations.BoardAnswers : Prop :=
  ∀ (s : State) (f : List Byte), s.fixedPath .tail f .boardAnswer = true →
    let p := framePayload f
    let bad : State := { s with boardUnit := { s.boardUnit with
      badBoardFrame := min (s.boardUnit.badBoardFrame + 1) 4294967295 } }
    let stale : State := { s with boardUnit := { s.boardUnit with
      staleAnswer := min (s.boardUnit.staleAnswer + 1) 4294967295 } }
    ((s.boardOf (frameSrc f) = none ∨ readAnswer p = none) → exec (.boardAnswer f) s = .next bad) ∧
    ∀ (b : Fin 32) (tag : Byte) (ack : Bool), s.boardOf (frameSrc f) = some b → readAnswer p = some (tag, ack) →
      (s.boards[b].inHandshake? tag = none → exec (.boardAnswer f) s = .next stale) ∧
      ∀ c : Command, s.boards[b].inHandshake? tag = some c →
        let removed : State := { s with
          boards := s.boards.set b.val { s.boards[b] with commands := s.boards[b].commands.filter (fun d => d.id ≠ c.id) },
          tail := { s.tail with commandQueue :=
            s.tail.commandQueue.filter (fun g => !(g.board = b && g.id = c.id)) } }
        let counted (cs : List Command) : State := { removed with boards := s.boards.set b.val { s.boards[b] with
          rejected := min (s.boards[b].rejected + 1) 65535, commands := cs } }
        let left := s.boards[b].commands.filter (fun d => d.id ≠ c.id)
        (ack = true →
          exec (.boardAnswer f) s =
            .next (c.owners.foldl (fun t x => t.judgeAfter (t.toldCompleted c.op x)) removed)) ∧
        (ack = false → c.rejects + 1 ≤ s.mgmt.settings.retries → (s.mgmt.engine = .run ∨ c.op = .stop) →
          exec (.boardAnswer f) s = .next (counted (s.boards[b].commands.map (fun d =>
            if d.id = c.id then { d with
              rejects := d.rejects + 1, condition := .holdoff (s.clock.time + s.mgmt.settings.rejectHoldoff) }
            else d)))) ∧
        (ack = false → c.rejects + 1 ≤ s.mgmt.settings.retries → s.mgmt.engine = .config → c.op ≠ .stop →
          exec (.boardAnswer f) s = .next (counted left)) ∧
        (ack = false → s.mgmt.settings.retries < c.rejects + 1 →
          exec (.boardAnswer f) s = .next ((c.owners.foldl (fun t x => t.judgeAfter (t.toldFailed c.op x))
            (counted left)).raise .commandFailed b.val c.failureCode)) ∧
        (∀ (u : State) (x : Fin 16) target way speed, u.figs[x].state = .starting →
          u.toldCompleted (.move target way speed) x = { u with figs := u.figs.set x.val { u.figs[x] with
            state := .moving, travelDeadline := some (u.clock.time +
              ((u.figs[x].legDistance * 1000 + u.figs[x].legSpeed - 1) / u.figs[x].legSpeed * 3 / 2 + 500 : Nat)) } } ∧
          (u.toldFailed (.move target way speed) x).figs[x].state = .fault ∧
          (u.toldFailed (.move target way speed) x).figs[x].faultCause = some .boardBusy ∧
          (u.toldFailed (.move target way speed) x).figs[x].admitted = none ∧
          (u.toldFailed (.move target way speed) x).zones = u.zones) ∧
        (∀ (u : State) (x : Fin 16), u.figs[x].state = .stopping →
          u.toldCompleted .stop x = { u with figs := u.figs.set x.val { u.figs[x] with commandDone := true } } ∧
          (u.toldFailed .stop x).figs[x].state = .fault ∧
          (u.toldFailed .stop x).figs[x].faultCause = some .boardBusy ∧
          (u.toldFailed .stop x).figs[x].admitted = u.figs[x].admitted) ∧
        (∀ (u : State) (x : Fin 16), u.figs[x].state = .homing →
          u.toldCompleted .home x = { u with figs := u.figs.set x.val { u.figs[x] with commandDone := true } } ∧
          (u.toldFailed .home x).figs[x].state = .fault ∧
          (u.toldFailed .home x).figs[x].faultCause = some .boardBusy ∧
          (u.toldFailed .home x).figs[x].admitted = none ∧ (u.toldFailed .home x).zones = u.zones) ∧
        (∀ (u : State) (x : Fin 16), u.figs[x].state = .fault →
          u.toldCompleted .stop x = { u with figs := u.figs.set x.val { u.figs[x] with commandDone := true } } ∧
          u.toldFailed .stop x = u) ∧
        (∀ (u : State) (x : Fin 16) target way speed,
          (u.figs[x].state ≠ .starting → u.toldCompleted (.move target way speed) x = u ∧
            u.toldFailed (.move target way speed) x = u) ∧
          (u.figs[x].state ≠ .homing → u.toldCompleted .home x = u ∧ u.toldFailed .home x = u) ∧
          (u.figs[x].state ≠ .stopping → u.figs[x].state ≠ .fault →
            u.toldCompleted .stop x = u ∧ u.toldFailed .stop x = u) ∧
          u.toldCompleted .clearFault x = u ∧ u.toldFailed .clearFault x = u)

/-- A status makes its board PRESENT, renews its deadline and replaces its rail and channel reports; the coil flags of a
BELL board decide the availability of its enabled bells, and the entries of a MOTION board reach its figures in channel
order (the model's choice, log entry 37), each entry followed by the judgement of the head that it brings (R145; log
entry 36); a status of no enabled board, and one that its board's kind cannot read, is counted and changes nothing else
(R42, R132). -/
def Obligations.BoardStatuses : Prop :=
  ∀ (s : State) (f : List Byte), s.fixedPath .tail f .boardStatus = true →
    let bad : State := { s with boardUnit := { s.boardUnit with
      badBoardFrame := min (s.boardUnit.badBoardFrame + 1) 4294967295 } }
    (s.boardOf (frameSrc f) = none → exec (.boardStatus f) s = .next bad) ∧
    ∀ (b : Fin 32) (rail : Nat), s.boardOf (frameSrc f) = some b →
      let taken (t : State) : Prop :=
        t.boards[b].presence = .present ∧ t.boards[b].rail = (if rail = 0 then none else some rail) ∧
        t.boards[b].statusDeadline = some (s.clock.time + s.mgmt.settings.statusTimeout) ∧
        t.boards[b].statusTaken = min (s.boards[b].statusTaken + 1) 65535 ∧
        (∀ c : Fin 32, c ≠ b → t.boards[c].presence = s.boards[c].presence) ∧
        t.written = s.written ∧ t.clock = s.clock ∧ t.launch = s.launch ∧ t.strikeAccount = s.strikeAccount
      (s.boardRecs[b].kind = .bell → readBellStatus (framePayload f) = none → exec (.boardStatus f) s = .next bad) ∧
      (s.boardRecs[b].kind = .motion → readMotionStatus (framePayload f) = none →
        exec (.boardStatus f) s = .next bad) ∧
      (∀ flags, s.boardRecs[b].kind = .bell → readBellStatus (framePayload f) = some (rail, flags) →
        ∃ t, exec (.boardStatus f) s = .next t ∧ taken t ∧ t.boards[b].coilFlags = flags ∧
          t.boards[b].commands = s.boards[b].commands ∧ t.figs = s.figs ∧ t.runs = s.runs ∧ t.zones = s.zones ∧
          ∀ i : Fin 48,
            (s.bellRecs[i].enabled = true → s.bellRecs[i].board = b →
              t.bells[i] = { s.bells[i] with unavailable := flags[s.bellRecs[i].channel] }) ∧
            ((s.bellRecs[i].enabled = false ∨ s.bellRecs[i].board ≠ b) → t.bells[i] = s.bells[i])) ∧
      (∀ rs, s.boardRecs[b].kind = .motion → readMotionStatus (framePayload f) = some (rail, rs) →
        ∃ u, taken u ∧ u.boards[b].motors = rs ∧ u.boards[b].commands = s.boards[b].commands ∧ u.bells = s.bells ∧
          u.figs = s.figs ∧ u.zones = s.zones ∧ u.runs = s.runs ∧ u.showUnit = s.showUnit ∧ u.calendar = s.calendar ∧
          u.mgmt = (if s.boards[b].presence = .present then s.mgmt else (s.raise .boardPresent b.val 0).mgmt) ∧
          exec (.boardStatus f) s = .next ((List.finRange 4).foldl (fun v ch =>
            v.judgeAfter (match v.figureOf b ch with
              | some x => v.figureStatus x rs[ch]
              | none => v)) u))

/-- An arrival within tolerance ends the move of a MOVING figure: IDLE at the reported position, its current released,
the zones away from the position released and the move in the next-move slot taken (R111); an overcurrent or a limit
flag puts a figure into FAULT (R112, R117). A HOMING figure whose HOME is completed is homed by the HOMED flag: IDLE at
home, FIGURE_HOMED raised and then the next move taken (R121; the order is the model's, log entry 46), with no counter
of moves raised, since R121 gives a completed homing no outcome (log entry 15). A STOPPING figure whose STOP is
completed has stopped at the first clear MOVING flag: with stop end IDLE it rests, its move discarded, and takes the
next move; with stop end HELD its move ends ARRIVED within tolerance, waits for its zones again with the figure gate
open, or is HELD (R115, R116). A move that ends at an arrival leaves wait used as it was (the model's choice, log entry
17). -/
def Obligations.ReportsMoveFigures : Prop :=
  ∀ (s : State) (x : Fin 16) (r : ChanReport),
    let fig := s.figs[x]
    let position := reportedPosition s.figRecs[x] r.position
    (∀ m, fig.state = .moving → fig.current = some m → fig.position ≠ none →
      r.overcurrent = false → r.limit = false → r.arrived = true → withinTolerance s.figRecs[x] position m.goal = true →
      ∃ t, s.figureStatus x r = (match fig.nextMove with
          | none => t
          | some n => t.takeMove x n) ∧
        t.figs[x] = { fig with state := .idle, position := some position, flags := r, travelDeadline := none,
                               current := none, nextMove := none, admitted := none,
                               movesArrived := min (fig.movesArrived + 1) 65535 } ∧
        (∀ z : Fin 24, s.zones[z] = some x → z ∈ zonesAt s.figRecs[x] (some position) → t.zones[z] = some x) ∧
        (∀ z : Fin 24, s.zones[z] = some x → z ∉ zonesAt s.figRecs[x] (some position) → t.zones[z] ≠ some x)) ∧
    (fig.state ≠ .unhomed → fig.state ≠ .fault → (r.overcurrent = true ∨ r.limit = true) →
      let t := s.figureStatus x r
      t.figs[x].state = .fault ∧ t.figs[x].faultCause = some (if r.overcurrent then .overcurrent else .limit) ∧
        t.figs[x].flags = r ∧ t.zones = s.zones) ∧
    let calm := r.overcurrent = false ∧ r.limit = false
    let next (t : State) : State := match fig.nextMove with
      | none => t
      | some n => t.takeMove x n
    let keeps (t : State) (at_ : Option Nat) : Prop :=
      (∀ z : Fin 24, s.zones[z] = some x → z ∈ zonesAt s.figRecs[x] at_ → t.zones[z] = some x) ∧
      (∀ z : Fin 24, s.zones[z] = some x → z ∉ zonesAt s.figRecs[x] at_ → t.zones[z] ≠ some x)
    (fig.state = .homing → fig.commandDone = true → calm → r.homed = true →
      ∃ t, s.figureStatus x r = next t ∧ t.mgmt = (s.raise .figureHomed x.val s.figRecs[x].home).mgmt ∧
        t.figs[x] = { fig with state := .idle, position := some s.figRecs[x].home, flags := r, travelDeadline := none,
                               current := none, nextMove := none, admitted := none } ∧
        keeps t (some s.figRecs[x].home)) ∧
    (fig.state = .homing → (fig.commandDone = false ∨ r.homed = false) → calm →
      s.figureStatus x r = { s with figs := s.figs.set x.val { fig with flags := r } }) ∧
    let seen : Option Nat := fig.position.map (fun _ => position)
    let stopped := fig.state = .stopping ∧ fig.commandDone = true ∧ r.moving = false ∧ calm
    (stopped → fig.stopEnd = .idle →
      ∃ t, s.figureStatus x r = next t ∧ t.mgmt = s.mgmt ∧ t.runs = s.runs ∧
        t.figs[x] = { fig with
          state := if fig.current.map (fun m => m.goal) = some .home then .unhomed else .idle, position := seen,
          flags := r, current := none, nextMove := none, waitStart := none, admitted := none } ∧
        keeps t seen) ∧
    (∀ m, stopped → fig.stopEnd = .held → fig.current = some m →
      let near := ∃ p, seen = some p ∧ withinTolerance s.figRecs[x] p m.goal = true
      (near → ∃ t, s.figureStatus x r = next t ∧
        t.figs[x] = { fig with
          state := .idle, position := seen, flags := r, current := none, nextMove := none, waitStart := none,
          admitted := none, movesArrived := min (fig.movesArrived + 1) 65535 } ∧
        keeps t seen) ∧
      (¬near → s.calendar.figuresOpen = true →
        ∃ t, s.figureStatus x r = t ∧ t.mgmt = (s.raise .figureHeld x.val 0).mgmt ∧
          t.figs[x] = { fig with
            state := .waitZone, position := seen, flags := r, waitStart := some s.clock.time, admitted := none,
            needed := neededZones s.figRecs[x] m.goal seen, resolvedWay := goalWay s.figRecs[x] m.goal seen }) ∧
      (¬near → s.calendar.figuresOpen = false → s.figureStatus x r = { s with figs := s.figs.set x.val { fig with
        state := .held, position := seen, flags := r, admitted := none } })) ∧
    (fig.state = .stopping → (fig.commandDone = false ∨ r.moving = true) → calm →
      s.figureStatus x r = { s with figs := s.figs.set x.val { fig with position := seen, flags := r } })

/-- The first answer timeout of a command sends it again; the second, and a status deadline, make the board ABSENT: its
commands are withdrawn with their frames, and its figures fault and give their current back. In CONFIG a command other
than STOP is withdrawn in place of its re-send (R118, R131, R133, R134). A command that is sent again takes a free place
with the others that wait for one, in R128's order and inside the row (log entry 12). A figure that faults counts its
current and its next move in MOVES_FAILED, a homing too, and none for a current move that is withdrawn (R117; log entry
15). The figures of an ABSENT board are reached in order of figure index (R118), and the head of the show queue is
judged after each that enters FAULT, before BOARD_ABSENT is raised (R145; the order is the model's, log entry 36).
ANSWER_TIMEOUT with no timer reached has no effect (the model's choice, log entry 2). -/
def Obligations.BoardDeadlines : Prop :=
  ∀ (s : State) (b : Fin 32),
    let lost (t : State) : Prop :=
      t.boards[b].presence = .absent ∧ t.boards[b].rail = none ∧ t.boards[b].statusDeadline = none ∧
      t.boards[b].commands = [] ∧
      (∀ g ∈ t.tail.commandQueue, g.board = b → ∀ c ∈ s.boards[b].commands, c.id ≠ g.id) ∧
      (∀ x : Fin 16, s.figRecs[x].board = b → t.figs[x].admitted = none ∧
        (s.figRecs[x].enabled = true → s.figs[x].state ≠ .unhomed → s.figs[x].state ≠ .fault →
          t.figs[x].state = .fault ∧ t.figs[x].faultCause = some .boardAbsent)) ∧
      (∀ c : Fin 32, c ≠ b → t.boards[c] = s.boards[c]) ∧ t.zones = s.zones ∧ t.launch = s.launch
    let gone (timedOut : Nat) : State := { s with
      boards := s.boards.set b.val { s.boards[b] with
        presence := .absent, rail := none, statusDeadline := none, commands := [], timedOut := timedOut },
      tail := { s.tail with commandQueue := s.tail.commandQueue.filter (fun g =>
        !(g.board = b && s.boards[b].commands.any (fun c => c.id = g.id))) } }
    let absent (timedOut cause : Nat) : State :=
      ((List.finRange 16).foldl (fun t x => t.judgeAfter (t.absentFigure b x)) (gone timedOut)).raise .boardAbsent b.val
        cause
    let counted : Nat := min (s.boards[b].timedOut + 1) 65535
    (∀ d, s.boards[b].presence = .present → s.boards[b].statusDeadline = some d → d ≤ s.clock.time →
      exec (.statusDeadline b) s = .next (absent s.boards[b].timedOut 1) ∧
      (s.showUnit.queue = [] → lost (absent s.boards[b].timedOut 1))) ∧
    (s.showUnit.queue = [] → lost (absent counted 2)) ∧
    (∀ (u : State) (x : Fin 16),
      let fig := u.figs[x]
      let failing (m : Option Move) : Nat := match m with
        | some y => if y.withdrawn then 0 else 1
        | none => 0
      let failed : Nat := failing fig.current + (if fig.nextMove = none then 0 else 1)
      (u.figRecs[x].board ≠ b → u.absentFigure b x = u) ∧
      (u.figRecs[x].board = b → (u.figRecs[x].enabled = false ∨ fig.state = .unhomed ∨ fig.state = .fault) →
        u.absentFigure b x = { u with figs := u.figs.set x.val { fig with admitted := none } }) ∧
      (u.figRecs[x].board = b → u.figRecs[x].enabled = true → fig.state ≠ .unhomed → fig.state ≠ .fault →
        ∃ t, u.absentFigure b x = t ∧ t.figs[x] = { fig with
            state := .fault, faultCause := some .boardAbsent, current := none, nextMove := none,
            travelDeadline := none, waitStart := none, stopEnd := .idle, waitUsed := 0, admitted := none,
            movesFailed := if failed = 0 then fig.movesFailed else min (fig.movesFailed + failed) 65535 } ∧
          (∀ y : Fin 16, y ≠ x → t.figs[y] = u.figs[y]) ∧ t.zones = u.zones ∧ t.boards = u.boards ∧ t.tail = u.tail ∧
          t.launch = u.launch ∧ t.showUnit = u.showUnit ∧ t.calendar = u.calendar ∧ t.written = u.written ∧
          t.clock = u.clock)) ∧
    (∀ c ∈ s.boards[b].commands, ∀ timer, c.condition = .outstanding timer → timer ≤ s.clock.time →
      (∀ d ∈ s.boards[b].commands, d ≠ c → ∀ u, d.condition = .outstanding u → s.clock.time < u) →
      let holding (cs : List Command) : State := { s with boards := s.boards.set b.val { s.boards[b] with
        timedOut := counted, commands := cs } }
      (c.resendUsed = true → exec (.answerTimeout b) s = .next (absent counted 2)) ∧
      (c.resendUsed = false → (s.mgmt.engine = .run ∨ c.op = .stop) →
        exec (.answerTimeout b) s = .next (holding (s.boards[b].commands.map (fun d =>
          if d.id = c.id then { d with condition := .resend, resendUsed := true } else d))).fillQueue) ∧
      (c.resendUsed = false → s.mgmt.engine = .config → c.op ≠ .stop →
        exec (.answerTimeout b) s = .next { holding (s.boards[b].commands.filter (fun d => d.id ≠ c.id)) with
          tail := { s.tail with commandQueue :=
            s.tail.commandQueue.filter (fun g => !(g.board = b && g.id = c.id)) } })) ∧
    ((∀ c ∈ s.boards[b].commands, ∀ timer, c.condition = .outstanding timer → s.clock.time < timer) →
      exec (.answerTimeout b) s = .next s)

/-- A command whose holdoff has ended is waiting again and takes a free place with the others that wait for one, or in
CONFIG is withdrawn if it is no STOP (R130, R134); a free place of the command queue goes to the unplaced command that
comes first: frames for re-send, then STOPs, then the others, each in order of request (R128, R130). A request is
refused for an ABSENT board; a STOP withdraws the MOVEs and HOMEs of its channel that are not sent, and is served by a
STOP that waits already, the first of them (the model's choice, log entry 30); else it joins ahead of the first waiting
or holdoff command that is no STOP (the model's choice where R128 asks for both sides of one, log entry 30), and any
other command joins at the end. The free places are then taken in the same order (R128; log entry 12).
COMMAND_QUEUE_PLACE is one placing (the model's choice, log entry 12); a row whose event has not come has no effect (log
entry 2). -/
def Obligations.CommandsArePlaced : Prop :=
  (∀ (s : State) (b : Fin 32),
    (∀ c ∈ s.boards[b].commands, ∀ until_ : Int, c.condition = .holdoff until_ → until_ ≤ s.clock.time →
      (∀ d ∈ s.boards[b].commands, d ≠ c → ∀ u, d.condition = .holdoff u → s.clock.time < u) →
      ((s.mgmt.engine = .run ∨ c.op = .stop) →
        exec (.rejectHoldoffEnd b) s = .next (State.fillQueue { s with boards := s.boards.set b.val { s.boards[b] with
          commands := s.boards[b].commands.map (fun d =>
            if d.id = c.id then { d with condition := .waiting } else d) } })) ∧
      (s.mgmt.engine = .config → c.op ≠ .stop →
        exec (.rejectHoldoffEnd b) s = .next { s with
          boards := s.boards.set b.val { s.boards[b] with
            commands := s.boards[b].commands.filter (fun d => d.id ≠ c.id) },
          tail := { s.tail with commandQueue :=
            s.tail.commandQueue.filter (fun g => !(g.board = b && g.id = c.id)) } })) ∧
    ((∀ c ∈ s.boards[b].commands, ∀ u, c.condition = .holdoff u → s.clock.time < u) →
      exec (.rejectHoldoffEnd b) s = .next s)) ∧
  (∀ s : State,
    let rank (c : Command) : Nat := if c.condition = .resend then 0 else if c.op = .stop then 1 else 2
    let placed (b : Fin 32) (c : Command) : State := { s with tail := { s.tail with
      commandQueue := s.tail.commandQueue ++ [{ board := b, id := c.id, dest := s.boardRecs[b].address }] } }
    (∀ (b : Fin 32) (c : Command), (b, c) ∈ s.unplacedCommands ↔ c ∈ s.boards[b].commands ∧
      (c.condition = .waiting ∨ c.condition = .resend) ∧ ∀ g ∈ s.tail.commandQueue, g.board = b → g.id ≠ c.id) ∧
    (∀ (b : Fin 32) (c : Command), (b, c) ∈ s.unplacedCommands →
      (∀ y ∈ s.unplacedCommands, y ≠ (b, c) → rank c < rank y.2 ∨ (rank c = rank y.2 ∧ c.id < y.2.id)) →
      (s.tail.commandQueue.length < 16 →
        exec .commandQueuePlace s = .next (placed b c) ∧ s.fillQueue = (placed b c).fillQueue) ∧
      (16 ≤ s.tail.commandQueue.length → exec .commandQueuePlace s = .next s ∧ s.fillQueue = s)) ∧
    (s.unplacedCommands = [] → exec .commandQueuePlace s = .next s ∧ s.fillQueue = s)) ∧
  (∀ (s : State) (b : Fin 32) (op : CommandOp) (channel : Option (Fin 4)) (owner : Option (Fin 16)),
    let all := s.boards[b].commands
    let new : Command := { id := s.boardUnit.nextId, op := op, channel := channel, condition := .waiting, tag := none,
                           rejects := 0, resendUsed := false, owners := owner.toList }
    let joined (l : List Command) : State := { s with
      boardUnit := { s.boardUnit with nextId := s.boardUnit.nextId + 1 },
      boards := s.boards.set b.val { s.boards[b] with commands := l } }
    let unsent (c : Command) : Prop := c.condition = .waiting ∨ ∃ until_, c.condition = .holdoff until_
    (op ≠ .stop → s.joinCommands b op channel owner = (joined (all ++ [new])).fillQueue) ∧
    (∀ ahead behind, op = .stop → all = ahead ++ behind → (∀ c ∈ ahead, unsent c → c.op = .stop) →
      (∀ c rest, behind = c :: rest → unsent c ∧ c.op ≠ .stop) →
      s.joinCommands b op channel owner = (joined (ahead ++ new :: behind)).fillQueue) ∧
    (s.boards[b].presence = .absent → s.requestCommand b op channel owner = (s, false)) ∧
    (s.boards[b].presence ≠ .absent → op ≠ .stop →
      s.requestCommand b op channel owner = (s.joinCommands b op channel owner, true)) ∧
    (s.boards[b].presence ≠ .absent → op = .stop → channel = none →
      s.requestCommand b op channel owner = (s.joinCommands b op channel owner, true))) ∧
  ∀ (s : State) (b : Fin 32) (n : Fin 4) (owner : Option (Fin 16)) (kept : List Command),
    let unsent (c : Command) : Prop := c.condition = .waiting ∨ ∃ until_, c.condition = .holdoff until_
    let yields (c : Command) : Prop := c.channel = some n ∧ c.op ≠ .stop ∧ c.op ≠ .clearFault ∧ unsent c
    let serves (c : Command) : Prop := c.op = .stop ∧ c.condition = .waiting ∧ (c.channel = some n ∨ c.channel = none)
    let left (l : List Command) : State := { s with
      boards := s.boards.set b.val { s.boards[b] with commands := l },
      tail := { s.tail with commandQueue := s.tail.commandQueue.filter (fun g =>
        !(g.board = b && s.boards[b].commands.any (fun c => c.id = g.id && c.yieldsTo (some n)))) } }
    s.boards[b].presence ≠ .absent → kept = s.boards[b].commands.filter (fun c => !c.yieldsTo (some n)) →
    (∀ c, c.yieldsTo (some n) = true ↔ yields c) ∧
    ((∀ c ∈ kept, ¬serves c) →
      s.requestCommand b .stop (some n) owner = ((left kept).joinCommands b .stop (some n) owner, true)) ∧
    (∀ ahead c behind, kept = ahead ++ c :: behind → (∀ d ∈ ahead, ¬serves d) → serves c →
      s.requestCommand b .stop (some n) owner =
        (left (ahead ++ { c with owners := c.owners ++ owner.toList } :: behind), true))

/-! The programme calendar. -/

/-- A QUIET frame sets or replaces the override with its hold clamped to 1 to 600,000, clears it, or is counted in
BAD_QUIET; at the expiry it ends. QUIET_ON and QUIET_OFF are raised, and then a change of the figure gate is announced
to the figures (the order is the model's, log entry 46): when the gate closes, a figure under way is asked to STOP and
enters STOPPING with stop end HELD, a waiting figure is HELD with its waiting counted, FIGURE_HELD is raised for each,
and the others stay; when it opens, a HELD one waits for its zones again (R114, R116, R158, R159). No zone is released
at a closing (R114). The figures are reached in index order (the model's choice at a closing, log entry 45), and the
waiting time is kept within 0 to 600,000 (log entry 17). A change of either effective gate has the head of the show
queue judged last (R145; log entry 36). A QUIET verdict acts alike, with 1 for arg2 of QUIET_ON (R33, R158). Changes of
the list gates that show time has reached with the expiry are taken first, with the override still in force, so that
only the resulting change is announced (R159); that QUIET_EXPIRY takes them is the model's choice (log entry 52).
QUIET_EXPIRY before the expiry, or with no override, has no effect (the model's choice, log entry 2). -/
def Obligations.QuietOverrides : Prop :=
  ∀ s : State,
    let overridden (o : Option QuietOverride) : State := { s with calendar := { s.calendar with override := o } }
    (∀ f : List Byte, s.fixedPath .head f .calendar = true →
      (readQuiet (framePayload f) = none → exec (.quiet f) s = .next { s with calendar := { s.calendar with
        counters := { s.calendar.counters with badQuiet := min (s.calendar.counters.badQuiet + 1) 4294967295 } } }) ∧
      (∀ hold, readQuiet (framePayload f) = some (.clear, hold) → s.calendar.override = none →
        exec (.quiet f) s = .next s) ∧
      (∀ hold o, readQuiet (framePayload f) = some (.clear, hold) → s.calendar.override = some o →
        exec (.quiet f) s = .next (s.judgeAfter (State.announce s ((overridden none).raise .quietOff 1 0)))) ∧
      (∀ level hold, readQuiet (framePayload f) = some (.level level, hold) →
        let imposed := overridden (some { level := level, expiry := s.clock.time + (max 1 (min 600000 hold) : Nat) })
        ((∃ o, s.calendar.override = some o ∧ o.level = level) →
          exec (.quiet f) s = .next (s.judgeAfter (State.announce s imposed))) ∧
        ((∀ o, s.calendar.override = some o → o.level ≠ level) →
          exec (.quiet f) s = .next (s.judgeAfter (State.announce s (imposed.raise .quietOn (match level with
            | .bells => 1
            | .all => 2) 0)))))) ∧
    (∀ level hold,
      let imposed := overridden (some { level := level, expiry := s.clock.time + (max 1 (min 600000 hold) : Nat) })
      ((∃ o, s.calendar.override = some o ∧ o.level = level) →
        s.imposeQuiet level hold true = s.judgeAfter (State.announce s imposed)) ∧
      ((∀ o, s.calendar.override = some o → o.level ≠ level) →
        s.imposeQuiet level hold true = s.judgeAfter (State.announce s (imposed.raise .quietOn (match level with
          | .bells => 1
          | .all => 2) 1)))) ∧
    (∀ o, s.calendar.override = some o →
      (o.expiry ≤ s.clock.time → ∃ t, exec .entryTime s = .next t ∧
        exec .quietExpiry s = .next (t.judgeAfter (State.announce t
          (({ t with calendar := { t.calendar with override := none } } : State).raise .quietOff 0 0))) ∧
        ((∀ base, s.calendar.pendingSwitch = some base → s.clock.time < base) →
          s.clock.time < s.calendar.cycleStart + s.calendar.activeBank.cycle →
          (∀ e ∈ s.calendar.activeBank.entries.toList.take s.calendar.activeBank.count,
            s.calendar.cycleStart + e.offset ≤ s.calendar.entriesTaken ∨
              s.clock.time < s.calendar.cycleStart + e.offset) → t = s)) ∧
      (s.clock.time < o.expiry → exec .quietExpiry s = .next s)) ∧
    (s.calendar.override = none → exec .quietExpiry s = .next s) ∧
    (∀ t : State, t.calendar.figuresOpen = s.calendar.figuresOpen → State.announce s t = t) ∧
    (∀ t : State, s.calendar.figuresOpen = true → t.calendar.figuresOpen = false → ∀ x : Fin 16,
      let fig := t.figs[x]
      let r := t.figRecs[x]
      let held := ∃ new, (State.announce s t).mgmt.events = t.mgmt.events ++ new ∧
        (t.mgmt.mask[2] = true → (State.announce s t).mgmt.events.length < 32 →
          ∃ e ∈ new, e.kind = .figureHeld ∧ e.arg1 = x.val ∧ e.arg2 = 1)
      ((fig.state = .starting ∨ fig.state = .moving ∨ fig.state = .homing) → t.boards[r.board].presence ≠ .absent →
        (State.announce s t).figs[x] = { fig with
          state := .stopping, stopEnd := .held, travelDeadline := none, commandDone := false } ∧ held ∧
        ∃ c ∈ (State.announce s t).boards[r.board].commands, c.op = .stop ∧ x ∈ c.owners) ∧
      (∀ start, (fig.state = .waitZone ∨ fig.state = .waitSupply) → fig.waitStart = some start →
        (State.announce s t).figs[x] = { fig with
          state := .held, waitStart := none,
          waitUsed := (max 0 (min 600000 (fig.waitUsed + (t.clock.time - start)))).toNat } ∧ held) ∧
      ((fig.state = .idle ∨ fig.state = .unhomed ∨ fig.state = .held ∨ fig.state = .stopping ∨ fig.state = .fault) →
        (State.announce s t).figs[x] = fig) ∧
      (State.announce s t).zones = t.zones) ∧
    (∀ t : State, s.calendar.figuresOpen = false → t.calendar.figuresOpen = true → ∀ x : Fin 16,
      (t.figs[x].state = .held → t.figs[x].current ≠ none →
        (State.announce s t).figs[x].state = .waitZone ∧
        (State.announce s t).figs[x].waitStart = some t.clock.time) ∧
      (t.figs[x].state ≠ .held → (State.announce s t).figs[x] = t.figs[x]))

/-- At an entry time the list gates take the entry's gates, those of the last entry where show time has passed several,
with one announcement (R1, R157, R159); a switch or a restart that show time has reached with it is taken first (the
model's choice, log entry 52). At the end of the cycle the cycle start rises by one cycle and the show unit is told: a
head that is not admitted has waited one cycle more, and is dropped with STARVED at the limit, and the new head is
judged (R147, R157); entries of the old cycle that are passed with its end are taken first, unless an entry of the next
cycle or a switch follows them at the same event (log entry 52). That the head is judged inside these rows is R145's
(log entry 36), that an admission begins its run there is the model's choice (log entry 1), and so is that an entry of
offset 0 is taken after the restart, and that an entry which becomes the head there counts no cycle (log entry 40); the
entries already taken are the model's own record (log entry 14). A row whose event has not come has no effect (log entry
2). -/
def Obligations.EntriesAndRestarts : Prop :=
  ∀ s : State,
    let c := s.calendar
    let bank := c.activeBank
    let passed (u : State) : List SchedEntry :=
      (u.calendar.activeBank.entries.toList.take u.calendar.activeBank.count).filter (fun e =>
        decide (u.calendar.entriesTaken < u.calendar.cycleStart + e.offset ∧
          u.calendar.cycleStart + e.offset ≤ u.clock.time))
    let taken (u : State) (e : SchedEntry) : State := u.judgeAfter (State.announce u { u with calendar :=
      { u.calendar with entriesTaken := u.calendar.cycleStart + e.offset,
                        listBells := e.bellGate, listFigures := e.figureGate } })
    let risen (u : State) : State :=
      { u with calendar := { u.calendar with cycleStart := u.calendar.cycleStart + u.calendar.activeBank.cycle } }
    let switchDue := ∃ base, c.pendingSwitch = some base ∧ base ≤ s.clock.time
    (¬switchDue → s.clock.time < c.cycleStart + bank.cycle →
      (∀ e, (passed s).getLast? = some e → exec .entryTime s = .next (taken s e)) ∧
      (passed s = [] → exec .entryTime s = .next s)) ∧
    (∃ t u, exec .pendingSwitchBase s = .next t ∧ exec .cycleRestart t = .next u ∧
      (∀ e, (passed u).getLast? = some e → exec .entryTime s = .next (taken u e)) ∧
      (passed u = [] → exec .entryTime s = .next u)) ∧
    (s.clock.time < c.cycleStart + bank.cycle → exec .cycleRestart s = .next s) ∧
    (c.cycleStart + bank.cycle ≤ s.clock.time →
      (passed s = [] ∨ switchDue ∨ passed (risen s) ≠ [] → exec .cycleRestart s = .next (risen s).cycleTold) ∧
      (∀ e, (passed s).getLast? = some e → ¬switchDue → passed (risen s) = [] →
        exec .cycleRestart s = .next (risen (taken s e)).cycleTold ∧
        (risen (taken s e)).calendar.cycleStart = c.cycleStart + bank.cycle)) ∧
    (s.showUnit.queue = [] → s.cycleTold = s) ∧
    (∀ q rest, s.showUnit.queue = q :: rest →
      (s.admissible q = true → exec .showAdmission s = .next s.cycleTold) ∧
      (s.admissible q = false → q.cyclesWaited + 1 < s.mgmt.settings.starvation →
        s.cycleTold = { s with showUnit := { s.showUnit with
          queue := { q with cyclesWaited := q.cyclesWaited + 1 } :: rest } }) ∧
      (let u := s.showUnit
       let starved : ShowUnit := { u with
         queue := rest, counters := { u.counters with starved := min (u.counters.starved + 1) 4294967295 } }
       s.admissible q = false → s.mgmt.settings.starvation ≤ q.cyclesWaited + 1 →
        exec .showAdmission (({ s with showUnit := starved } : State).raise .showDropped q.showId.val 4) =
          .next s.cycleTold))

/-- At a trigger time beyond the watermark, in RUN with a clock that has been set, the earliest trigger due is issued:
it is counted, the watermark becomes Te - lead, and a show named by its vector is requested with the count of the hour
(R160, R161); the row has no effect otherwise (the model's choice, log entry 2). The triggers due are those of the
current and the next cycle, an entry of the current cycle whose offset lies below the lead among them (the model's
choice, log entry 41). A request of the calendar joins the show queue or raises SHOW_DROPPED with its reason (R142,
R143), and a show that becomes the head is judged last (R145; log entry 36). A derivation sets the cycle start, the list
gates and their announcement, and then settles the triggers: the latest one due is issued if it lies within the catch-up
setting, the others are then missed (the order is the model's, log entry 46), and the watermark becomes now; outside RUN
or with an UNSET clock the watermark alone may fall back to now (R162). The entries and leads taken up to then are the
model's own record (log entry 14). -/
def Obligations.TriggersAreIssued : Prop :=
  (∀ s : State,
    ((s.mgmt.engine = .config ∨ s.clock.state = .unset ∨ s.dueTriggers = []) → exec .triggerTime s = .next s) ∧
    (∀ (te : Int) (trigger : Trigger) (more : List (Time × Trigger)),
      s.mgmt.engine = .run → s.clock.state ≠ .unset → s.dueTriggers = (te, trigger) :: more →
      exec .triggerTime s = .next (s.judgeAfter (s.issueTrigger te trigger)))) ∧
  (∀ s : State,
    let c := s.calendar
    let bank := c.activeBank
    let entries := bank.entries.toList.take bank.count
    let ofCycle (start : Int) : List (Time × Trigger) :=
      entries.filterMap (fun e => e.trigger.map (fun t => (start + e.offset, t)))
    s.dueTriggers = (ofCycle c.cycleStart ++ ofCycle (c.cycleStart + bank.cycle)).filter (fun x =>
      decide (c.watermark < x.1 - s.mgmt.settings.lead ∧ x.1 - s.mgmt.settings.lead ≤ s.clock.time))) ∧
  (∀ (s : State) (te : Int) (trigger : Trigger) (v : Fin 16), trigger.vector = v.val →
    let c := s.calendar
    let issued : State := { s with calendar := { c with
      watermark := te - s.mgmt.settings.lead,
      counters := { c.counters with triggersIssued := min (c.counters.triggersIssued + 1) 4294967295 } } }
    let h := ((te % 86400000) / 3600000).toNat
    let count := match trigger.source with
      | .none => 0
      | .hour12 => (h + 11) % 12 + 1
      | .hour24 => if h = 0 then 24 else h
      | .fixed n => n
    (c.vectors[v] = none → s.issueTrigger te trigger = issued) ∧
    (∀ w, c.vectors[v] = some w → s.issueTrigger te trigger = issued.calendarRequest w count te v)) ∧
  (∀ (s : State) (w : Fin 32) (count : Nat) (te : Int) (v : Fin 16),
    let t := s.shows[w].tempo
    let u := s.showUnit
    let c := u.counters
    let held := (∃ q ∈ u.queue, q.showId = w) ∨ ∃ k : Fin 4, s.runs[k].state ≠ .free ∧ s.runs[k].showId = some w
    let joined : ShowRequest :=
      { showId := w, count := count, tempo := t, anchor := some te, origin := .calendar v, cyclesWaited := 0 }
    let dropped (unit : ShowUnit) (reason : Nat) : State := ({ s with showUnit := unit } : State).raise .showDropped
      w.val reason
    let captured : ShowUnit := { u with
      counters := { c with fitsNowhere := min (c.fitsNowhere + 1) 4294967295 },
      capture := match u.capture with
        | none => some (w, (s.shows[w].declaredLength * 100 + t / 2) / t)
        | some x => some x }
    (s.shows[w].enabled = false → s.calendarRequest w count te v =
      dropped { u with counters := { c with invalid := min (c.invalid + 1) 4294967295 } } 6) ∧
    (s.shows[w].enabled = true → held → s.calendarRequest w count te v =
      dropped { u with counters := { c with duplicate := min (c.duplicate + 1) 4294967295 } } 1) ∧
    (s.shows[w].enabled = true → ¬held → s.fitsActive w t = false → s.calendarRequest w count te v =
      dropped captured 3) ∧
    (s.shows[w].enabled = true → ¬held → s.fitsActive w t = true → 8 ≤ u.queue.length →
      s.calendarRequest w count te v =
        dropped { u with counters := { c with queueFull := min (c.queueFull + 1) 4294967295 } } 2) ∧
    (s.shows[w].enabled = true → ¬held → s.fitsActive w t = true → u.queue.length < 8 →
      s.calendarRequest w count te v = { s with showUnit := { u with
        queue := u.queue ++ [joined], counters := { c with requests := min (c.requests + 1) 4294967295 } } })) ∧
  ∀ s : State,
    let c := s.calendar
    let bank := c.activeBank
    let now := s.clock.time
    let entries := bank.entries.toList.take bank.count
    let start : Int := if bank.base ≤ now then bank.base + (now - bank.base) / bank.cycle * bank.cycle else bank.base
    let inForce := match (entries.filter (fun e => decide ((e.offset : Int) ≤ now - start))).getLast? with
      | some e => some e
      | none => entries.getLast?
    let gates : Gate × Gate := match inForce with
      | some e => (e.bellGate, e.figureGate)
      | none => (.opened, .opened)
    let placed : State := State.announce s { s with calendar := { c with
      cycleStart := start, listBells := gates.1, listFigures := gates.2, entriesTaken := now, leadsTaken := now } }
    let marked (u : State) (watermark : Int) : State := { u with calendar := { u.calendar with watermark := watermark } }
    let missed (u : State) (n : Nat) : State := if n = 0 then u else
      ({ u with calendar := { u.calendar with counters := { u.calendar.counters with
        missed := min (u.calendar.counters.missed + n) 4294967295 } } } : State).raise .triggersMissed n 0
    ((s.mgmt.engine = .config ∨ s.clock.state = .unset) → s.derive = marked placed (min c.watermark now)) ∧
    (s.mgmt.engine = .run → s.clock.state ≠ .unset → placed.dueTriggers = [] → s.derive = marked placed now) ∧
    (∀ earlier te trigger, s.mgmt.engine = .run → s.clock.state ≠ .unset →
      placed.dueTriggers = earlier ++ [(te, trigger)] →
      (now - s.mgmt.settings.catchUp ≤ te →
        s.derive = marked (missed (placed.issueTrigger te trigger) earlier.length) now) ∧
      (te < now - s.mgmt.settings.catchUp → s.derive = marked (missed placed (earlier.length + 1)) now))

/-- SEASON_SWITCH is BUSY while a switch is pending; a bank that fails validation refuses it; a later base makes it
pending; an earlier one takes it into effect at once, unless more than 65,535 cycles have passed. A pending base that is
reached takes effect: the banks are exchanged, the position is derived, every queued show is checked afresh, in queue
order, and one that now fits nowhere is dropped with its reason, the head is judged, and then SWITCHES and SWITCH_DONE
tell of it (R143, R145, R164, R165; the judgement before the event is the model's order, log entries 36 and 46).
PENDING_SWITCH_BASE before its base, or with none pending, has no effect (the model's choice, log entry 2). -/
def Obligations.SeasonSwitches : Prop :=
  (∀ b : Bank, b.failure = none ↔
    60000 ≤ b.cycle ∧ b.cycle ≤ 604800000 ∧
    (b.entries.toList.take b.count).Pairwise (fun x y => x.offset < y.offset) ∧
    ∀ e ∈ b.entries.toList.take b.count, e.offset < b.cycle ∧ ∀ t, e.trigger = some t → t.vector ≤ 15) ∧
  ∀ s : State,
    let c := s.calendar
    let shadow := match c.active with
      | .a => c.bankB
      | .b => c.bankA
    let refused : State := { s with calendar := { c with counters :=
      { c.counters with switchRefused := min (c.counters.switchRefused + 1) 4294967295 } } }
    let switched (t : State) (base : Int) : Prop :=
      t.calendar.active ≠ c.active ∧ t.calendar.activeBank = { shadow with base := base } ∧
      t.calendar.pendingSwitch = none ∧ t.calendar.override = c.override ∧
      t.calendar.counters.switches = min (c.counters.switches + 1) 4294967295 ∧
      t.written = s.written ∧ t.clock = s.clock
    (∀ (f : List Byte) (base : Nat), s.reaches f .seasonSwitch = true →
      readRequest (framePayload f) = some (.seasonSwitch base) →
      (c.pendingSwitch ≠ none → exec (.seasonSwitch f) s = .next (s.respond f (Reply.plain .busy))) ∧
      (∀ i, c.pendingSwitch = none → shadow.failure = some i → exec (.seasonSwitch f) s =
        .next ((refused.raise .switchRefused 1 i).respond f (Reply.plain .badValue))) ∧
      (c.pendingSwitch = none → shadow.failure = none → s.clock.time < base → exec (.seasonSwitch f) s =
        .next (State.respond { s with calendar := { c with pendingSwitch := some (base : Int) } } f
          (Reply.plain .ok))) ∧
      (c.pendingSwitch = none → shadow.failure = none → (base : Int) ≤ s.clock.time →
        65535 < (s.clock.time - base) / shadow.cycle → exec (.seasonSwitch f) s =
        .next ((refused.raise .switchRefused 2 0).respond f (Reply.plain .badValue))) ∧
      (c.pendingSwitch = none → shadow.failure = none → (base : Int) ≤ s.clock.time →
        (s.clock.time - base) / shadow.cycle ≤ 65535 → ∃ t, exec (.seasonSwitch f) s = .next t ∧ switched t base ∧
          t = (s.takeSwitch base ((s.clock.time - base) / shadow.cycle)).respond f (Reply.plain .ok))) ∧
    (∀ base, c.pendingSwitch = some base →
      (base ≤ s.clock.time → exec .pendingSwitchBase s = .next (s.takeSwitch base 0) ∧
        switched (s.takeSwitch base 0) base) ∧
      (s.clock.time < base → exec .pendingSwitchBase s = .next s)) ∧
    (c.pendingSwitch = none → exec .pendingSwitchBase s = .next s) ∧
    (∀ base n : Int,
      let exchanged : Calendar := match c.active with
        | .a => { c with active := .b, bankB := { c.bankB with base := base }, pendingSwitch := none }
        | .b => { c with active := .a, bankA := { c.bankA with base := base }, pendingSwitch := none }
      ∃ t, exec .showAdmission (State.derive { s with calendar := exchanged }).recheckShows = .next t ∧
        s.takeSwitch base n = ({ t with calendar := { t.calendar with counters := { t.calendar.counters with
          switches := min (t.calendar.counters.switches + 1) 4294967295 } } } : State).raise .switchDone n
            (match c.active with
              | .a => 1
              | .b => 0)) ∧
    let checked := s.showUnit.queue.foldl State.recheckOne s
    s.recheckShows = { checked with showUnit := { checked.showUnit with
      queue := s.showUnit.queue.filter (fun q => s.fitsActive q.showId q.tempo) } } ∧
    ∀ q : ShowRequest,
      let u := s.showUnit
      (s.fitsActive q.showId q.tempo = true → s.recheckOne q = s) ∧
      (s.fitsActive q.showId q.tempo = false → s.recheckOne q = ({ s with showUnit := { u with
        counters := { u.counters with fitsNowhere := min (u.counters.fitsNowhere + 1) 4294967295 },
        capture := match u.capture with
          | none => some (q.showId, (s.shows[q.showId].declaredLength * 100 + q.tempo / 2) / q.tempo)
          | some x => some x } } : State).raise .showDropped q.showId.val 3)

/-- SEASON_CANCEL withdraws a pending switch and is answered OK; with none pending it is answered WRONG_STATE and
changes nothing. Taken before the pending base it leaves the banks as they were, which the base then leaves alone;
taken after it, it is answered WRONG_STATE (R166). -/
def Obligations.SeasonCancel : Prop :=
  ∀ (s : State) (f : List Byte), s.reaches f .seasonCancel = true →
    let withdrawn : State := { s with calendar := { s.calendar with pendingSwitch := none } }
    (∀ base, s.calendar.pendingSwitch = some base →
      exec (.seasonCancel f) s = .next (withdrawn.respond f (Reply.plain .ok)) ∧
      exec .pendingSwitchBase (withdrawn.respond f (Reply.plain .ok)) =
        .next (withdrawn.respond f (Reply.plain .ok)) ∧
      (∀ item, (withdrawn.writeSchedule 0 item).1 ≠ .busy) ∧
      (base ≤ s.clock.time → ∃ t, exec .pendingSwitchBase s = .next t ∧ t.calendar.active ≠ s.calendar.active ∧
        (∃ u : State, t = u.raise .switchDone 0 (match t.calendar.active with
          | .a => 0
          | .b => 1)) ∧
        t.head = s.head ∧ exec (.seasonCancel f) t = .next (t.respond f (Reply.plain .wrongState)))) ∧
    (s.calendar.pendingSwitch = none → exec (.seasonCancel f) s = .next (s.respond f (Reply.plain .wrongState)))

/-! Management. -/

/-- A read returns the part asked for of the record or object, or BAD_INDEX, and changes nothing but the response (R171,
R172). A selector that the table has no bank for is answered BAD_VALUE, whatever the part number, and the index of an
object that has none is ignored (the model's choices, log entry 23). A record of any table, written and then read, gives
back the bytes that were written, up to the length of its layout, where its flag and presence bytes are 0 or 1 and the
bytes its other fields do not use are 0 (R177; the layouts that R177 gives by kind alone are those of log entries 19 to
21); a bell's state follows its record (R43), and the header of a bank keeps the base it has, since a write of the
header stores the cycle and the count alone (R155). The engine, the clock and a group answer with their contents in the
order their rules name (R11, R138, R172); the bytes of a request's origin are those of log entry 19, the time to a loss
deadline that is passed reads as 0 (log entry 35), and the figures of a group stand in index order (the model's choice,
log entry 43). A negative time is sent in two's complement (log entry 9), and a flag that is set as 1 (log entry 51). -/
def Obligations.ReadsChangeNothing : Prop :=
  ∀ (s : State) (f : List Byte),
    let part (d : List Byte) (n : Nat) : Reply :=
      if n < (d.length + 47) / 48 then
        { status := .ok, data := [byteOf ((d.length + 47) / 48), byteOf n] ++ (d.drop (48 * n)).take 48 }
      else Reply.plain .badIndex
    (∀ table selector index n, s.reaches f .readRecord = true →
      readRequest (framePayload f) = some (.readRecord table selector index n) →
      (s.recordBytes table selector index = none →
        exec (.readRecord f) s = .next (s.respond f (Reply.plain .badIndex))) ∧
      (∀ d, s.recordBytes table selector index = some d → (selector = 0 ∨ (table = 7 ∧ selector = 1)) →
        exec (.readRecord f) s = .next (s.respond f (part d n))) ∧
      (∀ d, s.recordBytes table selector index = some d → ¬(selector = 0 ∨ (table = 7 ∧ selector = 1)) →
        exec (.readRecord f) s = .next (s.respond f (Reply.plain .badValue)))) ∧
    (∀ object index n, s.reaches f .readState = true →
      readRequest (framePayload f) = some (.readState object index n) →
      (s.objectBytes object index = none → exec (.readState f) s = .next (s.respond f (Reply.plain .badIndex))) ∧
      (∀ d, s.objectBytes object index = some d → exec (.readState f) s = .next (s.respond f (part d n)))) ∧
    (∀ table selector index,
      s.recordBytes table selector index = none ↔
        [48, 48, 64, 1024, 32, 512, 16, 65, 16, 32, 4].getD table 1 ≤ index) ∧
    (∀ object index, s.objectBytes object index = none ↔
      (object = 3 ∧ 4 ≤ index) ∨ (object = 4 ∧ 16 ≤ index) ∨ (object = 5 ∧ 32 ≤ index) ∨ (object = 6 ∧ 4 ≤ index)) ∧
    (∀ index, s.objectBytes 0 index = some (leBytes 1 (match s.mgmt.engine with
        | .config => 0
        | .run => 1) ++ [s.node] ++ leBytes 1 s.mgmt.events.length ++ leBytes 1 s.mgmt.lost ++
        s.mgmt.mask.toList.flatMap (fun on => leBytes 1 (if on then 1 else 0)) ++
        leBytes 1 s.showUnit.queue.length ++ s.showUnit.queue.flatMap (fun q =>
          leBytes 1 q.showId.val ++ leBytes 1 q.count ++ leBytes 1 q.tempo ++
          (match q.anchor with
            | some a => [1] ++ leInt 6 a
            | none => [0, 0, 0, 0, 0, 0, 0]) ++
          (match q.origin with
            | .calendar v => [0] ++ leBytes 1 v.val
            | .cue => [1, 0]) ++
          leBytes 1 q.cyclesWaited))) ∧
    (∀ index, s.objectBytes 1 index = some (leBytes 1 (match s.clock.state with
        | .unset => 0
        | .set => 1
        | .freeRunning => 2) ++ leInt 6 s.clock.time ++ leBytes 1 s.clock.freeze ++
        leBytes 2 (match s.clock.lossDeadline with
          | some d => (d - s.clock.time).toNat
          | none => 0) ++
        leInt 2 s.clock.lastDiff ++ leBytes 4 s.clock.beaconsAccepted ++ leBytes 4 s.clock.badBeacon ++
        leBytes 4 s.clock.steps)) ∧
    (∀ g : Fin 4, s.objectBytes 6 g.val = some (leBytes 2 s.groups[g].limit ++ leBytes 2 s.groups[g].reserve ++
        leBytes 2 (s.strikeSum g) ++ leBytes 2 (s.motorSum g) ++
        leBytes 1 (s.strikeAccount.countP (fun a => a.group = g)) ++
        (let drawn := (List.finRange 16).filter (fun x => s.figs[x].admitted.any (fun a => a.2 = g))
         leBytes 1 drawn.length ++ drawn.flatMap (fun x =>
          leBytes 1 x.val ++ leBytes 2 (match s.figs[x].admitted with
            | some a => a.1
            | none => 0))))) ∧
    ∀ d : List Byte,
      let flag (o : Nat) : Prop := u8 d o ≤ 1
      let zeros (o n : Nat) : Prop := ∀ k, o ≤ k → k < o + n → u8 d k = 0
      let verdict (o : Nat) : Prop := flag (o + 1) ∧ (u8 d o ≠ 3 → zeros (o + 2) 5)
      let outcome (o : Nat) : Prop := u8 d o = 1 → verdict (o + 1)
      let size (o : Nat) : Nat := if u8 d o = 0 then 2 else 8
      let option (o n : Nat) : Prop := flag o ∧ (u8 d o = 0 → zeros (o + 1) n)
      (∀ (i : Fin 48) x, readParse i.val d = some (some x) → outcome 8 → outcome (8 + size 8) →
        State.recordBytes { s with parse := s.parse.set i.val x } 0 0 i.val =
          some (d.take (8 + size 8 + size (8 + size 8)))) ∧
      (∀ (i : Fin 48) x, readBell d = some (some x) → flag 0 →
        State.recordBytes { s with bellRecs := s.bellRecs.set i.val x } 1 0 i.val = some (d.take 24 ++
          leBytes 4 s.bells[i].heat ++ leBytes 4 (min (s.clock.time - s.bells[i].heatAt).toNat 4294967295) ++
          (match s.bells[i].lastFire with
            | some t => 1 :: leInt 6 t
            | none => [0, 0, 0, 0, 0, 0, 0]) ++ [if s.bells[i].unavailable then 1 else 0])) ∧
      (∀ (i : Fin 64) x, readMotifDir d = some (some x) →
        State.recordBytes { s with motifDirs := s.motifDirs.set i.val x } 2 0 i.val = some (d.take 4)) ∧
      (∀ (i : Fin 1024) x, readRow d = some (some x) →
        State.recordBytes { s with rows := s.rows.set i.val x } 3 0 i.val =
          some (d.take ([5, 3, 5, 2].getD (u8 d 0) 0))) ∧
      (∀ (i : Fin 32) x, readShow d = some (some x) → flag 0 →
        State.recordBytes { s with shows := s.shows.set i.val x } 4 0 i.val = some (d.take 13)) ∧
      (∀ (i : Fin 512) x, readMove d = some (some x) → option 8 1 →
        State.recordBytes { s with moves := s.moves.set i.val x } 5 0 i.val = some (d.take 10)) ∧
      (∀ (i : Fin 16) x, readVector d = some (some x) → option 0 1 →
        State.recordBytes { s with calendar := { s.calendar with vectors := s.calendar.vectors.set i.val x } } 6 0
          i.val = some (d.take 2)) ∧
      (∀ (i : Fin 64) e, readSchedule i.val d = some (.entry i (some e)) → option 6 3 → (u8 d 8 ≠ 3 → u8 d 9 = 0) →
        let c := s.calendar
        State.recordBytes { s with calendar := { c with
          bankA := { c.bankA with entries := c.bankA.entries.set i.val e },
          bankB := { c.bankB with entries := c.bankB.entries.set i.val e } } } 7 0 i.val = some (d.take 10)) ∧
      (∀ cycle count, readSchedule 64 d = some (.header (some (cycle, count))) →
        let c := s.calendar
        (c.active = .a → State.recordBytes { s with calendar := { c with
          bankB := { c.bankB with cycle := cycle, count := count } } } 7 0 64 =
            some (leInt 6 c.bankB.base ++ (d.drop 6).take 5)) ∧
        (c.active = .b → State.recordBytes { s with calendar := { c with
          bankA := { c.bankA with cycle := cycle, count := count } } } 7 0 64 =
            some (leInt 6 c.bankA.base ++ (d.drop 6).take 5))) ∧
      (∀ (i : Fin 16) x, readFigure d = some (some x) → flag 0 →
        State.recordBytes { s with figRecs := s.figRecs.set i.val x } 8 0 i.val =
          some (d.take (19 + 5 * u8 d 18))) ∧
      (∀ (i : Fin 32) x, readBoard d = some (some x) → flag 0 →
        State.recordBytes { s with boardRecs := s.boardRecs.set i.val x } 9 0 i.val = some (d.take 4)) ∧
      (∀ (i : Fin 4) x, readGroup d = some (some x) →
        State.recordBytes { s with groups := s.groups.set i.val x } 10 0 i.val = some (d.take 4)) ∧
      (∀ x, readSettings d = some (some x) → verdict 18 → flag 33 →
        State.recordBytes { s with mgmt := { s.mgmt with settings := x } } 11 0 0 = some (d.take 34)) ∧
      (∀ index item, readSchedule index d = some item →
        (s.calendar.active = .a → s.recordBytes 7 1 index = State.recordBytes { s with calendar :=
          { s.calendar with active := .b } } 7 0 index) ∧
        (s.calendar.active = .b → s.recordBytes 7 1 index = State.recordBytes { s with calendar :=
          { s.calendar with active := .a } } 7 0 index))

/-- An accepted write of a parse entry, a directory entry, a row, a show, a move or a vector replaces that record alone
and is answered OK; a write that its busy rule forbids is answered BUSY and changes nothing (R25, R78 to R80, R139,
R140, R156, R171). -/
def Obligations.TableWrites : Prop :=
  ∀ (s : State) (f : List Byte),
    let reading (m : Fin 64) := ∃ k : Fin 4, s.runs[k].state ≠ .free ∧ ∃ x ∈ s.runs[k].stack, x.motif = m
    let used (w : Fin 32) := (∃ q ∈ s.showUnit.queue, q.showId = w) ∨
      ∃ k : Fin 4, s.runs[k].state ≠ .free ∧ s.runs[k].showId = some w
    let ok := Reply.plain .ok
    let busy := Reply.plain .busy
    (∀ (i : Fin 48) x, s.reaches f .writeParse = true → readRequest (framePayload f) = some (.writeParse i.val (some x)) →
      exec (.writeParse f) s = .next (State.respond { s with parse := s.parse.set i.val x } f ok)) ∧
    (∀ (i : Fin 64) x, s.reaches f .writeMotifDir = true →
      readRequest (framePayload f) = some (.writeMotifDir i.val (some x)) →
      (¬reading i → exec (.writeMotifDir f) s =
        .next (State.respond { s with motifDirs := s.motifDirs.set i.val x } f ok)) ∧
      (reading i → exec (.writeMotifDir f) s = .next (s.respond f busy))) ∧
    (∀ (i : Fin 1024) x, s.reaches f .writeMotifRow = true →
      readRequest (framePayload f) = some (.writeMotifRow i.val (some x)) →
      let inRange := ∃ m : Fin 64, reading m ∧ s.motifDirs[m].firstRow ≤ i.val ∧
        i.val < s.motifDirs[m].firstRow + s.motifDirs[m].rowCount
      (¬inRange → exec (.writeMotifRow f) s = .next (State.respond { s with rows := s.rows.set i.val x } f ok)) ∧
      (inRange → exec (.writeMotifRow f) s = .next (s.respond f busy))) ∧
    (∀ (i : Fin 32) x, s.reaches f .writeShow = true →
      readRequest (framePayload f) = some (.writeShow i.val (some x)) →
      (¬used i → exec (.writeShow f) s = .next (State.respond { s with shows := s.shows.set i.val x } f ok)) ∧
      (used i → exec (.writeShow f) s = .next (s.respond f busy))) ∧
    (∀ (i : Fin 512) x, s.reaches f .writeMove = true →
      readRequest (framePayload f) = some (.writeMove i.val (some x)) →
      let inShow := ∃ w : Fin 32, used w ∧ s.shows[w].firstMove ≤ i.val ∧
        i.val < s.shows[w].firstMove + s.shows[w].moveCount
      (¬inShow → exec (.writeMove f) s = .next (State.respond { s with moves := s.moves.set i.val x } f ok)) ∧
      (inShow → exec (.writeMove f) s = .next (s.respond f busy))) ∧
    (∀ (i : Fin 16) x, s.reaches f .writeVector = true →
      readRequest (framePayload f) = some (.writeVector i.val (some x)) →
      exec (.writeVector f) s = .next (State.respond { s with
        calendar := { s.calendar with vectors := s.calendar.vectors.set i.val x } } f ok))

/-- A bell write replaces the record, lowers H to a lower heat limit and makes the bell available when its board or
channel changes (R39, R41). A figure write is accepted in UNHOMED, IDLE and FAULT without current, and makes a figure
whose ground it changes UNHOMED; the head of the show queue is judged after it (R100, R101, R145; log entry 36). BOARD,
GROUP and SETTINGS are written in CONFIG alone (R126, R136, R171). A shadow bank is written while no switch is pending
(R155). -/
def Obligations.RecordWrites : Prop :=
  ∀ (s : State) (f : List Byte),
    let ok := Reply.plain .ok
    (∀ (i : Fin 48) x, s.reaches f .writeBell = true → readRequest (framePayload f) = some (.writeBell i.val (some x)) →
      exec (.writeBell f) s = .next (State.respond { s with
        bellRecs := s.bellRecs.set i.val x,
        bells := s.bells.set i.val { s.bells[i] with
          heat := min s.bells[i].heat x.heatLimit,
          unavailable := s.bells[i].unavailable && decide (s.bellRecs[i].board = x.board ∧
            s.bellRecs[i].channel = x.channel) } } f ok)) ∧
    (∀ (i : Fin 16) (x : FigRec), s.reaches f .writeFigure = true →
      readRequest (framePayload f) = some (.writeFigure i.val (some x)) →
      let r := s.figRecs[i]
      let fig := s.figs[i]
      let apart := x.enabled = true → ∀ g : Fin 16, g ≠ i → s.figRecs[g].enabled = true →
        s.figRecs[g].board ≠ x.board ∨ s.figRecs[g].channel ≠ x.channel
      let takes := fig.state = .unhomed ∨ fig.state = .idle ∨ (fig.state = .fault ∧ fig.admitted = none)
      let same := r.enabled = x.enabled ∧ r.board = x.board ∧ r.channel = x.channel ∧ r.kind = x.kind ∧
        r.span = x.span ∧ r.home = x.home ∧ r.spans = x.spans
      let stored := s.figRecs.set i.val x
      (¬apart → exec (.writeFigure f) s = .next (s.respond f (Reply.plain .badValue))) ∧
      (apart → ¬takes → exec (.writeFigure f) s = .next (s.respond f (Reply.plain .busy))) ∧
      (apart → takes → (same ∨ fig.state = .unhomed) →
        exec (.writeFigure f) s = .next (State.respond (s.judgeAfter { s with figRecs := stored }) f ok)) ∧
      (apart → takes → ¬same → fig.state ≠ .unhomed → exec (.writeFigure f) s = .next (State.respond (s.judgeAfter { s with
        figRecs := stored,
        figs := s.figs.set i.val { fig with
          state := .unhomed, position := none, faultCause := none, flags := ChanReport.clear, needed := [] },
        zones := s.zones.map (fun h => if h = some i then none else h) }) f ok))) ∧
    (∀ (i : Fin 32) x, s.reaches f .writeBoard = true → readRequest (framePayload f) = some (.writeBoard i.val (some x)) →
      (s.mgmt.engine = .run → exec (.writeBoard f) s = .next (s.respond f (Reply.plain .wrongState))) ∧
      (s.mgmt.engine = .config → s.boardApart i x = true → s.boardRecs[i].enabled = x.enabled →
        s.boardRecs[i].address = x.address → s.boardRecs[i].kind = x.kind → exec (.writeBoard f) s =
        .next (State.respond { s with boardRecs := s.boardRecs.set i.val x } f ok)) ∧
      (s.mgmt.engine = .config → s.boardApart i x = true →
        (s.boardRecs[i].enabled ≠ x.enabled ∨ s.boardRecs[i].address ≠ x.address ∨ s.boardRecs[i].kind ≠ x.kind) →
        s.boards[i].commands = [] → (∀ g : Fin 16, s.figRecs[g].board = i → s.figs[g].admitted = none) →
        exec (.writeBoard f) s = .next (State.respond { s with
          boardRecs := s.boardRecs.set i.val x, boards := s.boards.set i.val BoardState.initial } f ok))) ∧
    (∀ (i : Fin 4) x, s.reaches f .writeGroup = true → readRequest (framePayload f) = some (.writeGroup i.val (some x)) →
      (s.mgmt.engine = .run → exec (.writeGroup f) s = .next (s.respond f (Reply.plain .wrongState))) ∧
      (s.mgmt.engine = .config → (∀ a ∈ s.strikeAccount, a.group ≠ i) →
        (∀ g : Fin 16, ∀ ma, s.figs[g].admitted ≠ some (ma, i)) → exec (.writeGroup f) s =
        .next (State.respond { s with groups := s.groups.set i.val x } f ok)) ∧
      (s.mgmt.engine = .config → (∃ a ∈ s.strikeAccount, a.group = i) →
        exec (.writeGroup f) s = .next (s.respond f (Reply.plain .busy)))) ∧
    (∀ x, s.reaches f .writeSettings = true → readRequest (framePayload f) = some (.writeSettings 0 (some x)) →
      (s.mgmt.engine = .run → exec (.writeSettings f) s = .next (s.respond f (Reply.plain .wrongState))) ∧
      (s.mgmt.engine = .config → exec (.writeSettings f) s =
        .next (State.respond { s with mgmt := { s.mgmt with settings := x } } f ok))) ∧
    (∀ (i : Fin 64) e, s.reaches f .writeSchedule = true →
      readRequest (framePayload f) = some (.writeSchedule 0 (.entry i (some e))) →
      let c := s.calendar
      (c.pendingSwitch ≠ none → exec (.writeSchedule f) s = .next (s.respond f (Reply.plain .busy))) ∧
      (c.pendingSwitch = none → c.active = .a → exec (.writeSchedule f) s = .next (State.respond { s with
        calendar := { c with bankB := { c.bankB with entries := c.bankB.entries.set i.val e } } } f ok)) ∧
      (c.pendingSwitch = none → c.active = .b → exec (.writeSchedule f) s = .next (State.respond { s with
        calendar := { c with bankA := { c.bankA with entries := c.bankA.entries.set i.val e } } } f ok))) ∧
    (∀ cycle count, s.reaches f .writeSchedule = true →
      readRequest (framePayload f) = some (.writeSchedule 0 (.header (some (cycle, count)))) →
      let c := s.calendar
      (c.pendingSwitch ≠ none → exec (.writeSchedule f) s = .next (s.respond f (Reply.plain .busy))) ∧
      (c.pendingSwitch = none → c.active = .a → exec (.writeSchedule f) s = .next (State.respond { s with
        calendar := { c with bankB := { c.bankB with cycle := cycle, count := count } } } f ok)) ∧
      (c.pendingSwitch = none → c.active = .b → exec (.writeSchedule f) s = .next (State.respond { s with
        calendar := { c with bankA := { c.bankA with cycle := cycle, count := count } } } f ok))) ∧
    (∀ item, s.reaches f .writeSchedule = true → readRequest (framePayload f) = some (.writeSchedule 1 item) →
      exec (.writeSchedule f) s = .next (s.respond f (Reply.plain .wrongState)))

/-- A write of an index beyond its table is answered BAD_INDEX, and one with a field out of its range BAD_VALUE;
neither changes anything but the response (R171, R155). -/
def Obligations.BadWritesAreRefused : Prop :=
  ∀ (s : State) (f : List Byte),
    let badIndex := State.respond s f (Reply.plain .badIndex)
    let badValue := State.respond s f (Reply.plain .badValue)
    let refuses (c : List Byte → Instr) (size n : Nat) (bad : Prop) : Prop :=
      (size ≤ n → exec (c f) s = .next badIndex) ∧ (n < size → bad → exec (c f) s = .next badValue)
    (∀ n x, s.reaches f .writeParse = true → readRequest (framePayload f) = some (.writeParse n x) →
      refuses .writeParse 48 n (x = none)) ∧
    (∀ n x, s.reaches f .writeBell = true → readRequest (framePayload f) = some (.writeBell n x) →
      refuses .writeBell 48 n (x = none)) ∧
    (∀ n x, s.reaches f .writeMotifDir = true → readRequest (framePayload f) = some (.writeMotifDir n x) →
      refuses .writeMotifDir 64 n (x = none)) ∧
    (∀ n x, s.reaches f .writeMotifRow = true → readRequest (framePayload f) = some (.writeMotifRow n x) →
      refuses .writeMotifRow 1024 n (x = none)) ∧
    (∀ n x, s.reaches f .writeShow = true → readRequest (framePayload f) = some (.writeShow n x) →
      refuses .writeShow 32 n (x = none)) ∧
    (∀ n x, s.reaches f .writeMove = true → readRequest (framePayload f) = some (.writeMove n x) →
      refuses .writeMove 512 n (x = none)) ∧
    (∀ n x, s.reaches f .writeVector = true → readRequest (framePayload f) = some (.writeVector n x) →
      refuses .writeVector 16 n (x = none)) ∧
    (∀ n x, s.reaches f .writeFigure = true → readRequest (framePayload f) = some (.writeFigure n x) →
      refuses .writeFigure 16 n (x = none)) ∧
    (∀ n x, s.reaches f .writeBoard = true → readRequest (framePayload f) = some (.writeBoard n x) →
      s.mgmt.engine = .config → refuses .writeBoard 32 n (x = none)) ∧
    (∀ n x, s.reaches f .writeGroup = true → readRequest (framePayload f) = some (.writeGroup n x) →
      s.mgmt.engine = .config → refuses .writeGroup 4 n (x = none)) ∧
    (∀ n x, s.reaches f .writeSettings = true → readRequest (framePayload f) = some (.writeSettings n x) →
      s.mgmt.engine = .config → refuses .writeSettings 1 n (x = none)) ∧
    (s.reaches f .writeSchedule = true → s.calendar.pendingSwitch = none →
      (readRequest (framePayload f) = some (.writeSchedule 0 .badIndex) →
        exec (.writeSchedule f) s = .next badIndex) ∧
      ((∃ i, readRequest (framePayload f) = some (.writeSchedule 0 (.entry i none))) ∨
          readRequest (framePayload f) = some (.writeSchedule 0 (.header none)) →
        exec (.writeSchedule f) s = .next badValue))

/-- ENGINE_RUN in CONFIG enters RUN, derives the calendar position, has a head that the derivation brings judged (R145;
the order is the model's, log entry 36) and, with home on run, begins a homing of every UNHOMED figure that can home
(R120, R169); ENGINE_STOP in RUN empties the show queue, frees every run, empties the waiting list, discards every next
move and enters CONFIG (the order is the model's, log entry 39); every figure is brought to rest: one under way is asked
to STOP and enters STOPPING with stop end IDLE, or faults with BOARD_ABSENT if its board is ABSENT (R128; log entry 26),
one in STOPPING has its stop end set to IDLE, a waiting or HELD one becomes IDLE, or UNHOMED after a homing, and
releases the zones away from its position, and the others stay; a live move is reported by LIVE_MOVE_DONE as FAILED and
a homing by MOVE_ABANDONED (R124; which counters rise is log entry 15); in the other state each is answered WRONG_STATE
(R169). -/
def Obligations.EngineRunsAndStops : Prop :=
  ∀ (s : State) (f : List Byte),
    (s.reaches f .engineRun = true →
      (s.mgmt.engine = .run → exec (.engineRun f) s = .next (s.respond f (Reply.plain .wrongState))) ∧
      (s.mgmt.engine = .config → s.mgmt.settings.homeOnRun = false → exec (.engineRun f) s =
        .next ((s.judgeAfter (State.derive { s with mgmt := { s.mgmt with engine := .run } })).respond f
          (Reply.plain .ok))) ∧
      (s.mgmt.engine = .config → s.mgmt.settings.homeOnRun = true → exec (.engineRun f) s =
        .next ((s.judgeAfter (State.derive { s with mgmt := { s.mgmt with engine := .run } })).homeAll.respond f
          (Reply.plain .ok))) ∧
      (s.mgmt.engine = .config → ∃ t, exec (.engineRun f) s = .next t ∧ t.mgmt.engine = .run ∧
        t.calendar.cycleStart = cycleStartAt s.calendar.activeBank.base s.calendar.activeBank.cycle s.clock.time ∧
        (s.mgmt.settings.homeOnRun = true → ∀ x : Fin 16,
          s.figRecs[x].enabled = true → s.boardRecs[s.figRecs[x].board].enabled = true →
          s.boardRecs[s.figRecs[x].board].kind = .motion → s.figs[x].state = .unhomed → s.figs[x].owner = none →
          t.figs[x].state = (if t.calendar.figuresOpen = true then .waitZone else .held) ∧
          t.figs[x].position = none ∧
          t.figs[x].current = some { goal := .home, requester := .mgmt, withdrawn := false }))) ∧
    (s.reaches f .engineStop = true →
      (s.mgmt.engine = .config → exec (.engineStop f) s = .next (s.respond f (Reply.plain .wrongState))) ∧
      (s.mgmt.engine = .run → ∃ t, exec (.engineStop f) s = .next t ∧ t.mgmt.engine = .config ∧
        t.showUnit.queue = [] ∧ (∀ k : Fin 4, t.runs[k].state = .free) ∧ t.launch.waiting = [] ∧
        (∀ x : Fin 16, t.figs[x].nextMove = none) ∧
        (∀ b : Fin 32, ∀ c ∈ t.boards[b].commands, c.op = .stop ∨ c.condition.inHandshake = true) ∧
        t.written = s.written ∧ t.clock = s.clock ∧ t.calendar = s.calendar ∧
        ∀ x : Fin 16,
          let fig := s.figs[x]
          let r := s.figRecs[x]
          let unowned (y : Figure) : Figure := { y with nextMove := none, owner := match y.owner with
            | some k => if s.runs[k].state = .free then some k else none
            | none => none }
          let keepsZones := ∀ z : Fin 24, s.zones[z] = some x → t.zones[z] = some x
          let reports (kind : EventKind) (arg2 : Int) : Prop := ∃ new, t.mgmt.events = s.mgmt.events ++ new ∧
            (s.mgmt.mask[2] = true → t.mgmt.events.length < 32 →
              ∃ e ∈ new, e.kind = kind ∧ e.arg1 = x.val ∧ e.arg2 = arg2)
          ((fig.state = .unhomed ∨ fig.state = .idle ∨ fig.state = .fault) → fig.current = none → fig.nextMove = none →
            t.figs[x] = unowned fig ∧ keepsZones) ∧
          ∀ m, fig.current = some m → m.withdrawn = false → (fig.nextMove = none ∨ ∀ k i, m.requester ≠ .run k i) →
            let ended : Option Move := some { m with withdrawn := true }
            let failed : Nat := if m.requester = .cue then min (fig.movesFailed + 1) 65535 else fig.movesFailed
            (m.requester = .cue → reports .liveMoveDone 0) ∧ (m.requester = .mgmt → reports .moveAbandoned 5) ∧
            ((fig.state = .waitZone ∨ fig.state = .waitSupply ∨ fig.state = .held) →
              t.figs[x] = unowned { fig with
                state := if m.goal = .home then .unhomed else .idle, current := none, waitStart := none,
                movesFailed := failed } ∧
              ∀ z : Fin 24, s.zones[z] = some x →
                t.zones[z] = if z ∈ zonesAt r fig.position then some x else none) ∧
            ((fig.state = .starting ∨ fig.state = .moving ∨ fig.state = .homing) →
              s.boards[r.board].presence ≠ .absent →
              t.figs[x] = unowned { fig with
                state := .stopping, stopEnd := .idle, travelDeadline := none, commandDone := false, current := ended,
                movesFailed := failed } ∧
              keepsZones ∧ ∃ c ∈ t.boards[r.board].commands, c.op = .stop ∧ x ∈ c.owners) ∧
            ((fig.state = .starting ∨ fig.state = .moving ∨ fig.state = .homing) →
              s.boards[r.board].presence = .absent →
              t.figs[x] = unowned { fig with
                state := .fault, faultCause := some .boardAbsent, stopEnd := .idle, travelDeadline := none,
                commandDone := false, current := none, waitStart := none, waitUsed := 0, admitted := none,
                movesFailed := failed } ∧ keepsZones) ∧
            (fig.state = .stopping →
              t.figs[x] = unowned { fig with stopEnd := .idle, current := ended, movesFailed := failed } ∧
              keepsZones)))

/-- ENGINE_RESET frees every slot without cancellation events: every run record returns to the values of R81, the launch
queue is purged with its open frames offered to the strike output queue, where those that find a place among the 8 stand
in their order (R67, R68, R73), every figure is UNHOMED with no owner and its moves are reported to no one, and the
motif store is kept (R97). -/
def Obligations.ResetFreesEverySlot : Prop :=
  ∀ (s : State) (f : List Byte), s.reaches f .engineReset = true →
    ∃ t, exec (.engineReset f) s = .next t ∧ t.mgmt.events = s.mgmt.events ∧ t.mgmt.lost = s.mgmt.lost ∧
      (∀ k : Fin 4, t.runs[k] =
        { state := .free, kind := .motif, showId := none, topMotif := 0, origin := .cue, anchor := 0, tempo := 100,
          count := 0, position := 0, stack := [], barrier := none, marks := Vector.replicate 16 none, paused := false,
          roomNotice := false, zeroCount := 0, cursor := 0, progress := [], planned := 0, lost := 0, nestTooDeep := 0,
          holdTotal := 0 }) ∧
      t.launch.waiting = [] ∧ t.launch.assembly = [] ∧
      t.tail.strikeQueue = s.tail.strikeQueue ++
        (s.launch.assembly.take (8 - s.tail.strikeQueue.length)).map (fun o =>
          formFrame s.boardRecs[o.board].address s.node 0x40 (byteOf o.pairs.length ::
            o.pairs.flatMap (fun p => byteOf p.1.val :: leBytes 2 p.2))) ∧
      (∀ x : Fin 16, t.figs[x].state = .unhomed ∧ t.figs[x].owner = none ∧ t.figs[x].current = none ∧
        t.figs[x].nextMove = none ∧ t.figs[x].movesFailed = 0) ∧
      t.motifDirs = s.motifDirs ∧ t.rows = s.rows ∧ t.mgmt.engine = .config

/-- CLEAR_COUNTERS clears the counters and leaves ACCEPTED at the entries held (R76, R172); SET_EVENT_MASK replaces the
mask (R172); a request that cannot be read is answered BAD_REQUEST (R171); a cue is refused in CONFIG with NOT_RUNNING,
one that cannot be read with BAD_CUE, one with a time while the clock is UNSET with CLOCK_UNSET, and one that names no
motif, show or figure with its reason (R173, R174): a motif with MOTIF_INVALID whether a slot is FREE or not (R94; the
order is the model's choice, log entry 53). -/
def Obligations.OtherRequestsAndCues : Prop :=
  ∀ (s : State) (f : List Byte),
    (s.reaches f .clearCounters = true → readRequest (framePayload f) = some .clearCounters →
      ∃ t, exec (.clearCounters f) s = .next t ∧
        t.launch.counters = { StrikeCounters.zero with accepted := s.held } ∧ t.launch.greatestLateness = 0 ∧
        t.launch.waiting = s.launch.waiting ∧ t.launch.assembly = s.launch.assembly ∧
        t.classifier = ClassifierCounters.zero ∧ t.head.counters = PortCounters.zero ∧
        t.tail.counters = PortCounters.zero ∧ t.showUnit.counters = ShowCounters.zero ∧ t.showUnit.capture = none ∧
        t.calendar.counters = CalendarCounters.zero ∧ t.boardUnit.staleAnswer = 0 ∧ t.boardUnit.badBoardFrame = 0 ∧
        (∀ x : Fin 16, t.figs[x] = { s.figs[x] with
          movesArrived := 0, movesFailed := 0, moveReplaced := 0, moveAbandoned := 0 }) ∧
        (∀ b : Fin 32, t.boards[b] = { s.boards[b] with sent := 0, rejected := 0, timedOut := 0, statusTaken := 0 }) ∧
        t.clock = { s.clock with beaconsAccepted := 0, badBeacon := 0, steps := 0 } ∧
        t.runs = s.runs ∧ t.written = s.written ∧ t.zones = s.zones ∧ t.bells = s.bells) ∧
    (∀ mask, s.reaches f .setEventMask = true → readRequest (framePayload f) = some (.setEventMask mask) →
      exec (.setEventMask f) s = .next (State.respond { s with mgmt := { s.mgmt with mask := mask } } f
        (Reply.plain .ok))) ∧
    (s.reaches f .unreadable = true → 2 ≤ (framePayload f).length →
      exec (.unknownRequest f) s = .next (s.respond f (Reply.plain .badRequest))) ∧
    (s.cued f .unreadable = true → s.mgmt.engine = .run → framePayload f ≠ [] →
      exec (.unknownCueType f) s = .next (s.raise .cueRefused 3 (256 * u8 (framePayload f) 0))) ∧
    let cue (row : CueRow) : Host.Outcome State Fault Refusal := match row with
      | .strike => exec (.strikeCue f) s
      | .motifPlay => exec (.motifPlay f) s
      | .showStart => exec (.showStart f) s
      | .showStop => exec (.showStop f) s
      | .figureGo => exec (.figureGo f) s
      | .allStop => exec (.allStop f) s
      | .unreadable => exec (.unknownCueType f) s
    let refused (code type : Nat) : Host.Outcome State Fault Refusal :=
      .next (s.raise .cueRefused code (256 * type))
    (∀ row : CueRow, s.cued f row = true → s.mgmt.engine = .config → framePayload f ≠ [] →
      cue row = refused 1 (u8 (framePayload f) 0)) ∧
    (∀ row c, s.cued f row = true → s.mgmt.engine = .run → s.clock.state = .unset →
      readCue (framePayload f) = some c →
      ((∃ base es, c = .strike base es ∧ base ≠ 0) ∨
        (∃ m anchor tempo transpose scale count, c = .motifPlay m anchor tempo transpose scale count ∧ anchor ≠ 0) ∨
        (∃ w anchor tempo count, c = .showStart w anchor tempo count ∧ anchor ≠ 0)) →
      cue row = refused 2 (u8 (framePayload f) 0)) ∧
    (∀ m anchor tempo transpose scale count, s.cued f .motifPlay = true → s.mgmt.engine = .run →
      readCue (framePayload f) = some (.motifPlay m anchor tempo transpose scale count) →
      (anchor = 0 ∨ s.clock.state ≠ .unset) → 64 ≤ m → exec (.motifPlay f) s = refused 8 2) ∧
    (∀ w anchor tempo count, s.cued f .showStart = true → s.mgmt.engine = .run →
      readCue (framePayload f) = some (.showStart w anchor tempo count) → (anchor = 0 ∨ s.clock.state ≠ .unset) →
      32 ≤ w →
      let u := s.showUnit
      let counted : ShowUnit := { u with counters := { u.counters with invalid := min (u.counters.invalid + 1) 4294967295 } }
      exec (.showStart f) s = .next (({ s with showUnit := counted } : State).raise .cueRefused 10 768)) ∧
    (∀ w, s.cued f .showStop = true → s.mgmt.engine = .run → readCue (framePayload f) = some (.showStop w) → 32 ≤ w →
      exec (.showStop f) s = refused 10 4) ∧
    (∀ x target pct way_, s.cued f .figureGo = true → s.mgmt.engine = .run →
      readCue (framePayload f) = some (.figureGo x target pct way_) → 16 ≤ x → exec (.figureGo f) s = refused 15 5)
end

