-- ==== Sys2Proof/Laws/State.lean ====
section
/-! SUPPORT. What each named update of the state does to each of its fields: one rewriting lemma per field and update,
each true by unfolding the update, so that no later proof unfolds a record update. -/

namespace Sys2Proof.Machine.State

variable (s : State)

/-! `modClock` writes `clock`. -/

@[simp] theorem modClock_clock (g : Clock → Clock) : (s.modClock g).clock = g s.clock := rfl
@[simp] theorem modClock_node (g : Clock → Clock) : (s.modClock g).node = s.node := rfl
@[simp] theorem modClock_head (g : Clock → Clock) : (s.modClock g).head = s.head := rfl
@[simp] theorem modClock_tail (g : Clock → Clock) : (s.modClock g).tail = s.tail := rfl
@[simp] theorem modClock_parse (g : Clock → Clock) : (s.modClock g).parse = s.parse := rfl
@[simp] theorem modClock_classifier (g : Clock → Clock) : (s.modClock g).classifier = s.classifier := rfl
@[simp] theorem modClock_bellRecs (g : Clock → Clock) : (s.modClock g).bellRecs = s.bellRecs := rfl
@[simp] theorem modClock_bells (g : Clock → Clock) : (s.modClock g).bells = s.bells := rfl
@[simp] theorem modClock_launch (g : Clock → Clock) : (s.modClock g).launch = s.launch := rfl
@[simp] theorem modClock_motifDirs (g : Clock → Clock) : (s.modClock g).motifDirs = s.motifDirs := rfl
@[simp] theorem modClock_rows (g : Clock → Clock) : (s.modClock g).rows = s.rows := rfl
@[simp] theorem modClock_runs (g : Clock → Clock) : (s.modClock g).runs = s.runs := rfl
@[simp] theorem modClock_figRecs (g : Clock → Clock) : (s.modClock g).figRecs = s.figRecs := rfl
@[simp] theorem modClock_figs (g : Clock → Clock) : (s.modClock g).figs = s.figs := rfl
@[simp] theorem modClock_zones (g : Clock → Clock) : (s.modClock g).zones = s.zones := rfl
@[simp] theorem modClock_boardRecs (g : Clock → Clock) : (s.modClock g).boardRecs = s.boardRecs := rfl
@[simp] theorem modClock_boards (g : Clock → Clock) : (s.modClock g).boards = s.boards := rfl
@[simp] theorem modClock_boardUnit (g : Clock → Clock) : (s.modClock g).boardUnit = s.boardUnit := rfl
@[simp] theorem modClock_groups (g : Clock → Clock) : (s.modClock g).groups = s.groups := rfl
@[simp] theorem modClock_strikeAccount (g : Clock → Clock) : (s.modClock g).strikeAccount = s.strikeAccount := rfl
@[simp] theorem modClock_shows (g : Clock → Clock) : (s.modClock g).shows = s.shows := rfl
@[simp] theorem modClock_moves (g : Clock → Clock) : (s.modClock g).moves = s.moves := rfl
@[simp] theorem modClock_showUnit (g : Clock → Clock) : (s.modClock g).showUnit = s.showUnit := rfl
@[simp] theorem modClock_calendar (g : Clock → Clock) : (s.modClock g).calendar = s.calendar := rfl
@[simp] theorem modClock_mgmt (g : Clock → Clock) : (s.modClock g).mgmt = s.mgmt := rfl
@[simp] theorem modClock_freeCount (g : Clock → Clock) : (s.modClock g).freeCount = s.freeCount := rfl
@[simp] theorem modClock_pending (g : Clock → Clock) : (s.modClock g).pending = s.pending := rfl

/-! `modHead` writes `head`. -/

@[simp] theorem modHead_clock (g : HeadPort → HeadPort) : (s.modHead g).clock = s.clock := rfl
@[simp] theorem modHead_node (g : HeadPort → HeadPort) : (s.modHead g).node = s.node := rfl
@[simp] theorem modHead_head (g : HeadPort → HeadPort) : (s.modHead g).head = g s.head := rfl
@[simp] theorem modHead_tail (g : HeadPort → HeadPort) : (s.modHead g).tail = s.tail := rfl
@[simp] theorem modHead_parse (g : HeadPort → HeadPort) : (s.modHead g).parse = s.parse := rfl
@[simp] theorem modHead_classifier (g : HeadPort → HeadPort) : (s.modHead g).classifier = s.classifier := rfl
@[simp] theorem modHead_bellRecs (g : HeadPort → HeadPort) : (s.modHead g).bellRecs = s.bellRecs := rfl
@[simp] theorem modHead_bells (g : HeadPort → HeadPort) : (s.modHead g).bells = s.bells := rfl
@[simp] theorem modHead_launch (g : HeadPort → HeadPort) : (s.modHead g).launch = s.launch := rfl
@[simp] theorem modHead_motifDirs (g : HeadPort → HeadPort) : (s.modHead g).motifDirs = s.motifDirs := rfl
@[simp] theorem modHead_rows (g : HeadPort → HeadPort) : (s.modHead g).rows = s.rows := rfl
@[simp] theorem modHead_runs (g : HeadPort → HeadPort) : (s.modHead g).runs = s.runs := rfl
@[simp] theorem modHead_figRecs (g : HeadPort → HeadPort) : (s.modHead g).figRecs = s.figRecs := rfl
@[simp] theorem modHead_figs (g : HeadPort → HeadPort) : (s.modHead g).figs = s.figs := rfl
@[simp] theorem modHead_zones (g : HeadPort → HeadPort) : (s.modHead g).zones = s.zones := rfl
@[simp] theorem modHead_boardRecs (g : HeadPort → HeadPort) : (s.modHead g).boardRecs = s.boardRecs := rfl
@[simp] theorem modHead_boards (g : HeadPort → HeadPort) : (s.modHead g).boards = s.boards := rfl
@[simp] theorem modHead_boardUnit (g : HeadPort → HeadPort) : (s.modHead g).boardUnit = s.boardUnit := rfl
@[simp] theorem modHead_groups (g : HeadPort → HeadPort) : (s.modHead g).groups = s.groups := rfl
@[simp] theorem modHead_strikeAccount (g : HeadPort → HeadPort) : (s.modHead g).strikeAccount = s.strikeAccount := rfl
@[simp] theorem modHead_shows (g : HeadPort → HeadPort) : (s.modHead g).shows = s.shows := rfl
@[simp] theorem modHead_moves (g : HeadPort → HeadPort) : (s.modHead g).moves = s.moves := rfl
@[simp] theorem modHead_showUnit (g : HeadPort → HeadPort) : (s.modHead g).showUnit = s.showUnit := rfl
@[simp] theorem modHead_calendar (g : HeadPort → HeadPort) : (s.modHead g).calendar = s.calendar := rfl
@[simp] theorem modHead_mgmt (g : HeadPort → HeadPort) : (s.modHead g).mgmt = s.mgmt := rfl
@[simp] theorem modHead_freeCount (g : HeadPort → HeadPort) : (s.modHead g).freeCount = s.freeCount := rfl
@[simp] theorem modHead_pending (g : HeadPort → HeadPort) : (s.modHead g).pending = s.pending := rfl

/-! `modTail` writes `tail`. -/

@[simp] theorem modTail_clock (g : TailPort → TailPort) : (s.modTail g).clock = s.clock := rfl
@[simp] theorem modTail_node (g : TailPort → TailPort) : (s.modTail g).node = s.node := rfl
@[simp] theorem modTail_head (g : TailPort → TailPort) : (s.modTail g).head = s.head := rfl
@[simp] theorem modTail_tail (g : TailPort → TailPort) : (s.modTail g).tail = g s.tail := rfl
@[simp] theorem modTail_parse (g : TailPort → TailPort) : (s.modTail g).parse = s.parse := rfl
@[simp] theorem modTail_classifier (g : TailPort → TailPort) : (s.modTail g).classifier = s.classifier := rfl
@[simp] theorem modTail_bellRecs (g : TailPort → TailPort) : (s.modTail g).bellRecs = s.bellRecs := rfl
@[simp] theorem modTail_bells (g : TailPort → TailPort) : (s.modTail g).bells = s.bells := rfl
@[simp] theorem modTail_launch (g : TailPort → TailPort) : (s.modTail g).launch = s.launch := rfl
@[simp] theorem modTail_motifDirs (g : TailPort → TailPort) : (s.modTail g).motifDirs = s.motifDirs := rfl
@[simp] theorem modTail_rows (g : TailPort → TailPort) : (s.modTail g).rows = s.rows := rfl
@[simp] theorem modTail_runs (g : TailPort → TailPort) : (s.modTail g).runs = s.runs := rfl
@[simp] theorem modTail_figRecs (g : TailPort → TailPort) : (s.modTail g).figRecs = s.figRecs := rfl
@[simp] theorem modTail_figs (g : TailPort → TailPort) : (s.modTail g).figs = s.figs := rfl
@[simp] theorem modTail_zones (g : TailPort → TailPort) : (s.modTail g).zones = s.zones := rfl
@[simp] theorem modTail_boardRecs (g : TailPort → TailPort) : (s.modTail g).boardRecs = s.boardRecs := rfl
@[simp] theorem modTail_boards (g : TailPort → TailPort) : (s.modTail g).boards = s.boards := rfl
@[simp] theorem modTail_boardUnit (g : TailPort → TailPort) : (s.modTail g).boardUnit = s.boardUnit := rfl
@[simp] theorem modTail_groups (g : TailPort → TailPort) : (s.modTail g).groups = s.groups := rfl
@[simp] theorem modTail_strikeAccount (g : TailPort → TailPort) : (s.modTail g).strikeAccount = s.strikeAccount := rfl
@[simp] theorem modTail_shows (g : TailPort → TailPort) : (s.modTail g).shows = s.shows := rfl
@[simp] theorem modTail_moves (g : TailPort → TailPort) : (s.modTail g).moves = s.moves := rfl
@[simp] theorem modTail_showUnit (g : TailPort → TailPort) : (s.modTail g).showUnit = s.showUnit := rfl
@[simp] theorem modTail_calendar (g : TailPort → TailPort) : (s.modTail g).calendar = s.calendar := rfl
@[simp] theorem modTail_mgmt (g : TailPort → TailPort) : (s.modTail g).mgmt = s.mgmt := rfl
@[simp] theorem modTail_freeCount (g : TailPort → TailPort) : (s.modTail g).freeCount = s.freeCount := rfl
@[simp] theorem modTail_pending (g : TailPort → TailPort) : (s.modTail g).pending = s.pending := rfl

/-! `setParse` writes `parse`. -/

@[simp] theorem setParse_clock (i : Fin 48) (x : ParseEntry) : (s.setParse i x).clock = s.clock := rfl
@[simp] theorem setParse_node (i : Fin 48) (x : ParseEntry) : (s.setParse i x).node = s.node := rfl
@[simp] theorem setParse_head (i : Fin 48) (x : ParseEntry) : (s.setParse i x).head = s.head := rfl
@[simp] theorem setParse_tail (i : Fin 48) (x : ParseEntry) : (s.setParse i x).tail = s.tail := rfl
@[simp] theorem setParse_parse (i : Fin 48) (x : ParseEntry) :
    (s.setParse i x).parse = s.parse.set i.val x i.isLt := rfl
@[simp] theorem setParse_classifier (i : Fin 48) (x : ParseEntry) : (s.setParse i x).classifier = s.classifier := rfl
@[simp] theorem setParse_bellRecs (i : Fin 48) (x : ParseEntry) : (s.setParse i x).bellRecs = s.bellRecs := rfl
@[simp] theorem setParse_bells (i : Fin 48) (x : ParseEntry) : (s.setParse i x).bells = s.bells := rfl
@[simp] theorem setParse_launch (i : Fin 48) (x : ParseEntry) : (s.setParse i x).launch = s.launch := rfl
@[simp] theorem setParse_motifDirs (i : Fin 48) (x : ParseEntry) : (s.setParse i x).motifDirs = s.motifDirs := rfl
@[simp] theorem setParse_rows (i : Fin 48) (x : ParseEntry) : (s.setParse i x).rows = s.rows := rfl
@[simp] theorem setParse_runs (i : Fin 48) (x : ParseEntry) : (s.setParse i x).runs = s.runs := rfl
@[simp] theorem setParse_figRecs (i : Fin 48) (x : ParseEntry) : (s.setParse i x).figRecs = s.figRecs := rfl
@[simp] theorem setParse_figs (i : Fin 48) (x : ParseEntry) : (s.setParse i x).figs = s.figs := rfl
@[simp] theorem setParse_zones (i : Fin 48) (x : ParseEntry) : (s.setParse i x).zones = s.zones := rfl
@[simp] theorem setParse_boardRecs (i : Fin 48) (x : ParseEntry) : (s.setParse i x).boardRecs = s.boardRecs := rfl
@[simp] theorem setParse_boards (i : Fin 48) (x : ParseEntry) : (s.setParse i x).boards = s.boards := rfl
@[simp] theorem setParse_boardUnit (i : Fin 48) (x : ParseEntry) : (s.setParse i x).boardUnit = s.boardUnit := rfl
@[simp] theorem setParse_groups (i : Fin 48) (x : ParseEntry) : (s.setParse i x).groups = s.groups := rfl
@[simp] theorem setParse_strikeAccount (i : Fin 48) (x : ParseEntry) :
    (s.setParse i x).strikeAccount = s.strikeAccount := rfl
@[simp] theorem setParse_shows (i : Fin 48) (x : ParseEntry) : (s.setParse i x).shows = s.shows := rfl
@[simp] theorem setParse_moves (i : Fin 48) (x : ParseEntry) : (s.setParse i x).moves = s.moves := rfl
@[simp] theorem setParse_showUnit (i : Fin 48) (x : ParseEntry) : (s.setParse i x).showUnit = s.showUnit := rfl
@[simp] theorem setParse_calendar (i : Fin 48) (x : ParseEntry) : (s.setParse i x).calendar = s.calendar := rfl
@[simp] theorem setParse_mgmt (i : Fin 48) (x : ParseEntry) : (s.setParse i x).mgmt = s.mgmt := rfl
@[simp] theorem setParse_freeCount (i : Fin 48) (x : ParseEntry) : (s.setParse i x).freeCount = s.freeCount := rfl
@[simp] theorem setParse_pending (i : Fin 48) (x : ParseEntry) : (s.setParse i x).pending = s.pending := rfl

/-! `modClassifier` writes `classifier`. -/

@[simp] theorem modClassifier_clock (g : ClassifierCounters → ClassifierCounters) :
    (s.modClassifier g).clock = s.clock := rfl
@[simp] theorem modClassifier_node (g : ClassifierCounters → ClassifierCounters) :
    (s.modClassifier g).node = s.node := rfl
@[simp] theorem modClassifier_head (g : ClassifierCounters → ClassifierCounters) :
    (s.modClassifier g).head = s.head := rfl
@[simp] theorem modClassifier_tail (g : ClassifierCounters → ClassifierCounters) :
    (s.modClassifier g).tail = s.tail := rfl
@[simp] theorem modClassifier_parse (g : ClassifierCounters → ClassifierCounters) :
    (s.modClassifier g).parse = s.parse := rfl
@[simp] theorem modClassifier_classifier (g : ClassifierCounters → ClassifierCounters) :
    (s.modClassifier g).classifier = g s.classifier := rfl
@[simp] theorem modClassifier_bellRecs (g : ClassifierCounters → ClassifierCounters) :
    (s.modClassifier g).bellRecs = s.bellRecs := rfl
@[simp] theorem modClassifier_bells (g : ClassifierCounters → ClassifierCounters) :
    (s.modClassifier g).bells = s.bells := rfl
@[simp] theorem modClassifier_launch (g : ClassifierCounters → ClassifierCounters) :
    (s.modClassifier g).launch = s.launch := rfl
@[simp] theorem modClassifier_motifDirs (g : ClassifierCounters → ClassifierCounters) :
    (s.modClassifier g).motifDirs = s.motifDirs := rfl
@[simp] theorem modClassifier_rows (g : ClassifierCounters → ClassifierCounters) :
    (s.modClassifier g).rows = s.rows := rfl
@[simp] theorem modClassifier_runs (g : ClassifierCounters → ClassifierCounters) :
    (s.modClassifier g).runs = s.runs := rfl
@[simp] theorem modClassifier_figRecs (g : ClassifierCounters → ClassifierCounters) :
    (s.modClassifier g).figRecs = s.figRecs := rfl
@[simp] theorem modClassifier_figs (g : ClassifierCounters → ClassifierCounters) :
    (s.modClassifier g).figs = s.figs := rfl
@[simp] theorem modClassifier_zones (g : ClassifierCounters → ClassifierCounters) :
    (s.modClassifier g).zones = s.zones := rfl
@[simp] theorem modClassifier_boardRecs (g : ClassifierCounters → ClassifierCounters) :
    (s.modClassifier g).boardRecs = s.boardRecs := rfl
@[simp] theorem modClassifier_boards (g : ClassifierCounters → ClassifierCounters) :
    (s.modClassifier g).boards = s.boards := rfl
@[simp] theorem modClassifier_boardUnit (g : ClassifierCounters → ClassifierCounters) :
    (s.modClassifier g).boardUnit = s.boardUnit := rfl
@[simp] theorem modClassifier_groups (g : ClassifierCounters → ClassifierCounters) :
    (s.modClassifier g).groups = s.groups := rfl
@[simp] theorem modClassifier_strikeAccount (g : ClassifierCounters → ClassifierCounters) :
    (s.modClassifier g).strikeAccount = s.strikeAccount := rfl
@[simp] theorem modClassifier_shows (g : ClassifierCounters → ClassifierCounters) :
    (s.modClassifier g).shows = s.shows := rfl
@[simp] theorem modClassifier_moves (g : ClassifierCounters → ClassifierCounters) :
    (s.modClassifier g).moves = s.moves := rfl
@[simp] theorem modClassifier_showUnit (g : ClassifierCounters → ClassifierCounters) :
    (s.modClassifier g).showUnit = s.showUnit := rfl
@[simp] theorem modClassifier_calendar (g : ClassifierCounters → ClassifierCounters) :
    (s.modClassifier g).calendar = s.calendar := rfl
@[simp] theorem modClassifier_mgmt (g : ClassifierCounters → ClassifierCounters) :
    (s.modClassifier g).mgmt = s.mgmt := rfl
@[simp] theorem modClassifier_freeCount (g : ClassifierCounters → ClassifierCounters) :
    (s.modClassifier g).freeCount = s.freeCount := rfl
@[simp] theorem modClassifier_pending (g : ClassifierCounters → ClassifierCounters) :
    (s.modClassifier g).pending = s.pending := rfl

/-! `setBellRec` writes `bellRecs`. -/

@[simp] theorem setBellRec_clock (i : Fin 48) (x : BellRec) : (s.setBellRec i x).clock = s.clock := rfl
@[simp] theorem setBellRec_node (i : Fin 48) (x : BellRec) : (s.setBellRec i x).node = s.node := rfl
@[simp] theorem setBellRec_head (i : Fin 48) (x : BellRec) : (s.setBellRec i x).head = s.head := rfl
@[simp] theorem setBellRec_tail (i : Fin 48) (x : BellRec) : (s.setBellRec i x).tail = s.tail := rfl
@[simp] theorem setBellRec_parse (i : Fin 48) (x : BellRec) : (s.setBellRec i x).parse = s.parse := rfl
@[simp] theorem setBellRec_classifier (i : Fin 48) (x : BellRec) : (s.setBellRec i x).classifier = s.classifier := rfl
@[simp] theorem setBellRec_bellRecs (i : Fin 48) (x : BellRec) :
    (s.setBellRec i x).bellRecs = s.bellRecs.set i.val x i.isLt := rfl
@[simp] theorem setBellRec_bells (i : Fin 48) (x : BellRec) : (s.setBellRec i x).bells = s.bells := rfl
@[simp] theorem setBellRec_launch (i : Fin 48) (x : BellRec) : (s.setBellRec i x).launch = s.launch := rfl
@[simp] theorem setBellRec_motifDirs (i : Fin 48) (x : BellRec) : (s.setBellRec i x).motifDirs = s.motifDirs := rfl
@[simp] theorem setBellRec_rows (i : Fin 48) (x : BellRec) : (s.setBellRec i x).rows = s.rows := rfl
@[simp] theorem setBellRec_runs (i : Fin 48) (x : BellRec) : (s.setBellRec i x).runs = s.runs := rfl
@[simp] theorem setBellRec_figRecs (i : Fin 48) (x : BellRec) : (s.setBellRec i x).figRecs = s.figRecs := rfl
@[simp] theorem setBellRec_figs (i : Fin 48) (x : BellRec) : (s.setBellRec i x).figs = s.figs := rfl
@[simp] theorem setBellRec_zones (i : Fin 48) (x : BellRec) : (s.setBellRec i x).zones = s.zones := rfl
@[simp] theorem setBellRec_boardRecs (i : Fin 48) (x : BellRec) : (s.setBellRec i x).boardRecs = s.boardRecs := rfl
@[simp] theorem setBellRec_boards (i : Fin 48) (x : BellRec) : (s.setBellRec i x).boards = s.boards := rfl
@[simp] theorem setBellRec_boardUnit (i : Fin 48) (x : BellRec) : (s.setBellRec i x).boardUnit = s.boardUnit := rfl
@[simp] theorem setBellRec_groups (i : Fin 48) (x : BellRec) : (s.setBellRec i x).groups = s.groups := rfl
@[simp] theorem setBellRec_strikeAccount (i : Fin 48) (x : BellRec) :
    (s.setBellRec i x).strikeAccount = s.strikeAccount := rfl
@[simp] theorem setBellRec_shows (i : Fin 48) (x : BellRec) : (s.setBellRec i x).shows = s.shows := rfl
@[simp] theorem setBellRec_moves (i : Fin 48) (x : BellRec) : (s.setBellRec i x).moves = s.moves := rfl
@[simp] theorem setBellRec_showUnit (i : Fin 48) (x : BellRec) : (s.setBellRec i x).showUnit = s.showUnit := rfl
@[simp] theorem setBellRec_calendar (i : Fin 48) (x : BellRec) : (s.setBellRec i x).calendar = s.calendar := rfl
@[simp] theorem setBellRec_mgmt (i : Fin 48) (x : BellRec) : (s.setBellRec i x).mgmt = s.mgmt := rfl
@[simp] theorem setBellRec_freeCount (i : Fin 48) (x : BellRec) : (s.setBellRec i x).freeCount = s.freeCount := rfl
@[simp] theorem setBellRec_pending (i : Fin 48) (x : BellRec) : (s.setBellRec i x).pending = s.pending := rfl

/-! `setBell` writes `bells`. -/

@[simp] theorem setBell_clock (i : Fin 48) (x : BellState) : (s.setBell i x).clock = s.clock := rfl
@[simp] theorem setBell_node (i : Fin 48) (x : BellState) : (s.setBell i x).node = s.node := rfl
@[simp] theorem setBell_head (i : Fin 48) (x : BellState) : (s.setBell i x).head = s.head := rfl
@[simp] theorem setBell_tail (i : Fin 48) (x : BellState) : (s.setBell i x).tail = s.tail := rfl
@[simp] theorem setBell_parse (i : Fin 48) (x : BellState) : (s.setBell i x).parse = s.parse := rfl
@[simp] theorem setBell_classifier (i : Fin 48) (x : BellState) : (s.setBell i x).classifier = s.classifier := rfl
@[simp] theorem setBell_bellRecs (i : Fin 48) (x : BellState) : (s.setBell i x).bellRecs = s.bellRecs := rfl
@[simp] theorem setBell_bells (i : Fin 48) (x : BellState) : (s.setBell i x).bells = s.bells.set i.val x i.isLt := rfl
@[simp] theorem setBell_launch (i : Fin 48) (x : BellState) : (s.setBell i x).launch = s.launch := rfl
@[simp] theorem setBell_motifDirs (i : Fin 48) (x : BellState) : (s.setBell i x).motifDirs = s.motifDirs := rfl
@[simp] theorem setBell_rows (i : Fin 48) (x : BellState) : (s.setBell i x).rows = s.rows := rfl
@[simp] theorem setBell_runs (i : Fin 48) (x : BellState) : (s.setBell i x).runs = s.runs := rfl
@[simp] theorem setBell_figRecs (i : Fin 48) (x : BellState) : (s.setBell i x).figRecs = s.figRecs := rfl
@[simp] theorem setBell_figs (i : Fin 48) (x : BellState) : (s.setBell i x).figs = s.figs := rfl
@[simp] theorem setBell_zones (i : Fin 48) (x : BellState) : (s.setBell i x).zones = s.zones := rfl
@[simp] theorem setBell_boardRecs (i : Fin 48) (x : BellState) : (s.setBell i x).boardRecs = s.boardRecs := rfl
@[simp] theorem setBell_boards (i : Fin 48) (x : BellState) : (s.setBell i x).boards = s.boards := rfl
@[simp] theorem setBell_boardUnit (i : Fin 48) (x : BellState) : (s.setBell i x).boardUnit = s.boardUnit := rfl
@[simp] theorem setBell_groups (i : Fin 48) (x : BellState) : (s.setBell i x).groups = s.groups := rfl
@[simp] theorem setBell_strikeAccount (i : Fin 48) (x : BellState) :
    (s.setBell i x).strikeAccount = s.strikeAccount := rfl
@[simp] theorem setBell_shows (i : Fin 48) (x : BellState) : (s.setBell i x).shows = s.shows := rfl
@[simp] theorem setBell_moves (i : Fin 48) (x : BellState) : (s.setBell i x).moves = s.moves := rfl
@[simp] theorem setBell_showUnit (i : Fin 48) (x : BellState) : (s.setBell i x).showUnit = s.showUnit := rfl
@[simp] theorem setBell_calendar (i : Fin 48) (x : BellState) : (s.setBell i x).calendar = s.calendar := rfl
@[simp] theorem setBell_mgmt (i : Fin 48) (x : BellState) : (s.setBell i x).mgmt = s.mgmt := rfl
@[simp] theorem setBell_freeCount (i : Fin 48) (x : BellState) : (s.setBell i x).freeCount = s.freeCount := rfl
@[simp] theorem setBell_pending (i : Fin 48) (x : BellState) : (s.setBell i x).pending = s.pending := rfl

/-! `setBells` writes `bells`. -/

@[simp] theorem setBells_clock (x : Vector BellState 48) : (s.setBells x).clock = s.clock := rfl
@[simp] theorem setBells_node (x : Vector BellState 48) : (s.setBells x).node = s.node := rfl
@[simp] theorem setBells_head (x : Vector BellState 48) : (s.setBells x).head = s.head := rfl
@[simp] theorem setBells_tail (x : Vector BellState 48) : (s.setBells x).tail = s.tail := rfl
@[simp] theorem setBells_parse (x : Vector BellState 48) : (s.setBells x).parse = s.parse := rfl
@[simp] theorem setBells_classifier (x : Vector BellState 48) : (s.setBells x).classifier = s.classifier := rfl
@[simp] theorem setBells_bellRecs (x : Vector BellState 48) : (s.setBells x).bellRecs = s.bellRecs := rfl
@[simp] theorem setBells_bells (x : Vector BellState 48) : (s.setBells x).bells = x := rfl
@[simp] theorem setBells_launch (x : Vector BellState 48) : (s.setBells x).launch = s.launch := rfl
@[simp] theorem setBells_motifDirs (x : Vector BellState 48) : (s.setBells x).motifDirs = s.motifDirs := rfl
@[simp] theorem setBells_rows (x : Vector BellState 48) : (s.setBells x).rows = s.rows := rfl
@[simp] theorem setBells_runs (x : Vector BellState 48) : (s.setBells x).runs = s.runs := rfl
@[simp] theorem setBells_figRecs (x : Vector BellState 48) : (s.setBells x).figRecs = s.figRecs := rfl
@[simp] theorem setBells_figs (x : Vector BellState 48) : (s.setBells x).figs = s.figs := rfl
@[simp] theorem setBells_zones (x : Vector BellState 48) : (s.setBells x).zones = s.zones := rfl
@[simp] theorem setBells_boardRecs (x : Vector BellState 48) : (s.setBells x).boardRecs = s.boardRecs := rfl
@[simp] theorem setBells_boards (x : Vector BellState 48) : (s.setBells x).boards = s.boards := rfl
@[simp] theorem setBells_boardUnit (x : Vector BellState 48) : (s.setBells x).boardUnit = s.boardUnit := rfl
@[simp] theorem setBells_groups (x : Vector BellState 48) : (s.setBells x).groups = s.groups := rfl
@[simp] theorem setBells_strikeAccount (x : Vector BellState 48) : (s.setBells x).strikeAccount = s.strikeAccount := rfl
@[simp] theorem setBells_shows (x : Vector BellState 48) : (s.setBells x).shows = s.shows := rfl
@[simp] theorem setBells_moves (x : Vector BellState 48) : (s.setBells x).moves = s.moves := rfl
@[simp] theorem setBells_showUnit (x : Vector BellState 48) : (s.setBells x).showUnit = s.showUnit := rfl
@[simp] theorem setBells_calendar (x : Vector BellState 48) : (s.setBells x).calendar = s.calendar := rfl
@[simp] theorem setBells_mgmt (x : Vector BellState 48) : (s.setBells x).mgmt = s.mgmt := rfl
@[simp] theorem setBells_freeCount (x : Vector BellState 48) : (s.setBells x).freeCount = s.freeCount := rfl
@[simp] theorem setBells_pending (x : Vector BellState 48) : (s.setBells x).pending = s.pending := rfl

/-! `modLaunch` writes `launch`. -/

@[simp] theorem modLaunch_clock (g : Launch → Launch) : (s.modLaunch g).clock = s.clock := rfl
@[simp] theorem modLaunch_node (g : Launch → Launch) : (s.modLaunch g).node = s.node := rfl
@[simp] theorem modLaunch_head (g : Launch → Launch) : (s.modLaunch g).head = s.head := rfl
@[simp] theorem modLaunch_tail (g : Launch → Launch) : (s.modLaunch g).tail = s.tail := rfl
@[simp] theorem modLaunch_parse (g : Launch → Launch) : (s.modLaunch g).parse = s.parse := rfl
@[simp] theorem modLaunch_classifier (g : Launch → Launch) : (s.modLaunch g).classifier = s.classifier := rfl
@[simp] theorem modLaunch_bellRecs (g : Launch → Launch) : (s.modLaunch g).bellRecs = s.bellRecs := rfl
@[simp] theorem modLaunch_bells (g : Launch → Launch) : (s.modLaunch g).bells = s.bells := rfl
@[simp] theorem modLaunch_launch (g : Launch → Launch) : (s.modLaunch g).launch = g s.launch := rfl
@[simp] theorem modLaunch_motifDirs (g : Launch → Launch) : (s.modLaunch g).motifDirs = s.motifDirs := rfl
@[simp] theorem modLaunch_rows (g : Launch → Launch) : (s.modLaunch g).rows = s.rows := rfl
@[simp] theorem modLaunch_runs (g : Launch → Launch) : (s.modLaunch g).runs = s.runs := rfl
@[simp] theorem modLaunch_figRecs (g : Launch → Launch) : (s.modLaunch g).figRecs = s.figRecs := rfl
@[simp] theorem modLaunch_figs (g : Launch → Launch) : (s.modLaunch g).figs = s.figs := rfl
@[simp] theorem modLaunch_zones (g : Launch → Launch) : (s.modLaunch g).zones = s.zones := rfl
@[simp] theorem modLaunch_boardRecs (g : Launch → Launch) : (s.modLaunch g).boardRecs = s.boardRecs := rfl
@[simp] theorem modLaunch_boards (g : Launch → Launch) : (s.modLaunch g).boards = s.boards := rfl
@[simp] theorem modLaunch_boardUnit (g : Launch → Launch) : (s.modLaunch g).boardUnit = s.boardUnit := rfl
@[simp] theorem modLaunch_groups (g : Launch → Launch) : (s.modLaunch g).groups = s.groups := rfl
@[simp] theorem modLaunch_strikeAccount (g : Launch → Launch) : (s.modLaunch g).strikeAccount = s.strikeAccount := rfl
@[simp] theorem modLaunch_shows (g : Launch → Launch) : (s.modLaunch g).shows = s.shows := rfl
@[simp] theorem modLaunch_moves (g : Launch → Launch) : (s.modLaunch g).moves = s.moves := rfl
@[simp] theorem modLaunch_showUnit (g : Launch → Launch) : (s.modLaunch g).showUnit = s.showUnit := rfl
@[simp] theorem modLaunch_calendar (g : Launch → Launch) : (s.modLaunch g).calendar = s.calendar := rfl
@[simp] theorem modLaunch_mgmt (g : Launch → Launch) : (s.modLaunch g).mgmt = s.mgmt := rfl
@[simp] theorem modLaunch_freeCount (g : Launch → Launch) : (s.modLaunch g).freeCount = s.freeCount := rfl
@[simp] theorem modLaunch_pending (g : Launch → Launch) : (s.modLaunch g).pending = s.pending := rfl

/-! `setMotifDir` writes `motifDirs`. -/

@[simp] theorem setMotifDir_clock (i : Fin 64) (x : MotifDir) : (s.setMotifDir i x).clock = s.clock := rfl
@[simp] theorem setMotifDir_node (i : Fin 64) (x : MotifDir) : (s.setMotifDir i x).node = s.node := rfl
@[simp] theorem setMotifDir_head (i : Fin 64) (x : MotifDir) : (s.setMotifDir i x).head = s.head := rfl
@[simp] theorem setMotifDir_tail (i : Fin 64) (x : MotifDir) : (s.setMotifDir i x).tail = s.tail := rfl
@[simp] theorem setMotifDir_parse (i : Fin 64) (x : MotifDir) : (s.setMotifDir i x).parse = s.parse := rfl
@[simp] theorem setMotifDir_classifier (i : Fin 64) (x : MotifDir) :
    (s.setMotifDir i x).classifier = s.classifier := rfl
@[simp] theorem setMotifDir_bellRecs (i : Fin 64) (x : MotifDir) : (s.setMotifDir i x).bellRecs = s.bellRecs := rfl
@[simp] theorem setMotifDir_bells (i : Fin 64) (x : MotifDir) : (s.setMotifDir i x).bells = s.bells := rfl
@[simp] theorem setMotifDir_launch (i : Fin 64) (x : MotifDir) : (s.setMotifDir i x).launch = s.launch := rfl
@[simp] theorem setMotifDir_motifDirs (i : Fin 64) (x : MotifDir) :
    (s.setMotifDir i x).motifDirs = s.motifDirs.set i.val x i.isLt := rfl
@[simp] theorem setMotifDir_rows (i : Fin 64) (x : MotifDir) : (s.setMotifDir i x).rows = s.rows := rfl
@[simp] theorem setMotifDir_runs (i : Fin 64) (x : MotifDir) : (s.setMotifDir i x).runs = s.runs := rfl
@[simp] theorem setMotifDir_figRecs (i : Fin 64) (x : MotifDir) : (s.setMotifDir i x).figRecs = s.figRecs := rfl
@[simp] theorem setMotifDir_figs (i : Fin 64) (x : MotifDir) : (s.setMotifDir i x).figs = s.figs := rfl
@[simp] theorem setMotifDir_zones (i : Fin 64) (x : MotifDir) : (s.setMotifDir i x).zones = s.zones := rfl
@[simp] theorem setMotifDir_boardRecs (i : Fin 64) (x : MotifDir) : (s.setMotifDir i x).boardRecs = s.boardRecs := rfl
@[simp] theorem setMotifDir_boards (i : Fin 64) (x : MotifDir) : (s.setMotifDir i x).boards = s.boards := rfl
@[simp] theorem setMotifDir_boardUnit (i : Fin 64) (x : MotifDir) : (s.setMotifDir i x).boardUnit = s.boardUnit := rfl
@[simp] theorem setMotifDir_groups (i : Fin 64) (x : MotifDir) : (s.setMotifDir i x).groups = s.groups := rfl
@[simp] theorem setMotifDir_strikeAccount (i : Fin 64) (x : MotifDir) :
    (s.setMotifDir i x).strikeAccount = s.strikeAccount := rfl
@[simp] theorem setMotifDir_shows (i : Fin 64) (x : MotifDir) : (s.setMotifDir i x).shows = s.shows := rfl
@[simp] theorem setMotifDir_moves (i : Fin 64) (x : MotifDir) : (s.setMotifDir i x).moves = s.moves := rfl
@[simp] theorem setMotifDir_showUnit (i : Fin 64) (x : MotifDir) : (s.setMotifDir i x).showUnit = s.showUnit := rfl
@[simp] theorem setMotifDir_calendar (i : Fin 64) (x : MotifDir) : (s.setMotifDir i x).calendar = s.calendar := rfl
@[simp] theorem setMotifDir_mgmt (i : Fin 64) (x : MotifDir) : (s.setMotifDir i x).mgmt = s.mgmt := rfl
@[simp] theorem setMotifDir_freeCount (i : Fin 64) (x : MotifDir) : (s.setMotifDir i x).freeCount = s.freeCount := rfl
@[simp] theorem setMotifDir_pending (i : Fin 64) (x : MotifDir) : (s.setMotifDir i x).pending = s.pending := rfl

/-! `setRow` writes `rows`. -/

@[simp] theorem setRow_clock (i : Fin 1024) (x : Row) : (s.setRow i x).clock = s.clock := rfl
@[simp] theorem setRow_node (i : Fin 1024) (x : Row) : (s.setRow i x).node = s.node := rfl
@[simp] theorem setRow_head (i : Fin 1024) (x : Row) : (s.setRow i x).head = s.head := rfl
@[simp] theorem setRow_tail (i : Fin 1024) (x : Row) : (s.setRow i x).tail = s.tail := rfl
@[simp] theorem setRow_parse (i : Fin 1024) (x : Row) : (s.setRow i x).parse = s.parse := rfl
@[simp] theorem setRow_classifier (i : Fin 1024) (x : Row) : (s.setRow i x).classifier = s.classifier := rfl
@[simp] theorem setRow_bellRecs (i : Fin 1024) (x : Row) : (s.setRow i x).bellRecs = s.bellRecs := rfl
@[simp] theorem setRow_bells (i : Fin 1024) (x : Row) : (s.setRow i x).bells = s.bells := rfl
@[simp] theorem setRow_launch (i : Fin 1024) (x : Row) : (s.setRow i x).launch = s.launch := rfl
@[simp] theorem setRow_motifDirs (i : Fin 1024) (x : Row) : (s.setRow i x).motifDirs = s.motifDirs := rfl
@[simp] theorem setRow_rows (i : Fin 1024) (x : Row) : (s.setRow i x).rows = s.rows.set i.val x i.isLt := rfl
@[simp] theorem setRow_runs (i : Fin 1024) (x : Row) : (s.setRow i x).runs = s.runs := rfl
@[simp] theorem setRow_figRecs (i : Fin 1024) (x : Row) : (s.setRow i x).figRecs = s.figRecs := rfl
@[simp] theorem setRow_figs (i : Fin 1024) (x : Row) : (s.setRow i x).figs = s.figs := rfl
@[simp] theorem setRow_zones (i : Fin 1024) (x : Row) : (s.setRow i x).zones = s.zones := rfl
@[simp] theorem setRow_boardRecs (i : Fin 1024) (x : Row) : (s.setRow i x).boardRecs = s.boardRecs := rfl
@[simp] theorem setRow_boards (i : Fin 1024) (x : Row) : (s.setRow i x).boards = s.boards := rfl
@[simp] theorem setRow_boardUnit (i : Fin 1024) (x : Row) : (s.setRow i x).boardUnit = s.boardUnit := rfl
@[simp] theorem setRow_groups (i : Fin 1024) (x : Row) : (s.setRow i x).groups = s.groups := rfl
@[simp] theorem setRow_strikeAccount (i : Fin 1024) (x : Row) : (s.setRow i x).strikeAccount = s.strikeAccount := rfl
@[simp] theorem setRow_shows (i : Fin 1024) (x : Row) : (s.setRow i x).shows = s.shows := rfl
@[simp] theorem setRow_moves (i : Fin 1024) (x : Row) : (s.setRow i x).moves = s.moves := rfl
@[simp] theorem setRow_showUnit (i : Fin 1024) (x : Row) : (s.setRow i x).showUnit = s.showUnit := rfl
@[simp] theorem setRow_calendar (i : Fin 1024) (x : Row) : (s.setRow i x).calendar = s.calendar := rfl
@[simp] theorem setRow_mgmt (i : Fin 1024) (x : Row) : (s.setRow i x).mgmt = s.mgmt := rfl
@[simp] theorem setRow_freeCount (i : Fin 1024) (x : Row) : (s.setRow i x).freeCount = s.freeCount := rfl
@[simp] theorem setRow_pending (i : Fin 1024) (x : Row) : (s.setRow i x).pending = s.pending := rfl

/-! `modRuns` writes `runs`. -/

@[simp] theorem modRuns_clock (g : Run → Run) : (s.modRuns g).clock = s.clock := rfl
@[simp] theorem modRuns_node (g : Run → Run) : (s.modRuns g).node = s.node := rfl
@[simp] theorem modRuns_head (g : Run → Run) : (s.modRuns g).head = s.head := rfl
@[simp] theorem modRuns_tail (g : Run → Run) : (s.modRuns g).tail = s.tail := rfl
@[simp] theorem modRuns_parse (g : Run → Run) : (s.modRuns g).parse = s.parse := rfl
@[simp] theorem modRuns_classifier (g : Run → Run) : (s.modRuns g).classifier = s.classifier := rfl
@[simp] theorem modRuns_bellRecs (g : Run → Run) : (s.modRuns g).bellRecs = s.bellRecs := rfl
@[simp] theorem modRuns_bells (g : Run → Run) : (s.modRuns g).bells = s.bells := rfl
@[simp] theorem modRuns_launch (g : Run → Run) : (s.modRuns g).launch = s.launch := rfl
@[simp] theorem modRuns_motifDirs (g : Run → Run) : (s.modRuns g).motifDirs = s.motifDirs := rfl
@[simp] theorem modRuns_rows (g : Run → Run) : (s.modRuns g).rows = s.rows := rfl
@[simp] theorem modRuns_runs (g : Run → Run) : (s.modRuns g).runs = s.runs.map g := rfl
@[simp] theorem modRuns_figRecs (g : Run → Run) : (s.modRuns g).figRecs = s.figRecs := rfl
@[simp] theorem modRuns_figs (g : Run → Run) : (s.modRuns g).figs = s.figs := rfl
@[simp] theorem modRuns_zones (g : Run → Run) : (s.modRuns g).zones = s.zones := rfl
@[simp] theorem modRuns_boardRecs (g : Run → Run) : (s.modRuns g).boardRecs = s.boardRecs := rfl
@[simp] theorem modRuns_boards (g : Run → Run) : (s.modRuns g).boards = s.boards := rfl
@[simp] theorem modRuns_boardUnit (g : Run → Run) : (s.modRuns g).boardUnit = s.boardUnit := rfl
@[simp] theorem modRuns_groups (g : Run → Run) : (s.modRuns g).groups = s.groups := rfl
@[simp] theorem modRuns_strikeAccount (g : Run → Run) : (s.modRuns g).strikeAccount = s.strikeAccount := rfl
@[simp] theorem modRuns_shows (g : Run → Run) : (s.modRuns g).shows = s.shows := rfl
@[simp] theorem modRuns_moves (g : Run → Run) : (s.modRuns g).moves = s.moves := rfl
@[simp] theorem modRuns_showUnit (g : Run → Run) : (s.modRuns g).showUnit = s.showUnit := rfl
@[simp] theorem modRuns_calendar (g : Run → Run) : (s.modRuns g).calendar = s.calendar := rfl
@[simp] theorem modRuns_mgmt (g : Run → Run) : (s.modRuns g).mgmt = s.mgmt := rfl
@[simp] theorem modRuns_freeCount (g : Run → Run) : (s.modRuns g).freeCount = s.freeCount := rfl
@[simp] theorem modRuns_pending (g : Run → Run) : (s.modRuns g).pending = s.pending := rfl

/-! `setRun` writes `runs`. -/

@[simp] theorem setRun_clock (i : Fin 4) (x : Run) : (s.setRun i x).clock = s.clock := rfl
@[simp] theorem setRun_node (i : Fin 4) (x : Run) : (s.setRun i x).node = s.node := rfl
@[simp] theorem setRun_head (i : Fin 4) (x : Run) : (s.setRun i x).head = s.head := rfl
@[simp] theorem setRun_tail (i : Fin 4) (x : Run) : (s.setRun i x).tail = s.tail := rfl
@[simp] theorem setRun_parse (i : Fin 4) (x : Run) : (s.setRun i x).parse = s.parse := rfl
@[simp] theorem setRun_classifier (i : Fin 4) (x : Run) : (s.setRun i x).classifier = s.classifier := rfl
@[simp] theorem setRun_bellRecs (i : Fin 4) (x : Run) : (s.setRun i x).bellRecs = s.bellRecs := rfl
@[simp] theorem setRun_bells (i : Fin 4) (x : Run) : (s.setRun i x).bells = s.bells := rfl
@[simp] theorem setRun_launch (i : Fin 4) (x : Run) : (s.setRun i x).launch = s.launch := rfl
@[simp] theorem setRun_motifDirs (i : Fin 4) (x : Run) : (s.setRun i x).motifDirs = s.motifDirs := rfl
@[simp] theorem setRun_rows (i : Fin 4) (x : Run) : (s.setRun i x).rows = s.rows := rfl
@[simp] theorem setRun_runs (i : Fin 4) (x : Run) : (s.setRun i x).runs = s.runs.set i.val x i.isLt := rfl
@[simp] theorem setRun_figRecs (i : Fin 4) (x : Run) : (s.setRun i x).figRecs = s.figRecs := rfl
@[simp] theorem setRun_figs (i : Fin 4) (x : Run) : (s.setRun i x).figs = s.figs := rfl
@[simp] theorem setRun_zones (i : Fin 4) (x : Run) : (s.setRun i x).zones = s.zones := rfl
@[simp] theorem setRun_boardRecs (i : Fin 4) (x : Run) : (s.setRun i x).boardRecs = s.boardRecs := rfl
@[simp] theorem setRun_boards (i : Fin 4) (x : Run) : (s.setRun i x).boards = s.boards := rfl
@[simp] theorem setRun_boardUnit (i : Fin 4) (x : Run) : (s.setRun i x).boardUnit = s.boardUnit := rfl
@[simp] theorem setRun_groups (i : Fin 4) (x : Run) : (s.setRun i x).groups = s.groups := rfl
@[simp] theorem setRun_strikeAccount (i : Fin 4) (x : Run) : (s.setRun i x).strikeAccount = s.strikeAccount := rfl
@[simp] theorem setRun_shows (i : Fin 4) (x : Run) : (s.setRun i x).shows = s.shows := rfl
@[simp] theorem setRun_moves (i : Fin 4) (x : Run) : (s.setRun i x).moves = s.moves := rfl
@[simp] theorem setRun_showUnit (i : Fin 4) (x : Run) : (s.setRun i x).showUnit = s.showUnit := rfl
@[simp] theorem setRun_calendar (i : Fin 4) (x : Run) : (s.setRun i x).calendar = s.calendar := rfl
@[simp] theorem setRun_mgmt (i : Fin 4) (x : Run) : (s.setRun i x).mgmt = s.mgmt := rfl
@[simp] theorem setRun_freeCount (i : Fin 4) (x : Run) : (s.setRun i x).freeCount = s.freeCount := rfl
@[simp] theorem setRun_pending (i : Fin 4) (x : Run) : (s.setRun i x).pending = s.pending := rfl

/-! `modRun` writes `runs`. -/

@[simp] theorem modRun_clock (i : Fin 4) (g : Run → Run) : (s.modRun i g).clock = s.clock := rfl
@[simp] theorem modRun_node (i : Fin 4) (g : Run → Run) : (s.modRun i g).node = s.node := rfl
@[simp] theorem modRun_head (i : Fin 4) (g : Run → Run) : (s.modRun i g).head = s.head := rfl
@[simp] theorem modRun_tail (i : Fin 4) (g : Run → Run) : (s.modRun i g).tail = s.tail := rfl
@[simp] theorem modRun_parse (i : Fin 4) (g : Run → Run) : (s.modRun i g).parse = s.parse := rfl
@[simp] theorem modRun_classifier (i : Fin 4) (g : Run → Run) : (s.modRun i g).classifier = s.classifier := rfl
@[simp] theorem modRun_bellRecs (i : Fin 4) (g : Run → Run) : (s.modRun i g).bellRecs = s.bellRecs := rfl
@[simp] theorem modRun_bells (i : Fin 4) (g : Run → Run) : (s.modRun i g).bells = s.bells := rfl
@[simp] theorem modRun_launch (i : Fin 4) (g : Run → Run) : (s.modRun i g).launch = s.launch := rfl
@[simp] theorem modRun_motifDirs (i : Fin 4) (g : Run → Run) : (s.modRun i g).motifDirs = s.motifDirs := rfl
@[simp] theorem modRun_rows (i : Fin 4) (g : Run → Run) : (s.modRun i g).rows = s.rows := rfl
@[simp] theorem modRun_runs (i : Fin 4) (g : Run → Run) :
    (s.modRun i g).runs = s.runs.set i.val (g s.runs[i]) i.isLt := rfl
@[simp] theorem modRun_figRecs (i : Fin 4) (g : Run → Run) : (s.modRun i g).figRecs = s.figRecs := rfl
@[simp] theorem modRun_figs (i : Fin 4) (g : Run → Run) : (s.modRun i g).figs = s.figs := rfl
@[simp] theorem modRun_zones (i : Fin 4) (g : Run → Run) : (s.modRun i g).zones = s.zones := rfl
@[simp] theorem modRun_boardRecs (i : Fin 4) (g : Run → Run) : (s.modRun i g).boardRecs = s.boardRecs := rfl
@[simp] theorem modRun_boards (i : Fin 4) (g : Run → Run) : (s.modRun i g).boards = s.boards := rfl
@[simp] theorem modRun_boardUnit (i : Fin 4) (g : Run → Run) : (s.modRun i g).boardUnit = s.boardUnit := rfl
@[simp] theorem modRun_groups (i : Fin 4) (g : Run → Run) : (s.modRun i g).groups = s.groups := rfl
@[simp] theorem modRun_strikeAccount (i : Fin 4) (g : Run → Run) : (s.modRun i g).strikeAccount = s.strikeAccount := rfl
@[simp] theorem modRun_shows (i : Fin 4) (g : Run → Run) : (s.modRun i g).shows = s.shows := rfl
@[simp] theorem modRun_moves (i : Fin 4) (g : Run → Run) : (s.modRun i g).moves = s.moves := rfl
@[simp] theorem modRun_showUnit (i : Fin 4) (g : Run → Run) : (s.modRun i g).showUnit = s.showUnit := rfl
@[simp] theorem modRun_calendar (i : Fin 4) (g : Run → Run) : (s.modRun i g).calendar = s.calendar := rfl
@[simp] theorem modRun_mgmt (i : Fin 4) (g : Run → Run) : (s.modRun i g).mgmt = s.mgmt := rfl
@[simp] theorem modRun_freeCount (i : Fin 4) (g : Run → Run) : (s.modRun i g).freeCount = s.freeCount := rfl
@[simp] theorem modRun_pending (i : Fin 4) (g : Run → Run) : (s.modRun i g).pending = s.pending := rfl

/-! `setFigRec` writes `figRecs`. -/

@[simp] theorem setFigRec_clock (i : Fin 16) (x : FigRec) : (s.setFigRec i x).clock = s.clock := rfl
@[simp] theorem setFigRec_node (i : Fin 16) (x : FigRec) : (s.setFigRec i x).node = s.node := rfl
@[simp] theorem setFigRec_head (i : Fin 16) (x : FigRec) : (s.setFigRec i x).head = s.head := rfl
@[simp] theorem setFigRec_tail (i : Fin 16) (x : FigRec) : (s.setFigRec i x).tail = s.tail := rfl
@[simp] theorem setFigRec_parse (i : Fin 16) (x : FigRec) : (s.setFigRec i x).parse = s.parse := rfl
@[simp] theorem setFigRec_classifier (i : Fin 16) (x : FigRec) : (s.setFigRec i x).classifier = s.classifier := rfl
@[simp] theorem setFigRec_bellRecs (i : Fin 16) (x : FigRec) : (s.setFigRec i x).bellRecs = s.bellRecs := rfl
@[simp] theorem setFigRec_bells (i : Fin 16) (x : FigRec) : (s.setFigRec i x).bells = s.bells := rfl
@[simp] theorem setFigRec_launch (i : Fin 16) (x : FigRec) : (s.setFigRec i x).launch = s.launch := rfl
@[simp] theorem setFigRec_motifDirs (i : Fin 16) (x : FigRec) : (s.setFigRec i x).motifDirs = s.motifDirs := rfl
@[simp] theorem setFigRec_rows (i : Fin 16) (x : FigRec) : (s.setFigRec i x).rows = s.rows := rfl
@[simp] theorem setFigRec_runs (i : Fin 16) (x : FigRec) : (s.setFigRec i x).runs = s.runs := rfl
@[simp] theorem setFigRec_figRecs (i : Fin 16) (x : FigRec) :
    (s.setFigRec i x).figRecs = s.figRecs.set i.val x i.isLt := rfl
@[simp] theorem setFigRec_figs (i : Fin 16) (x : FigRec) : (s.setFigRec i x).figs = s.figs := rfl
@[simp] theorem setFigRec_zones (i : Fin 16) (x : FigRec) : (s.setFigRec i x).zones = s.zones := rfl
@[simp] theorem setFigRec_boardRecs (i : Fin 16) (x : FigRec) : (s.setFigRec i x).boardRecs = s.boardRecs := rfl
@[simp] theorem setFigRec_boards (i : Fin 16) (x : FigRec) : (s.setFigRec i x).boards = s.boards := rfl
@[simp] theorem setFigRec_boardUnit (i : Fin 16) (x : FigRec) : (s.setFigRec i x).boardUnit = s.boardUnit := rfl
@[simp] theorem setFigRec_groups (i : Fin 16) (x : FigRec) : (s.setFigRec i x).groups = s.groups := rfl
@[simp] theorem setFigRec_strikeAccount (i : Fin 16) (x : FigRec) :
    (s.setFigRec i x).strikeAccount = s.strikeAccount := rfl
@[simp] theorem setFigRec_shows (i : Fin 16) (x : FigRec) : (s.setFigRec i x).shows = s.shows := rfl
@[simp] theorem setFigRec_moves (i : Fin 16) (x : FigRec) : (s.setFigRec i x).moves = s.moves := rfl
@[simp] theorem setFigRec_showUnit (i : Fin 16) (x : FigRec) : (s.setFigRec i x).showUnit = s.showUnit := rfl
@[simp] theorem setFigRec_calendar (i : Fin 16) (x : FigRec) : (s.setFigRec i x).calendar = s.calendar := rfl
@[simp] theorem setFigRec_mgmt (i : Fin 16) (x : FigRec) : (s.setFigRec i x).mgmt = s.mgmt := rfl
@[simp] theorem setFigRec_freeCount (i : Fin 16) (x : FigRec) : (s.setFigRec i x).freeCount = s.freeCount := rfl
@[simp] theorem setFigRec_pending (i : Fin 16) (x : FigRec) : (s.setFigRec i x).pending = s.pending := rfl

/-! `modFigs` writes `figs`. -/

@[simp] theorem modFigs_clock (g : Figure → Figure) : (s.modFigs g).clock = s.clock := rfl
@[simp] theorem modFigs_node (g : Figure → Figure) : (s.modFigs g).node = s.node := rfl
@[simp] theorem modFigs_head (g : Figure → Figure) : (s.modFigs g).head = s.head := rfl
@[simp] theorem modFigs_tail (g : Figure → Figure) : (s.modFigs g).tail = s.tail := rfl
@[simp] theorem modFigs_parse (g : Figure → Figure) : (s.modFigs g).parse = s.parse := rfl
@[simp] theorem modFigs_classifier (g : Figure → Figure) : (s.modFigs g).classifier = s.classifier := rfl
@[simp] theorem modFigs_bellRecs (g : Figure → Figure) : (s.modFigs g).bellRecs = s.bellRecs := rfl
@[simp] theorem modFigs_bells (g : Figure → Figure) : (s.modFigs g).bells = s.bells := rfl
@[simp] theorem modFigs_launch (g : Figure → Figure) : (s.modFigs g).launch = s.launch := rfl
@[simp] theorem modFigs_motifDirs (g : Figure → Figure) : (s.modFigs g).motifDirs = s.motifDirs := rfl
@[simp] theorem modFigs_rows (g : Figure → Figure) : (s.modFigs g).rows = s.rows := rfl
@[simp] theorem modFigs_runs (g : Figure → Figure) : (s.modFigs g).runs = s.runs := rfl
@[simp] theorem modFigs_figRecs (g : Figure → Figure) : (s.modFigs g).figRecs = s.figRecs := rfl
@[simp] theorem modFigs_figs (g : Figure → Figure) : (s.modFigs g).figs = s.figs.map g := rfl
@[simp] theorem modFigs_zones (g : Figure → Figure) : (s.modFigs g).zones = s.zones := rfl
@[simp] theorem modFigs_boardRecs (g : Figure → Figure) : (s.modFigs g).boardRecs = s.boardRecs := rfl
@[simp] theorem modFigs_boards (g : Figure → Figure) : (s.modFigs g).boards = s.boards := rfl
@[simp] theorem modFigs_boardUnit (g : Figure → Figure) : (s.modFigs g).boardUnit = s.boardUnit := rfl
@[simp] theorem modFigs_groups (g : Figure → Figure) : (s.modFigs g).groups = s.groups := rfl
@[simp] theorem modFigs_strikeAccount (g : Figure → Figure) : (s.modFigs g).strikeAccount = s.strikeAccount := rfl
@[simp] theorem modFigs_shows (g : Figure → Figure) : (s.modFigs g).shows = s.shows := rfl
@[simp] theorem modFigs_moves (g : Figure → Figure) : (s.modFigs g).moves = s.moves := rfl
@[simp] theorem modFigs_showUnit (g : Figure → Figure) : (s.modFigs g).showUnit = s.showUnit := rfl
@[simp] theorem modFigs_calendar (g : Figure → Figure) : (s.modFigs g).calendar = s.calendar := rfl
@[simp] theorem modFigs_mgmt (g : Figure → Figure) : (s.modFigs g).mgmt = s.mgmt := rfl
@[simp] theorem modFigs_freeCount (g : Figure → Figure) : (s.modFigs g).freeCount = s.freeCount := rfl
@[simp] theorem modFigs_pending (g : Figure → Figure) : (s.modFigs g).pending = s.pending := rfl

/-! `setFig` writes `figs`. -/

@[simp] theorem setFig_clock (i : Fin 16) (x : Figure) : (s.setFig i x).clock = s.clock := rfl
@[simp] theorem setFig_node (i : Fin 16) (x : Figure) : (s.setFig i x).node = s.node := rfl
@[simp] theorem setFig_head (i : Fin 16) (x : Figure) : (s.setFig i x).head = s.head := rfl
@[simp] theorem setFig_tail (i : Fin 16) (x : Figure) : (s.setFig i x).tail = s.tail := rfl
@[simp] theorem setFig_parse (i : Fin 16) (x : Figure) : (s.setFig i x).parse = s.parse := rfl
@[simp] theorem setFig_classifier (i : Fin 16) (x : Figure) : (s.setFig i x).classifier = s.classifier := rfl
@[simp] theorem setFig_bellRecs (i : Fin 16) (x : Figure) : (s.setFig i x).bellRecs = s.bellRecs := rfl
@[simp] theorem setFig_bells (i : Fin 16) (x : Figure) : (s.setFig i x).bells = s.bells := rfl
@[simp] theorem setFig_launch (i : Fin 16) (x : Figure) : (s.setFig i x).launch = s.launch := rfl
@[simp] theorem setFig_motifDirs (i : Fin 16) (x : Figure) : (s.setFig i x).motifDirs = s.motifDirs := rfl
@[simp] theorem setFig_rows (i : Fin 16) (x : Figure) : (s.setFig i x).rows = s.rows := rfl
@[simp] theorem setFig_runs (i : Fin 16) (x : Figure) : (s.setFig i x).runs = s.runs := rfl
@[simp] theorem setFig_figRecs (i : Fin 16) (x : Figure) : (s.setFig i x).figRecs = s.figRecs := rfl
@[simp] theorem setFig_figs (i : Fin 16) (x : Figure) : (s.setFig i x).figs = s.figs.set i.val x i.isLt := rfl
@[simp] theorem setFig_zones (i : Fin 16) (x : Figure) : (s.setFig i x).zones = s.zones := rfl
@[simp] theorem setFig_boardRecs (i : Fin 16) (x : Figure) : (s.setFig i x).boardRecs = s.boardRecs := rfl
@[simp] theorem setFig_boards (i : Fin 16) (x : Figure) : (s.setFig i x).boards = s.boards := rfl
@[simp] theorem setFig_boardUnit (i : Fin 16) (x : Figure) : (s.setFig i x).boardUnit = s.boardUnit := rfl
@[simp] theorem setFig_groups (i : Fin 16) (x : Figure) : (s.setFig i x).groups = s.groups := rfl
@[simp] theorem setFig_strikeAccount (i : Fin 16) (x : Figure) : (s.setFig i x).strikeAccount = s.strikeAccount := rfl
@[simp] theorem setFig_shows (i : Fin 16) (x : Figure) : (s.setFig i x).shows = s.shows := rfl
@[simp] theorem setFig_moves (i : Fin 16) (x : Figure) : (s.setFig i x).moves = s.moves := rfl
@[simp] theorem setFig_showUnit (i : Fin 16) (x : Figure) : (s.setFig i x).showUnit = s.showUnit := rfl
@[simp] theorem setFig_calendar (i : Fin 16) (x : Figure) : (s.setFig i x).calendar = s.calendar := rfl
@[simp] theorem setFig_mgmt (i : Fin 16) (x : Figure) : (s.setFig i x).mgmt = s.mgmt := rfl
@[simp] theorem setFig_freeCount (i : Fin 16) (x : Figure) : (s.setFig i x).freeCount = s.freeCount := rfl
@[simp] theorem setFig_pending (i : Fin 16) (x : Figure) : (s.setFig i x).pending = s.pending := rfl

/-! `modFig` writes `figs`. -/

@[simp] theorem modFig_clock (i : Fin 16) (g : Figure → Figure) : (s.modFig i g).clock = s.clock := rfl
@[simp] theorem modFig_node (i : Fin 16) (g : Figure → Figure) : (s.modFig i g).node = s.node := rfl
@[simp] theorem modFig_head (i : Fin 16) (g : Figure → Figure) : (s.modFig i g).head = s.head := rfl
@[simp] theorem modFig_tail (i : Fin 16) (g : Figure → Figure) : (s.modFig i g).tail = s.tail := rfl
@[simp] theorem modFig_parse (i : Fin 16) (g : Figure → Figure) : (s.modFig i g).parse = s.parse := rfl
@[simp] theorem modFig_classifier (i : Fin 16) (g : Figure → Figure) : (s.modFig i g).classifier = s.classifier := rfl
@[simp] theorem modFig_bellRecs (i : Fin 16) (g : Figure → Figure) : (s.modFig i g).bellRecs = s.bellRecs := rfl
@[simp] theorem modFig_bells (i : Fin 16) (g : Figure → Figure) : (s.modFig i g).bells = s.bells := rfl
@[simp] theorem modFig_launch (i : Fin 16) (g : Figure → Figure) : (s.modFig i g).launch = s.launch := rfl
@[simp] theorem modFig_motifDirs (i : Fin 16) (g : Figure → Figure) : (s.modFig i g).motifDirs = s.motifDirs := rfl
@[simp] theorem modFig_rows (i : Fin 16) (g : Figure → Figure) : (s.modFig i g).rows = s.rows := rfl
@[simp] theorem modFig_runs (i : Fin 16) (g : Figure → Figure) : (s.modFig i g).runs = s.runs := rfl
@[simp] theorem modFig_figRecs (i : Fin 16) (g : Figure → Figure) : (s.modFig i g).figRecs = s.figRecs := rfl
@[simp] theorem modFig_figs (i : Fin 16) (g : Figure → Figure) :
    (s.modFig i g).figs = s.figs.set i.val (g s.figs[i]) i.isLt := rfl
@[simp] theorem modFig_zones (i : Fin 16) (g : Figure → Figure) : (s.modFig i g).zones = s.zones := rfl
@[simp] theorem modFig_boardRecs (i : Fin 16) (g : Figure → Figure) : (s.modFig i g).boardRecs = s.boardRecs := rfl
@[simp] theorem modFig_boards (i : Fin 16) (g : Figure → Figure) : (s.modFig i g).boards = s.boards := rfl
@[simp] theorem modFig_boardUnit (i : Fin 16) (g : Figure → Figure) : (s.modFig i g).boardUnit = s.boardUnit := rfl
@[simp] theorem modFig_groups (i : Fin 16) (g : Figure → Figure) : (s.modFig i g).groups = s.groups := rfl
@[simp] theorem modFig_strikeAccount (i : Fin 16) (g : Figure → Figure) :
    (s.modFig i g).strikeAccount = s.strikeAccount := rfl
@[simp] theorem modFig_shows (i : Fin 16) (g : Figure → Figure) : (s.modFig i g).shows = s.shows := rfl
@[simp] theorem modFig_moves (i : Fin 16) (g : Figure → Figure) : (s.modFig i g).moves = s.moves := rfl
@[simp] theorem modFig_showUnit (i : Fin 16) (g : Figure → Figure) : (s.modFig i g).showUnit = s.showUnit := rfl
@[simp] theorem modFig_calendar (i : Fin 16) (g : Figure → Figure) : (s.modFig i g).calendar = s.calendar := rfl
@[simp] theorem modFig_mgmt (i : Fin 16) (g : Figure → Figure) : (s.modFig i g).mgmt = s.mgmt := rfl
@[simp] theorem modFig_freeCount (i : Fin 16) (g : Figure → Figure) : (s.modFig i g).freeCount = s.freeCount := rfl
@[simp] theorem modFig_pending (i : Fin 16) (g : Figure → Figure) : (s.modFig i g).pending = s.pending := rfl

/-! `setZones` writes `zones`. -/

@[simp] theorem setZones_clock (g : Fin 24 → Option (Fin 16)) :
    (s.setZones g).clock = s.clock := by simp only [setZones]
@[simp] theorem setZones_node (g : Fin 24 → Option (Fin 16)) : (s.setZones g).node = s.node := by simp only [setZones]
@[simp] theorem setZones_head (g : Fin 24 → Option (Fin 16)) : (s.setZones g).head = s.head := by simp only [setZones]
@[simp] theorem setZones_tail (g : Fin 24 → Option (Fin 16)) : (s.setZones g).tail = s.tail := by simp only [setZones]
@[simp] theorem setZones_parse (g : Fin 24 → Option (Fin 16)) :
    (s.setZones g).parse = s.parse := by simp only [setZones]
@[simp] theorem setZones_classifier (g : Fin 24 → Option (Fin 16)) :
    (s.setZones g).classifier = s.classifier := by simp only [setZones]
@[simp] theorem setZones_bellRecs (g : Fin 24 → Option (Fin 16)) :
    (s.setZones g).bellRecs = s.bellRecs := by simp only [setZones]
@[simp] theorem setZones_bells (g : Fin 24 → Option (Fin 16)) :
    (s.setZones g).bells = s.bells := by simp only [setZones]
@[simp] theorem setZones_launch (g : Fin 24 → Option (Fin 16)) :
    (s.setZones g).launch = s.launch := by simp only [setZones]
@[simp] theorem setZones_motifDirs (g : Fin 24 → Option (Fin 16)) :
    (s.setZones g).motifDirs = s.motifDirs := by simp only [setZones]
@[simp] theorem setZones_rows (g : Fin 24 → Option (Fin 16)) : (s.setZones g).rows = s.rows := by simp only [setZones]
@[simp] theorem setZones_runs (g : Fin 24 → Option (Fin 16)) : (s.setZones g).runs = s.runs := by simp only [setZones]
@[simp] theorem setZones_figRecs (g : Fin 24 → Option (Fin 16)) :
    (s.setZones g).figRecs = s.figRecs := by simp only [setZones]
@[simp] theorem setZones_figs (g : Fin 24 → Option (Fin 16)) : (s.setZones g).figs = s.figs := by simp only [setZones]
@[simp] theorem setZones_zones (g : Fin 24 → Option (Fin 16)) :
    (s.setZones g).zones = Vector.ofFn g := by simp only [setZones]
@[simp] theorem setZones_boardRecs (g : Fin 24 → Option (Fin 16)) :
    (s.setZones g).boardRecs = s.boardRecs := by simp only [setZones]
@[simp] theorem setZones_boards (g : Fin 24 → Option (Fin 16)) :
    (s.setZones g).boards = s.boards := by simp only [setZones]
@[simp] theorem setZones_boardUnit (g : Fin 24 → Option (Fin 16)) :
    (s.setZones g).boardUnit = s.boardUnit := by simp only [setZones]
@[simp] theorem setZones_groups (g : Fin 24 → Option (Fin 16)) :
    (s.setZones g).groups = s.groups := by simp only [setZones]
@[simp] theorem setZones_strikeAccount (g : Fin 24 → Option (Fin 16)) :
    (s.setZones g).strikeAccount = s.strikeAccount := by simp only [setZones]
@[simp] theorem setZones_shows (g : Fin 24 → Option (Fin 16)) :
    (s.setZones g).shows = s.shows := by simp only [setZones]
@[simp] theorem setZones_moves (g : Fin 24 → Option (Fin 16)) :
    (s.setZones g).moves = s.moves := by simp only [setZones]
@[simp] theorem setZones_showUnit (g : Fin 24 → Option (Fin 16)) :
    (s.setZones g).showUnit = s.showUnit := by simp only [setZones]
@[simp] theorem setZones_calendar (g : Fin 24 → Option (Fin 16)) :
    (s.setZones g).calendar = s.calendar := by simp only [setZones]
@[simp] theorem setZones_mgmt (g : Fin 24 → Option (Fin 16)) : (s.setZones g).mgmt = s.mgmt := by simp only [setZones]
@[simp] theorem setZones_freeCount (g : Fin 24 → Option (Fin 16)) :
    (s.setZones g).freeCount = s.freeCount := by simp only [setZones]
@[simp] theorem setZones_pending (g : Fin 24 → Option (Fin 16)) :
    (s.setZones g).pending = s.pending := by simp only [setZones]

/-! `setBoardRec` writes `boardRecs`. -/

@[simp] theorem setBoardRec_clock (i : Fin 32) (x : BoardRec) : (s.setBoardRec i x).clock = s.clock := rfl
@[simp] theorem setBoardRec_node (i : Fin 32) (x : BoardRec) : (s.setBoardRec i x).node = s.node := rfl
@[simp] theorem setBoardRec_head (i : Fin 32) (x : BoardRec) : (s.setBoardRec i x).head = s.head := rfl
@[simp] theorem setBoardRec_tail (i : Fin 32) (x : BoardRec) : (s.setBoardRec i x).tail = s.tail := rfl
@[simp] theorem setBoardRec_parse (i : Fin 32) (x : BoardRec) : (s.setBoardRec i x).parse = s.parse := rfl
@[simp] theorem setBoardRec_classifier (i : Fin 32) (x : BoardRec) :
    (s.setBoardRec i x).classifier = s.classifier := rfl
@[simp] theorem setBoardRec_bellRecs (i : Fin 32) (x : BoardRec) : (s.setBoardRec i x).bellRecs = s.bellRecs := rfl
@[simp] theorem setBoardRec_bells (i : Fin 32) (x : BoardRec) : (s.setBoardRec i x).bells = s.bells := rfl
@[simp] theorem setBoardRec_launch (i : Fin 32) (x : BoardRec) : (s.setBoardRec i x).launch = s.launch := rfl
@[simp] theorem setBoardRec_motifDirs (i : Fin 32) (x : BoardRec) : (s.setBoardRec i x).motifDirs = s.motifDirs := rfl
@[simp] theorem setBoardRec_rows (i : Fin 32) (x : BoardRec) : (s.setBoardRec i x).rows = s.rows := rfl
@[simp] theorem setBoardRec_runs (i : Fin 32) (x : BoardRec) : (s.setBoardRec i x).runs = s.runs := rfl
@[simp] theorem setBoardRec_figRecs (i : Fin 32) (x : BoardRec) : (s.setBoardRec i x).figRecs = s.figRecs := rfl
@[simp] theorem setBoardRec_figs (i : Fin 32) (x : BoardRec) : (s.setBoardRec i x).figs = s.figs := rfl
@[simp] theorem setBoardRec_zones (i : Fin 32) (x : BoardRec) : (s.setBoardRec i x).zones = s.zones := rfl
@[simp] theorem setBoardRec_boardRecs (i : Fin 32) (x : BoardRec) :
    (s.setBoardRec i x).boardRecs = s.boardRecs.set i.val x i.isLt := rfl
@[simp] theorem setBoardRec_boards (i : Fin 32) (x : BoardRec) : (s.setBoardRec i x).boards = s.boards := rfl
@[simp] theorem setBoardRec_boardUnit (i : Fin 32) (x : BoardRec) : (s.setBoardRec i x).boardUnit = s.boardUnit := rfl
@[simp] theorem setBoardRec_groups (i : Fin 32) (x : BoardRec) : (s.setBoardRec i x).groups = s.groups := rfl
@[simp] theorem setBoardRec_strikeAccount (i : Fin 32) (x : BoardRec) :
    (s.setBoardRec i x).strikeAccount = s.strikeAccount := rfl
@[simp] theorem setBoardRec_shows (i : Fin 32) (x : BoardRec) : (s.setBoardRec i x).shows = s.shows := rfl
@[simp] theorem setBoardRec_moves (i : Fin 32) (x : BoardRec) : (s.setBoardRec i x).moves = s.moves := rfl
@[simp] theorem setBoardRec_showUnit (i : Fin 32) (x : BoardRec) : (s.setBoardRec i x).showUnit = s.showUnit := rfl
@[simp] theorem setBoardRec_calendar (i : Fin 32) (x : BoardRec) : (s.setBoardRec i x).calendar = s.calendar := rfl
@[simp] theorem setBoardRec_mgmt (i : Fin 32) (x : BoardRec) : (s.setBoardRec i x).mgmt = s.mgmt := rfl
@[simp] theorem setBoardRec_freeCount (i : Fin 32) (x : BoardRec) : (s.setBoardRec i x).freeCount = s.freeCount := rfl
@[simp] theorem setBoardRec_pending (i : Fin 32) (x : BoardRec) : (s.setBoardRec i x).pending = s.pending := rfl

/-! `modBoards` writes `boards`. -/

@[simp] theorem modBoards_clock (g : BoardState → BoardState) : (s.modBoards g).clock = s.clock := rfl
@[simp] theorem modBoards_node (g : BoardState → BoardState) : (s.modBoards g).node = s.node := rfl
@[simp] theorem modBoards_head (g : BoardState → BoardState) : (s.modBoards g).head = s.head := rfl
@[simp] theorem modBoards_tail (g : BoardState → BoardState) : (s.modBoards g).tail = s.tail := rfl
@[simp] theorem modBoards_parse (g : BoardState → BoardState) : (s.modBoards g).parse = s.parse := rfl
@[simp] theorem modBoards_classifier (g : BoardState → BoardState) : (s.modBoards g).classifier = s.classifier := rfl
@[simp] theorem modBoards_bellRecs (g : BoardState → BoardState) : (s.modBoards g).bellRecs = s.bellRecs := rfl
@[simp] theorem modBoards_bells (g : BoardState → BoardState) : (s.modBoards g).bells = s.bells := rfl
@[simp] theorem modBoards_launch (g : BoardState → BoardState) : (s.modBoards g).launch = s.launch := rfl
@[simp] theorem modBoards_motifDirs (g : BoardState → BoardState) : (s.modBoards g).motifDirs = s.motifDirs := rfl
@[simp] theorem modBoards_rows (g : BoardState → BoardState) : (s.modBoards g).rows = s.rows := rfl
@[simp] theorem modBoards_runs (g : BoardState → BoardState) : (s.modBoards g).runs = s.runs := rfl
@[simp] theorem modBoards_figRecs (g : BoardState → BoardState) : (s.modBoards g).figRecs = s.figRecs := rfl
@[simp] theorem modBoards_figs (g : BoardState → BoardState) : (s.modBoards g).figs = s.figs := rfl
@[simp] theorem modBoards_zones (g : BoardState → BoardState) : (s.modBoards g).zones = s.zones := rfl
@[simp] theorem modBoards_boardRecs (g : BoardState → BoardState) : (s.modBoards g).boardRecs = s.boardRecs := rfl
@[simp] theorem modBoards_boards (g : BoardState → BoardState) : (s.modBoards g).boards = s.boards.map g := rfl
@[simp] theorem modBoards_boardUnit (g : BoardState → BoardState) : (s.modBoards g).boardUnit = s.boardUnit := rfl
@[simp] theorem modBoards_groups (g : BoardState → BoardState) : (s.modBoards g).groups = s.groups := rfl
@[simp] theorem modBoards_strikeAccount (g : BoardState → BoardState) :
    (s.modBoards g).strikeAccount = s.strikeAccount := rfl
@[simp] theorem modBoards_shows (g : BoardState → BoardState) : (s.modBoards g).shows = s.shows := rfl
@[simp] theorem modBoards_moves (g : BoardState → BoardState) : (s.modBoards g).moves = s.moves := rfl
@[simp] theorem modBoards_showUnit (g : BoardState → BoardState) : (s.modBoards g).showUnit = s.showUnit := rfl
@[simp] theorem modBoards_calendar (g : BoardState → BoardState) : (s.modBoards g).calendar = s.calendar := rfl
@[simp] theorem modBoards_mgmt (g : BoardState → BoardState) : (s.modBoards g).mgmt = s.mgmt := rfl
@[simp] theorem modBoards_freeCount (g : BoardState → BoardState) : (s.modBoards g).freeCount = s.freeCount := rfl
@[simp] theorem modBoards_pending (g : BoardState → BoardState) : (s.modBoards g).pending = s.pending := rfl

/-! `setBoard` writes `boards`. -/

@[simp] theorem setBoard_clock (i : Fin 32) (x : BoardState) : (s.setBoard i x).clock = s.clock := rfl
@[simp] theorem setBoard_node (i : Fin 32) (x : BoardState) : (s.setBoard i x).node = s.node := rfl
@[simp] theorem setBoard_head (i : Fin 32) (x : BoardState) : (s.setBoard i x).head = s.head := rfl
@[simp] theorem setBoard_tail (i : Fin 32) (x : BoardState) : (s.setBoard i x).tail = s.tail := rfl
@[simp] theorem setBoard_parse (i : Fin 32) (x : BoardState) : (s.setBoard i x).parse = s.parse := rfl
@[simp] theorem setBoard_classifier (i : Fin 32) (x : BoardState) : (s.setBoard i x).classifier = s.classifier := rfl
@[simp] theorem setBoard_bellRecs (i : Fin 32) (x : BoardState) : (s.setBoard i x).bellRecs = s.bellRecs := rfl
@[simp] theorem setBoard_bells (i : Fin 32) (x : BoardState) : (s.setBoard i x).bells = s.bells := rfl
@[simp] theorem setBoard_launch (i : Fin 32) (x : BoardState) : (s.setBoard i x).launch = s.launch := rfl
@[simp] theorem setBoard_motifDirs (i : Fin 32) (x : BoardState) : (s.setBoard i x).motifDirs = s.motifDirs := rfl
@[simp] theorem setBoard_rows (i : Fin 32) (x : BoardState) : (s.setBoard i x).rows = s.rows := rfl
@[simp] theorem setBoard_runs (i : Fin 32) (x : BoardState) : (s.setBoard i x).runs = s.runs := rfl
@[simp] theorem setBoard_figRecs (i : Fin 32) (x : BoardState) : (s.setBoard i x).figRecs = s.figRecs := rfl
@[simp] theorem setBoard_figs (i : Fin 32) (x : BoardState) : (s.setBoard i x).figs = s.figs := rfl
@[simp] theorem setBoard_zones (i : Fin 32) (x : BoardState) : (s.setBoard i x).zones = s.zones := rfl
@[simp] theorem setBoard_boardRecs (i : Fin 32) (x : BoardState) : (s.setBoard i x).boardRecs = s.boardRecs := rfl
@[simp] theorem setBoard_boards (i : Fin 32) (x : BoardState) :
    (s.setBoard i x).boards = s.boards.set i.val x i.isLt := rfl
@[simp] theorem setBoard_boardUnit (i : Fin 32) (x : BoardState) : (s.setBoard i x).boardUnit = s.boardUnit := rfl
@[simp] theorem setBoard_groups (i : Fin 32) (x : BoardState) : (s.setBoard i x).groups = s.groups := rfl
@[simp] theorem setBoard_strikeAccount (i : Fin 32) (x : BoardState) :
    (s.setBoard i x).strikeAccount = s.strikeAccount := rfl
@[simp] theorem setBoard_shows (i : Fin 32) (x : BoardState) : (s.setBoard i x).shows = s.shows := rfl
@[simp] theorem setBoard_moves (i : Fin 32) (x : BoardState) : (s.setBoard i x).moves = s.moves := rfl
@[simp] theorem setBoard_showUnit (i : Fin 32) (x : BoardState) : (s.setBoard i x).showUnit = s.showUnit := rfl
@[simp] theorem setBoard_calendar (i : Fin 32) (x : BoardState) : (s.setBoard i x).calendar = s.calendar := rfl
@[simp] theorem setBoard_mgmt (i : Fin 32) (x : BoardState) : (s.setBoard i x).mgmt = s.mgmt := rfl
@[simp] theorem setBoard_freeCount (i : Fin 32) (x : BoardState) : (s.setBoard i x).freeCount = s.freeCount := rfl
@[simp] theorem setBoard_pending (i : Fin 32) (x : BoardState) : (s.setBoard i x).pending = s.pending := rfl

/-! `modBoard` writes `boards`. -/

@[simp] theorem modBoard_clock (i : Fin 32) (g : BoardState → BoardState) : (s.modBoard i g).clock = s.clock := rfl
@[simp] theorem modBoard_node (i : Fin 32) (g : BoardState → BoardState) : (s.modBoard i g).node = s.node := rfl
@[simp] theorem modBoard_head (i : Fin 32) (g : BoardState → BoardState) : (s.modBoard i g).head = s.head := rfl
@[simp] theorem modBoard_tail (i : Fin 32) (g : BoardState → BoardState) : (s.modBoard i g).tail = s.tail := rfl
@[simp] theorem modBoard_parse (i : Fin 32) (g : BoardState → BoardState) : (s.modBoard i g).parse = s.parse := rfl
@[simp] theorem modBoard_classifier (i : Fin 32) (g : BoardState → BoardState) :
    (s.modBoard i g).classifier = s.classifier := rfl
@[simp] theorem modBoard_bellRecs (i : Fin 32) (g : BoardState → BoardState) :
    (s.modBoard i g).bellRecs = s.bellRecs := rfl
@[simp] theorem modBoard_bells (i : Fin 32) (g : BoardState → BoardState) : (s.modBoard i g).bells = s.bells := rfl
@[simp] theorem modBoard_launch (i : Fin 32) (g : BoardState → BoardState) : (s.modBoard i g).launch = s.launch := rfl
@[simp] theorem modBoard_motifDirs (i : Fin 32) (g : BoardState → BoardState) :
    (s.modBoard i g).motifDirs = s.motifDirs := rfl
@[simp] theorem modBoard_rows (i : Fin 32) (g : BoardState → BoardState) : (s.modBoard i g).rows = s.rows := rfl
@[simp] theorem modBoard_runs (i : Fin 32) (g : BoardState → BoardState) : (s.modBoard i g).runs = s.runs := rfl
@[simp] theorem modBoard_figRecs (i : Fin 32) (g : BoardState → BoardState) :
    (s.modBoard i g).figRecs = s.figRecs := rfl
@[simp] theorem modBoard_figs (i : Fin 32) (g : BoardState → BoardState) : (s.modBoard i g).figs = s.figs := rfl
@[simp] theorem modBoard_zones (i : Fin 32) (g : BoardState → BoardState) : (s.modBoard i g).zones = s.zones := rfl
@[simp] theorem modBoard_boardRecs (i : Fin 32) (g : BoardState → BoardState) :
    (s.modBoard i g).boardRecs = s.boardRecs := rfl
@[simp] theorem modBoard_boards (i : Fin 32) (g : BoardState → BoardState) :
    (s.modBoard i g).boards = s.boards.set i.val (g s.boards[i]) i.isLt := rfl
@[simp] theorem modBoard_boardUnit (i : Fin 32) (g : BoardState → BoardState) :
    (s.modBoard i g).boardUnit = s.boardUnit := rfl
@[simp] theorem modBoard_groups (i : Fin 32) (g : BoardState → BoardState) : (s.modBoard i g).groups = s.groups := rfl
@[simp] theorem modBoard_strikeAccount (i : Fin 32) (g : BoardState → BoardState) :
    (s.modBoard i g).strikeAccount = s.strikeAccount := rfl
@[simp] theorem modBoard_shows (i : Fin 32) (g : BoardState → BoardState) : (s.modBoard i g).shows = s.shows := rfl
@[simp] theorem modBoard_moves (i : Fin 32) (g : BoardState → BoardState) : (s.modBoard i g).moves = s.moves := rfl
@[simp] theorem modBoard_showUnit (i : Fin 32) (g : BoardState → BoardState) :
    (s.modBoard i g).showUnit = s.showUnit := rfl
@[simp] theorem modBoard_calendar (i : Fin 32) (g : BoardState → BoardState) :
    (s.modBoard i g).calendar = s.calendar := rfl
@[simp] theorem modBoard_mgmt (i : Fin 32) (g : BoardState → BoardState) : (s.modBoard i g).mgmt = s.mgmt := rfl
@[simp] theorem modBoard_freeCount (i : Fin 32) (g : BoardState → BoardState) :
    (s.modBoard i g).freeCount = s.freeCount := rfl
@[simp] theorem modBoard_pending (i : Fin 32) (g : BoardState → BoardState) :
    (s.modBoard i g).pending = s.pending := rfl

/-! `modBoardUnit` writes `boardUnit`. -/

@[simp] theorem modBoardUnit_clock (g : BoardUnit → BoardUnit) : (s.modBoardUnit g).clock = s.clock := rfl
@[simp] theorem modBoardUnit_node (g : BoardUnit → BoardUnit) : (s.modBoardUnit g).node = s.node := rfl
@[simp] theorem modBoardUnit_head (g : BoardUnit → BoardUnit) : (s.modBoardUnit g).head = s.head := rfl
@[simp] theorem modBoardUnit_tail (g : BoardUnit → BoardUnit) : (s.modBoardUnit g).tail = s.tail := rfl
@[simp] theorem modBoardUnit_parse (g : BoardUnit → BoardUnit) : (s.modBoardUnit g).parse = s.parse := rfl
@[simp] theorem modBoardUnit_classifier (g : BoardUnit → BoardUnit) :
    (s.modBoardUnit g).classifier = s.classifier := rfl
@[simp] theorem modBoardUnit_bellRecs (g : BoardUnit → BoardUnit) : (s.modBoardUnit g).bellRecs = s.bellRecs := rfl
@[simp] theorem modBoardUnit_bells (g : BoardUnit → BoardUnit) : (s.modBoardUnit g).bells = s.bells := rfl
@[simp] theorem modBoardUnit_launch (g : BoardUnit → BoardUnit) : (s.modBoardUnit g).launch = s.launch := rfl
@[simp] theorem modBoardUnit_motifDirs (g : BoardUnit → BoardUnit) : (s.modBoardUnit g).motifDirs = s.motifDirs := rfl
@[simp] theorem modBoardUnit_rows (g : BoardUnit → BoardUnit) : (s.modBoardUnit g).rows = s.rows := rfl
@[simp] theorem modBoardUnit_runs (g : BoardUnit → BoardUnit) : (s.modBoardUnit g).runs = s.runs := rfl
@[simp] theorem modBoardUnit_figRecs (g : BoardUnit → BoardUnit) : (s.modBoardUnit g).figRecs = s.figRecs := rfl
@[simp] theorem modBoardUnit_figs (g : BoardUnit → BoardUnit) : (s.modBoardUnit g).figs = s.figs := rfl
@[simp] theorem modBoardUnit_zones (g : BoardUnit → BoardUnit) : (s.modBoardUnit g).zones = s.zones := rfl
@[simp] theorem modBoardUnit_boardRecs (g : BoardUnit → BoardUnit) : (s.modBoardUnit g).boardRecs = s.boardRecs := rfl
@[simp] theorem modBoardUnit_boards (g : BoardUnit → BoardUnit) : (s.modBoardUnit g).boards = s.boards := rfl
@[simp] theorem modBoardUnit_boardUnit (g : BoardUnit → BoardUnit) : (s.modBoardUnit g).boardUnit = g s.boardUnit := rfl
@[simp] theorem modBoardUnit_groups (g : BoardUnit → BoardUnit) : (s.modBoardUnit g).groups = s.groups := rfl
@[simp] theorem modBoardUnit_strikeAccount (g : BoardUnit → BoardUnit) :
    (s.modBoardUnit g).strikeAccount = s.strikeAccount := rfl
@[simp] theorem modBoardUnit_shows (g : BoardUnit → BoardUnit) : (s.modBoardUnit g).shows = s.shows := rfl
@[simp] theorem modBoardUnit_moves (g : BoardUnit → BoardUnit) : (s.modBoardUnit g).moves = s.moves := rfl
@[simp] theorem modBoardUnit_showUnit (g : BoardUnit → BoardUnit) : (s.modBoardUnit g).showUnit = s.showUnit := rfl
@[simp] theorem modBoardUnit_calendar (g : BoardUnit → BoardUnit) : (s.modBoardUnit g).calendar = s.calendar := rfl
@[simp] theorem modBoardUnit_mgmt (g : BoardUnit → BoardUnit) : (s.modBoardUnit g).mgmt = s.mgmt := rfl
@[simp] theorem modBoardUnit_freeCount (g : BoardUnit → BoardUnit) : (s.modBoardUnit g).freeCount = s.freeCount := rfl
@[simp] theorem modBoardUnit_pending (g : BoardUnit → BoardUnit) : (s.modBoardUnit g).pending = s.pending := rfl

/-! `setGroup` writes `groups`. -/

@[simp] theorem setGroup_clock (i : Fin 4) (x : GroupRec) : (s.setGroup i x).clock = s.clock := rfl
@[simp] theorem setGroup_node (i : Fin 4) (x : GroupRec) : (s.setGroup i x).node = s.node := rfl
@[simp] theorem setGroup_head (i : Fin 4) (x : GroupRec) : (s.setGroup i x).head = s.head := rfl
@[simp] theorem setGroup_tail (i : Fin 4) (x : GroupRec) : (s.setGroup i x).tail = s.tail := rfl
@[simp] theorem setGroup_parse (i : Fin 4) (x : GroupRec) : (s.setGroup i x).parse = s.parse := rfl
@[simp] theorem setGroup_classifier (i : Fin 4) (x : GroupRec) : (s.setGroup i x).classifier = s.classifier := rfl
@[simp] theorem setGroup_bellRecs (i : Fin 4) (x : GroupRec) : (s.setGroup i x).bellRecs = s.bellRecs := rfl
@[simp] theorem setGroup_bells (i : Fin 4) (x : GroupRec) : (s.setGroup i x).bells = s.bells := rfl
@[simp] theorem setGroup_launch (i : Fin 4) (x : GroupRec) : (s.setGroup i x).launch = s.launch := rfl
@[simp] theorem setGroup_motifDirs (i : Fin 4) (x : GroupRec) : (s.setGroup i x).motifDirs = s.motifDirs := rfl
@[simp] theorem setGroup_rows (i : Fin 4) (x : GroupRec) : (s.setGroup i x).rows = s.rows := rfl
@[simp] theorem setGroup_runs (i : Fin 4) (x : GroupRec) : (s.setGroup i x).runs = s.runs := rfl
@[simp] theorem setGroup_figRecs (i : Fin 4) (x : GroupRec) : (s.setGroup i x).figRecs = s.figRecs := rfl
@[simp] theorem setGroup_figs (i : Fin 4) (x : GroupRec) : (s.setGroup i x).figs = s.figs := rfl
@[simp] theorem setGroup_zones (i : Fin 4) (x : GroupRec) : (s.setGroup i x).zones = s.zones := rfl
@[simp] theorem setGroup_boardRecs (i : Fin 4) (x : GroupRec) : (s.setGroup i x).boardRecs = s.boardRecs := rfl
@[simp] theorem setGroup_boards (i : Fin 4) (x : GroupRec) : (s.setGroup i x).boards = s.boards := rfl
@[simp] theorem setGroup_boardUnit (i : Fin 4) (x : GroupRec) : (s.setGroup i x).boardUnit = s.boardUnit := rfl
@[simp] theorem setGroup_groups (i : Fin 4) (x : GroupRec) :
    (s.setGroup i x).groups = s.groups.set i.val x i.isLt := rfl
@[simp] theorem setGroup_strikeAccount (i : Fin 4) (x : GroupRec) :
    (s.setGroup i x).strikeAccount = s.strikeAccount := rfl
@[simp] theorem setGroup_shows (i : Fin 4) (x : GroupRec) : (s.setGroup i x).shows = s.shows := rfl
@[simp] theorem setGroup_moves (i : Fin 4) (x : GroupRec) : (s.setGroup i x).moves = s.moves := rfl
@[simp] theorem setGroup_showUnit (i : Fin 4) (x : GroupRec) : (s.setGroup i x).showUnit = s.showUnit := rfl
@[simp] theorem setGroup_calendar (i : Fin 4) (x : GroupRec) : (s.setGroup i x).calendar = s.calendar := rfl
@[simp] theorem setGroup_mgmt (i : Fin 4) (x : GroupRec) : (s.setGroup i x).mgmt = s.mgmt := rfl
@[simp] theorem setGroup_freeCount (i : Fin 4) (x : GroupRec) : (s.setGroup i x).freeCount = s.freeCount := rfl
@[simp] theorem setGroup_pending (i : Fin 4) (x : GroupRec) : (s.setGroup i x).pending = s.pending := rfl

/-! `setStrikeAccount` writes `strikeAccount`. -/

@[simp] theorem setStrikeAccount_clock (x : List StrikeAdmission) : (s.setStrikeAccount x).clock = s.clock := rfl
@[simp] theorem setStrikeAccount_node (x : List StrikeAdmission) : (s.setStrikeAccount x).node = s.node := rfl
@[simp] theorem setStrikeAccount_head (x : List StrikeAdmission) : (s.setStrikeAccount x).head = s.head := rfl
@[simp] theorem setStrikeAccount_tail (x : List StrikeAdmission) : (s.setStrikeAccount x).tail = s.tail := rfl
@[simp] theorem setStrikeAccount_parse (x : List StrikeAdmission) : (s.setStrikeAccount x).parse = s.parse := rfl
@[simp] theorem setStrikeAccount_classifier (x : List StrikeAdmission) :
    (s.setStrikeAccount x).classifier = s.classifier := rfl
@[simp] theorem setStrikeAccount_bellRecs (x : List StrikeAdmission) :
    (s.setStrikeAccount x).bellRecs = s.bellRecs := rfl
@[simp] theorem setStrikeAccount_bells (x : List StrikeAdmission) : (s.setStrikeAccount x).bells = s.bells := rfl
@[simp] theorem setStrikeAccount_launch (x : List StrikeAdmission) : (s.setStrikeAccount x).launch = s.launch := rfl
@[simp] theorem setStrikeAccount_motifDirs (x : List StrikeAdmission) :
    (s.setStrikeAccount x).motifDirs = s.motifDirs := rfl
@[simp] theorem setStrikeAccount_rows (x : List StrikeAdmission) : (s.setStrikeAccount x).rows = s.rows := rfl
@[simp] theorem setStrikeAccount_runs (x : List StrikeAdmission) : (s.setStrikeAccount x).runs = s.runs := rfl
@[simp] theorem setStrikeAccount_figRecs (x : List StrikeAdmission) : (s.setStrikeAccount x).figRecs = s.figRecs := rfl
@[simp] theorem setStrikeAccount_figs (x : List StrikeAdmission) : (s.setStrikeAccount x).figs = s.figs := rfl
@[simp] theorem setStrikeAccount_zones (x : List StrikeAdmission) : (s.setStrikeAccount x).zones = s.zones := rfl
@[simp] theorem setStrikeAccount_boardRecs (x : List StrikeAdmission) :
    (s.setStrikeAccount x).boardRecs = s.boardRecs := rfl
@[simp] theorem setStrikeAccount_boards (x : List StrikeAdmission) : (s.setStrikeAccount x).boards = s.boards := rfl
@[simp] theorem setStrikeAccount_boardUnit (x : List StrikeAdmission) :
    (s.setStrikeAccount x).boardUnit = s.boardUnit := rfl
@[simp] theorem setStrikeAccount_groups (x : List StrikeAdmission) : (s.setStrikeAccount x).groups = s.groups := rfl
@[simp] theorem setStrikeAccount_strikeAccount (x : List StrikeAdmission) :
    (s.setStrikeAccount x).strikeAccount = x := rfl
@[simp] theorem setStrikeAccount_shows (x : List StrikeAdmission) : (s.setStrikeAccount x).shows = s.shows := rfl
@[simp] theorem setStrikeAccount_moves (x : List StrikeAdmission) : (s.setStrikeAccount x).moves = s.moves := rfl
@[simp] theorem setStrikeAccount_showUnit (x : List StrikeAdmission) :
    (s.setStrikeAccount x).showUnit = s.showUnit := rfl
@[simp] theorem setStrikeAccount_calendar (x : List StrikeAdmission) :
    (s.setStrikeAccount x).calendar = s.calendar := rfl
@[simp] theorem setStrikeAccount_mgmt (x : List StrikeAdmission) : (s.setStrikeAccount x).mgmt = s.mgmt := rfl
@[simp] theorem setStrikeAccount_freeCount (x : List StrikeAdmission) :
    (s.setStrikeAccount x).freeCount = s.freeCount := rfl
@[simp] theorem setStrikeAccount_pending (x : List StrikeAdmission) : (s.setStrikeAccount x).pending = s.pending := rfl

/-! `setShow` writes `shows`. -/

@[simp] theorem setShow_clock (i : Fin 32) (x : ShowRec) : (s.setShow i x).clock = s.clock := rfl
@[simp] theorem setShow_node (i : Fin 32) (x : ShowRec) : (s.setShow i x).node = s.node := rfl
@[simp] theorem setShow_head (i : Fin 32) (x : ShowRec) : (s.setShow i x).head = s.head := rfl
@[simp] theorem setShow_tail (i : Fin 32) (x : ShowRec) : (s.setShow i x).tail = s.tail := rfl
@[simp] theorem setShow_parse (i : Fin 32) (x : ShowRec) : (s.setShow i x).parse = s.parse := rfl
@[simp] theorem setShow_classifier (i : Fin 32) (x : ShowRec) : (s.setShow i x).classifier = s.classifier := rfl
@[simp] theorem setShow_bellRecs (i : Fin 32) (x : ShowRec) : (s.setShow i x).bellRecs = s.bellRecs := rfl
@[simp] theorem setShow_bells (i : Fin 32) (x : ShowRec) : (s.setShow i x).bells = s.bells := rfl
@[simp] theorem setShow_launch (i : Fin 32) (x : ShowRec) : (s.setShow i x).launch = s.launch := rfl
@[simp] theorem setShow_motifDirs (i : Fin 32) (x : ShowRec) : (s.setShow i x).motifDirs = s.motifDirs := rfl
@[simp] theorem setShow_rows (i : Fin 32) (x : ShowRec) : (s.setShow i x).rows = s.rows := rfl
@[simp] theorem setShow_runs (i : Fin 32) (x : ShowRec) : (s.setShow i x).runs = s.runs := rfl
@[simp] theorem setShow_figRecs (i : Fin 32) (x : ShowRec) : (s.setShow i x).figRecs = s.figRecs := rfl
@[simp] theorem setShow_figs (i : Fin 32) (x : ShowRec) : (s.setShow i x).figs = s.figs := rfl
@[simp] theorem setShow_zones (i : Fin 32) (x : ShowRec) : (s.setShow i x).zones = s.zones := rfl
@[simp] theorem setShow_boardRecs (i : Fin 32) (x : ShowRec) : (s.setShow i x).boardRecs = s.boardRecs := rfl
@[simp] theorem setShow_boards (i : Fin 32) (x : ShowRec) : (s.setShow i x).boards = s.boards := rfl
@[simp] theorem setShow_boardUnit (i : Fin 32) (x : ShowRec) : (s.setShow i x).boardUnit = s.boardUnit := rfl
@[simp] theorem setShow_groups (i : Fin 32) (x : ShowRec) : (s.setShow i x).groups = s.groups := rfl
@[simp] theorem setShow_strikeAccount (i : Fin 32) (x : ShowRec) :
    (s.setShow i x).strikeAccount = s.strikeAccount := rfl
@[simp] theorem setShow_shows (i : Fin 32) (x : ShowRec) : (s.setShow i x).shows = s.shows.set i.val x i.isLt := rfl
@[simp] theorem setShow_moves (i : Fin 32) (x : ShowRec) : (s.setShow i x).moves = s.moves := rfl
@[simp] theorem setShow_showUnit (i : Fin 32) (x : ShowRec) : (s.setShow i x).showUnit = s.showUnit := rfl
@[simp] theorem setShow_calendar (i : Fin 32) (x : ShowRec) : (s.setShow i x).calendar = s.calendar := rfl
@[simp] theorem setShow_mgmt (i : Fin 32) (x : ShowRec) : (s.setShow i x).mgmt = s.mgmt := rfl
@[simp] theorem setShow_freeCount (i : Fin 32) (x : ShowRec) : (s.setShow i x).freeCount = s.freeCount := rfl
@[simp] theorem setShow_pending (i : Fin 32) (x : ShowRec) : (s.setShow i x).pending = s.pending := rfl

/-! `setMove` writes `moves`. -/

@[simp] theorem setMove_clock (i : Fin 512) (x : MoveEntry) : (s.setMove i x).clock = s.clock := rfl
@[simp] theorem setMove_node (i : Fin 512) (x : MoveEntry) : (s.setMove i x).node = s.node := rfl
@[simp] theorem setMove_head (i : Fin 512) (x : MoveEntry) : (s.setMove i x).head = s.head := rfl
@[simp] theorem setMove_tail (i : Fin 512) (x : MoveEntry) : (s.setMove i x).tail = s.tail := rfl
@[simp] theorem setMove_parse (i : Fin 512) (x : MoveEntry) : (s.setMove i x).parse = s.parse := rfl
@[simp] theorem setMove_classifier (i : Fin 512) (x : MoveEntry) : (s.setMove i x).classifier = s.classifier := rfl
@[simp] theorem setMove_bellRecs (i : Fin 512) (x : MoveEntry) : (s.setMove i x).bellRecs = s.bellRecs := rfl
@[simp] theorem setMove_bells (i : Fin 512) (x : MoveEntry) : (s.setMove i x).bells = s.bells := rfl
@[simp] theorem setMove_launch (i : Fin 512) (x : MoveEntry) : (s.setMove i x).launch = s.launch := rfl
@[simp] theorem setMove_motifDirs (i : Fin 512) (x : MoveEntry) : (s.setMove i x).motifDirs = s.motifDirs := rfl
@[simp] theorem setMove_rows (i : Fin 512) (x : MoveEntry) : (s.setMove i x).rows = s.rows := rfl
@[simp] theorem setMove_runs (i : Fin 512) (x : MoveEntry) : (s.setMove i x).runs = s.runs := rfl
@[simp] theorem setMove_figRecs (i : Fin 512) (x : MoveEntry) : (s.setMove i x).figRecs = s.figRecs := rfl
@[simp] theorem setMove_figs (i : Fin 512) (x : MoveEntry) : (s.setMove i x).figs = s.figs := rfl
@[simp] theorem setMove_zones (i : Fin 512) (x : MoveEntry) : (s.setMove i x).zones = s.zones := rfl
@[simp] theorem setMove_boardRecs (i : Fin 512) (x : MoveEntry) : (s.setMove i x).boardRecs = s.boardRecs := rfl
@[simp] theorem setMove_boards (i : Fin 512) (x : MoveEntry) : (s.setMove i x).boards = s.boards := rfl
@[simp] theorem setMove_boardUnit (i : Fin 512) (x : MoveEntry) : (s.setMove i x).boardUnit = s.boardUnit := rfl
@[simp] theorem setMove_groups (i : Fin 512) (x : MoveEntry) : (s.setMove i x).groups = s.groups := rfl
@[simp] theorem setMove_strikeAccount (i : Fin 512) (x : MoveEntry) :
    (s.setMove i x).strikeAccount = s.strikeAccount := rfl
@[simp] theorem setMove_shows (i : Fin 512) (x : MoveEntry) : (s.setMove i x).shows = s.shows := rfl
@[simp] theorem setMove_moves (i : Fin 512) (x : MoveEntry) : (s.setMove i x).moves = s.moves.set i.val x i.isLt := rfl
@[simp] theorem setMove_showUnit (i : Fin 512) (x : MoveEntry) : (s.setMove i x).showUnit = s.showUnit := rfl
@[simp] theorem setMove_calendar (i : Fin 512) (x : MoveEntry) : (s.setMove i x).calendar = s.calendar := rfl
@[simp] theorem setMove_mgmt (i : Fin 512) (x : MoveEntry) : (s.setMove i x).mgmt = s.mgmt := rfl
@[simp] theorem setMove_freeCount (i : Fin 512) (x : MoveEntry) : (s.setMove i x).freeCount = s.freeCount := rfl
@[simp] theorem setMove_pending (i : Fin 512) (x : MoveEntry) : (s.setMove i x).pending = s.pending := rfl

/-! `modShowUnit` writes `showUnit`. -/

@[simp] theorem modShowUnit_clock (g : ShowUnit → ShowUnit) : (s.modShowUnit g).clock = s.clock := rfl
@[simp] theorem modShowUnit_node (g : ShowUnit → ShowUnit) : (s.modShowUnit g).node = s.node := rfl
@[simp] theorem modShowUnit_head (g : ShowUnit → ShowUnit) : (s.modShowUnit g).head = s.head := rfl
@[simp] theorem modShowUnit_tail (g : ShowUnit → ShowUnit) : (s.modShowUnit g).tail = s.tail := rfl
@[simp] theorem modShowUnit_parse (g : ShowUnit → ShowUnit) : (s.modShowUnit g).parse = s.parse := rfl
@[simp] theorem modShowUnit_classifier (g : ShowUnit → ShowUnit) : (s.modShowUnit g).classifier = s.classifier := rfl
@[simp] theorem modShowUnit_bellRecs (g : ShowUnit → ShowUnit) : (s.modShowUnit g).bellRecs = s.bellRecs := rfl
@[simp] theorem modShowUnit_bells (g : ShowUnit → ShowUnit) : (s.modShowUnit g).bells = s.bells := rfl
@[simp] theorem modShowUnit_launch (g : ShowUnit → ShowUnit) : (s.modShowUnit g).launch = s.launch := rfl
@[simp] theorem modShowUnit_motifDirs (g : ShowUnit → ShowUnit) : (s.modShowUnit g).motifDirs = s.motifDirs := rfl
@[simp] theorem modShowUnit_rows (g : ShowUnit → ShowUnit) : (s.modShowUnit g).rows = s.rows := rfl
@[simp] theorem modShowUnit_runs (g : ShowUnit → ShowUnit) : (s.modShowUnit g).runs = s.runs := rfl
@[simp] theorem modShowUnit_figRecs (g : ShowUnit → ShowUnit) : (s.modShowUnit g).figRecs = s.figRecs := rfl
@[simp] theorem modShowUnit_figs (g : ShowUnit → ShowUnit) : (s.modShowUnit g).figs = s.figs := rfl
@[simp] theorem modShowUnit_zones (g : ShowUnit → ShowUnit) : (s.modShowUnit g).zones = s.zones := rfl
@[simp] theorem modShowUnit_boardRecs (g : ShowUnit → ShowUnit) : (s.modShowUnit g).boardRecs = s.boardRecs := rfl
@[simp] theorem modShowUnit_boards (g : ShowUnit → ShowUnit) : (s.modShowUnit g).boards = s.boards := rfl
@[simp] theorem modShowUnit_boardUnit (g : ShowUnit → ShowUnit) : (s.modShowUnit g).boardUnit = s.boardUnit := rfl
@[simp] theorem modShowUnit_groups (g : ShowUnit → ShowUnit) : (s.modShowUnit g).groups = s.groups := rfl
@[simp] theorem modShowUnit_strikeAccount (g : ShowUnit → ShowUnit) :
    (s.modShowUnit g).strikeAccount = s.strikeAccount := rfl
@[simp] theorem modShowUnit_shows (g : ShowUnit → ShowUnit) : (s.modShowUnit g).shows = s.shows := rfl
@[simp] theorem modShowUnit_moves (g : ShowUnit → ShowUnit) : (s.modShowUnit g).moves = s.moves := rfl
@[simp] theorem modShowUnit_showUnit (g : ShowUnit → ShowUnit) : (s.modShowUnit g).showUnit = g s.showUnit := rfl
@[simp] theorem modShowUnit_calendar (g : ShowUnit → ShowUnit) : (s.modShowUnit g).calendar = s.calendar := rfl
@[simp] theorem modShowUnit_mgmt (g : ShowUnit → ShowUnit) : (s.modShowUnit g).mgmt = s.mgmt := rfl
@[simp] theorem modShowUnit_freeCount (g : ShowUnit → ShowUnit) : (s.modShowUnit g).freeCount = s.freeCount := rfl
@[simp] theorem modShowUnit_pending (g : ShowUnit → ShowUnit) : (s.modShowUnit g).pending = s.pending := rfl

/-! `modCalendar` writes `calendar`. -/

@[simp] theorem modCalendar_clock (g : Calendar → Calendar) : (s.modCalendar g).clock = s.clock := rfl
@[simp] theorem modCalendar_node (g : Calendar → Calendar) : (s.modCalendar g).node = s.node := rfl
@[simp] theorem modCalendar_head (g : Calendar → Calendar) : (s.modCalendar g).head = s.head := rfl
@[simp] theorem modCalendar_tail (g : Calendar → Calendar) : (s.modCalendar g).tail = s.tail := rfl
@[simp] theorem modCalendar_parse (g : Calendar → Calendar) : (s.modCalendar g).parse = s.parse := rfl
@[simp] theorem modCalendar_classifier (g : Calendar → Calendar) : (s.modCalendar g).classifier = s.classifier := rfl
@[simp] theorem modCalendar_bellRecs (g : Calendar → Calendar) : (s.modCalendar g).bellRecs = s.bellRecs := rfl
@[simp] theorem modCalendar_bells (g : Calendar → Calendar) : (s.modCalendar g).bells = s.bells := rfl
@[simp] theorem modCalendar_launch (g : Calendar → Calendar) : (s.modCalendar g).launch = s.launch := rfl
@[simp] theorem modCalendar_motifDirs (g : Calendar → Calendar) : (s.modCalendar g).motifDirs = s.motifDirs := rfl
@[simp] theorem modCalendar_rows (g : Calendar → Calendar) : (s.modCalendar g).rows = s.rows := rfl
@[simp] theorem modCalendar_runs (g : Calendar → Calendar) : (s.modCalendar g).runs = s.runs := rfl
@[simp] theorem modCalendar_figRecs (g : Calendar → Calendar) : (s.modCalendar g).figRecs = s.figRecs := rfl
@[simp] theorem modCalendar_figs (g : Calendar → Calendar) : (s.modCalendar g).figs = s.figs := rfl
@[simp] theorem modCalendar_zones (g : Calendar → Calendar) : (s.modCalendar g).zones = s.zones := rfl
@[simp] theorem modCalendar_boardRecs (g : Calendar → Calendar) : (s.modCalendar g).boardRecs = s.boardRecs := rfl
@[simp] theorem modCalendar_boards (g : Calendar → Calendar) : (s.modCalendar g).boards = s.boards := rfl
@[simp] theorem modCalendar_boardUnit (g : Calendar → Calendar) : (s.modCalendar g).boardUnit = s.boardUnit := rfl
@[simp] theorem modCalendar_groups (g : Calendar → Calendar) : (s.modCalendar g).groups = s.groups := rfl
@[simp] theorem modCalendar_strikeAccount (g : Calendar → Calendar) :
    (s.modCalendar g).strikeAccount = s.strikeAccount := rfl
@[simp] theorem modCalendar_shows (g : Calendar → Calendar) : (s.modCalendar g).shows = s.shows := rfl
@[simp] theorem modCalendar_moves (g : Calendar → Calendar) : (s.modCalendar g).moves = s.moves := rfl
@[simp] theorem modCalendar_showUnit (g : Calendar → Calendar) : (s.modCalendar g).showUnit = s.showUnit := rfl
@[simp] theorem modCalendar_calendar (g : Calendar → Calendar) : (s.modCalendar g).calendar = g s.calendar := rfl
@[simp] theorem modCalendar_mgmt (g : Calendar → Calendar) : (s.modCalendar g).mgmt = s.mgmt := rfl
@[simp] theorem modCalendar_freeCount (g : Calendar → Calendar) : (s.modCalendar g).freeCount = s.freeCount := rfl
@[simp] theorem modCalendar_pending (g : Calendar → Calendar) : (s.modCalendar g).pending = s.pending := rfl

/-! `modMgmt` writes `mgmt`. -/

@[simp] theorem modMgmt_clock (g : Management → Management) : (s.modMgmt g).clock = s.clock := rfl
@[simp] theorem modMgmt_node (g : Management → Management) : (s.modMgmt g).node = s.node := rfl
@[simp] theorem modMgmt_head (g : Management → Management) : (s.modMgmt g).head = s.head := rfl
@[simp] theorem modMgmt_tail (g : Management → Management) : (s.modMgmt g).tail = s.tail := rfl
@[simp] theorem modMgmt_parse (g : Management → Management) : (s.modMgmt g).parse = s.parse := rfl
@[simp] theorem modMgmt_classifier (g : Management → Management) : (s.modMgmt g).classifier = s.classifier := rfl
@[simp] theorem modMgmt_bellRecs (g : Management → Management) : (s.modMgmt g).bellRecs = s.bellRecs := rfl
@[simp] theorem modMgmt_bells (g : Management → Management) : (s.modMgmt g).bells = s.bells := rfl
@[simp] theorem modMgmt_launch (g : Management → Management) : (s.modMgmt g).launch = s.launch := rfl
@[simp] theorem modMgmt_motifDirs (g : Management → Management) : (s.modMgmt g).motifDirs = s.motifDirs := rfl
@[simp] theorem modMgmt_rows (g : Management → Management) : (s.modMgmt g).rows = s.rows := rfl
@[simp] theorem modMgmt_runs (g : Management → Management) : (s.modMgmt g).runs = s.runs := rfl
@[simp] theorem modMgmt_figRecs (g : Management → Management) : (s.modMgmt g).figRecs = s.figRecs := rfl
@[simp] theorem modMgmt_figs (g : Management → Management) : (s.modMgmt g).figs = s.figs := rfl
@[simp] theorem modMgmt_zones (g : Management → Management) : (s.modMgmt g).zones = s.zones := rfl
@[simp] theorem modMgmt_boardRecs (g : Management → Management) : (s.modMgmt g).boardRecs = s.boardRecs := rfl
@[simp] theorem modMgmt_boards (g : Management → Management) : (s.modMgmt g).boards = s.boards := rfl
@[simp] theorem modMgmt_boardUnit (g : Management → Management) : (s.modMgmt g).boardUnit = s.boardUnit := rfl
@[simp] theorem modMgmt_groups (g : Management → Management) : (s.modMgmt g).groups = s.groups := rfl
@[simp] theorem modMgmt_strikeAccount (g : Management → Management) :
    (s.modMgmt g).strikeAccount = s.strikeAccount := rfl
@[simp] theorem modMgmt_shows (g : Management → Management) : (s.modMgmt g).shows = s.shows := rfl
@[simp] theorem modMgmt_moves (g : Management → Management) : (s.modMgmt g).moves = s.moves := rfl
@[simp] theorem modMgmt_showUnit (g : Management → Management) : (s.modMgmt g).showUnit = s.showUnit := rfl
@[simp] theorem modMgmt_calendar (g : Management → Management) : (s.modMgmt g).calendar = s.calendar := rfl
@[simp] theorem modMgmt_mgmt (g : Management → Management) : (s.modMgmt g).mgmt = g s.mgmt := rfl
@[simp] theorem modMgmt_freeCount (g : Management → Management) : (s.modMgmt g).freeCount = s.freeCount := rfl
@[simp] theorem modMgmt_pending (g : Management → Management) : (s.modMgmt g).pending = s.pending := rfl

/-! `drawFree` writes `freeCount`. -/

@[simp] theorem drawFree_clock : (s.drawFree).clock = s.clock := rfl
@[simp] theorem drawFree_node : (s.drawFree).node = s.node := rfl
@[simp] theorem drawFree_head : (s.drawFree).head = s.head := rfl
@[simp] theorem drawFree_tail : (s.drawFree).tail = s.tail := rfl
@[simp] theorem drawFree_parse : (s.drawFree).parse = s.parse := rfl
@[simp] theorem drawFree_classifier : (s.drawFree).classifier = s.classifier := rfl
@[simp] theorem drawFree_bellRecs : (s.drawFree).bellRecs = s.bellRecs := rfl
@[simp] theorem drawFree_bells : (s.drawFree).bells = s.bells := rfl
@[simp] theorem drawFree_launch : (s.drawFree).launch = s.launch := rfl
@[simp] theorem drawFree_motifDirs : (s.drawFree).motifDirs = s.motifDirs := rfl
@[simp] theorem drawFree_rows : (s.drawFree).rows = s.rows := rfl
@[simp] theorem drawFree_runs : (s.drawFree).runs = s.runs := rfl
@[simp] theorem drawFree_figRecs : (s.drawFree).figRecs = s.figRecs := rfl
@[simp] theorem drawFree_figs : (s.drawFree).figs = s.figs := rfl
@[simp] theorem drawFree_zones : (s.drawFree).zones = s.zones := rfl
@[simp] theorem drawFree_boardRecs : (s.drawFree).boardRecs = s.boardRecs := rfl
@[simp] theorem drawFree_boards : (s.drawFree).boards = s.boards := rfl
@[simp] theorem drawFree_boardUnit : (s.drawFree).boardUnit = s.boardUnit := rfl
@[simp] theorem drawFree_groups : (s.drawFree).groups = s.groups := rfl
@[simp] theorem drawFree_strikeAccount : (s.drawFree).strikeAccount = s.strikeAccount := rfl
@[simp] theorem drawFree_shows : (s.drawFree).shows = s.shows := rfl
@[simp] theorem drawFree_moves : (s.drawFree).moves = s.moves := rfl
@[simp] theorem drawFree_showUnit : (s.drawFree).showUnit = s.showUnit := rfl
@[simp] theorem drawFree_calendar : (s.drawFree).calendar = s.calendar := rfl
@[simp] theorem drawFree_mgmt : (s.drawFree).mgmt = s.mgmt := rfl
@[simp] theorem drawFree_freeCount : (s.drawFree).freeCount = s.freeCount + 1 := rfl
@[simp] theorem drawFree_pending : (s.drawFree).pending = s.pending := rfl

/-! `withPending` writes `pending`. -/

@[simp] theorem withPending_clock (q : List Instr) : (s.withPending q).clock = s.clock := rfl
@[simp] theorem withPending_node (q : List Instr) : (s.withPending q).node = s.node := rfl
@[simp] theorem withPending_head (q : List Instr) : (s.withPending q).head = s.head := rfl
@[simp] theorem withPending_tail (q : List Instr) : (s.withPending q).tail = s.tail := rfl
@[simp] theorem withPending_parse (q : List Instr) : (s.withPending q).parse = s.parse := rfl
@[simp] theorem withPending_classifier (q : List Instr) : (s.withPending q).classifier = s.classifier := rfl
@[simp] theorem withPending_bellRecs (q : List Instr) : (s.withPending q).bellRecs = s.bellRecs := rfl
@[simp] theorem withPending_bells (q : List Instr) : (s.withPending q).bells = s.bells := rfl
@[simp] theorem withPending_launch (q : List Instr) : (s.withPending q).launch = s.launch := rfl
@[simp] theorem withPending_motifDirs (q : List Instr) : (s.withPending q).motifDirs = s.motifDirs := rfl
@[simp] theorem withPending_rows (q : List Instr) : (s.withPending q).rows = s.rows := rfl
@[simp] theorem withPending_runs (q : List Instr) : (s.withPending q).runs = s.runs := rfl
@[simp] theorem withPending_figRecs (q : List Instr) : (s.withPending q).figRecs = s.figRecs := rfl
@[simp] theorem withPending_figs (q : List Instr) : (s.withPending q).figs = s.figs := rfl
@[simp] theorem withPending_zones (q : List Instr) : (s.withPending q).zones = s.zones := rfl
@[simp] theorem withPending_boardRecs (q : List Instr) : (s.withPending q).boardRecs = s.boardRecs := rfl
@[simp] theorem withPending_boards (q : List Instr) : (s.withPending q).boards = s.boards := rfl
@[simp] theorem withPending_boardUnit (q : List Instr) : (s.withPending q).boardUnit = s.boardUnit := rfl
@[simp] theorem withPending_groups (q : List Instr) : (s.withPending q).groups = s.groups := rfl
@[simp] theorem withPending_strikeAccount (q : List Instr) : (s.withPending q).strikeAccount = s.strikeAccount := rfl
@[simp] theorem withPending_shows (q : List Instr) : (s.withPending q).shows = s.shows := rfl
@[simp] theorem withPending_moves (q : List Instr) : (s.withPending q).moves = s.moves := rfl
@[simp] theorem withPending_showUnit (q : List Instr) : (s.withPending q).showUnit = s.showUnit := rfl
@[simp] theorem withPending_calendar (q : List Instr) : (s.withPending q).calendar = s.calendar := rfl
@[simp] theorem withPending_mgmt (q : List Instr) : (s.withPending q).mgmt = s.mgmt := rfl
@[simp] theorem withPending_freeCount (q : List Instr) : (s.withPending q).freeCount = s.freeCount := rfl
@[simp] theorem withPending_pending (q : List Instr) : (s.withPending q).pending = q := rfl

/-! `modStrikeCounters` writes `launch`. -/

@[simp] theorem modStrikeCounters_clock (g : StrikeCounters → StrikeCounters) :
    (s.modStrikeCounters g).clock = s.clock := rfl
@[simp] theorem modStrikeCounters_node (g : StrikeCounters → StrikeCounters) :
    (s.modStrikeCounters g).node = s.node := rfl
@[simp] theorem modStrikeCounters_head (g : StrikeCounters → StrikeCounters) :
    (s.modStrikeCounters g).head = s.head := rfl
@[simp] theorem modStrikeCounters_tail (g : StrikeCounters → StrikeCounters) :
    (s.modStrikeCounters g).tail = s.tail := rfl
@[simp] theorem modStrikeCounters_parse (g : StrikeCounters → StrikeCounters) :
    (s.modStrikeCounters g).parse = s.parse := rfl
@[simp] theorem modStrikeCounters_classifier (g : StrikeCounters → StrikeCounters) :
    (s.modStrikeCounters g).classifier = s.classifier := rfl
@[simp] theorem modStrikeCounters_bellRecs (g : StrikeCounters → StrikeCounters) :
    (s.modStrikeCounters g).bellRecs = s.bellRecs := rfl
@[simp] theorem modStrikeCounters_bells (g : StrikeCounters → StrikeCounters) :
    (s.modStrikeCounters g).bells = s.bells := rfl
@[simp] theorem modStrikeCounters_launch (g : StrikeCounters → StrikeCounters) :
    (s.modStrikeCounters g).launch = { s.launch with counters := g s.launch.counters } := rfl
@[simp] theorem modStrikeCounters_motifDirs (g : StrikeCounters → StrikeCounters) :
    (s.modStrikeCounters g).motifDirs = s.motifDirs := rfl
@[simp] theorem modStrikeCounters_rows (g : StrikeCounters → StrikeCounters) :
    (s.modStrikeCounters g).rows = s.rows := rfl
@[simp] theorem modStrikeCounters_runs (g : StrikeCounters → StrikeCounters) :
    (s.modStrikeCounters g).runs = s.runs := rfl
@[simp] theorem modStrikeCounters_figRecs (g : StrikeCounters → StrikeCounters) :
    (s.modStrikeCounters g).figRecs = s.figRecs := rfl
@[simp] theorem modStrikeCounters_figs (g : StrikeCounters → StrikeCounters) :
    (s.modStrikeCounters g).figs = s.figs := rfl
@[simp] theorem modStrikeCounters_zones (g : StrikeCounters → StrikeCounters) :
    (s.modStrikeCounters g).zones = s.zones := rfl
@[simp] theorem modStrikeCounters_boardRecs (g : StrikeCounters → StrikeCounters) :
    (s.modStrikeCounters g).boardRecs = s.boardRecs := rfl
@[simp] theorem modStrikeCounters_boards (g : StrikeCounters → StrikeCounters) :
    (s.modStrikeCounters g).boards = s.boards := rfl
@[simp] theorem modStrikeCounters_boardUnit (g : StrikeCounters → StrikeCounters) :
    (s.modStrikeCounters g).boardUnit = s.boardUnit := rfl
@[simp] theorem modStrikeCounters_groups (g : StrikeCounters → StrikeCounters) :
    (s.modStrikeCounters g).groups = s.groups := rfl
@[simp] theorem modStrikeCounters_strikeAccount (g : StrikeCounters → StrikeCounters) :
    (s.modStrikeCounters g).strikeAccount = s.strikeAccount := rfl
@[simp] theorem modStrikeCounters_shows (g : StrikeCounters → StrikeCounters) :
    (s.modStrikeCounters g).shows = s.shows := rfl
@[simp] theorem modStrikeCounters_moves (g : StrikeCounters → StrikeCounters) :
    (s.modStrikeCounters g).moves = s.moves := rfl
@[simp] theorem modStrikeCounters_showUnit (g : StrikeCounters → StrikeCounters) :
    (s.modStrikeCounters g).showUnit = s.showUnit := rfl
@[simp] theorem modStrikeCounters_calendar (g : StrikeCounters → StrikeCounters) :
    (s.modStrikeCounters g).calendar = s.calendar := rfl
@[simp] theorem modStrikeCounters_mgmt (g : StrikeCounters → StrikeCounters) :
    (s.modStrikeCounters g).mgmt = s.mgmt := rfl
@[simp] theorem modStrikeCounters_freeCount (g : StrikeCounters → StrikeCounters) :
    (s.modStrikeCounters g).freeCount = s.freeCount := rfl
@[simp] theorem modStrikeCounters_pending (g : StrikeCounters → StrikeCounters) :
    (s.modStrikeCounters g).pending = s.pending := rfl

/-! `modShowCounters` writes `showUnit`. -/

@[simp] theorem modShowCounters_clock (g : ShowCounters → ShowCounters) : (s.modShowCounters g).clock = s.clock := rfl
@[simp] theorem modShowCounters_node (g : ShowCounters → ShowCounters) : (s.modShowCounters g).node = s.node := rfl
@[simp] theorem modShowCounters_head (g : ShowCounters → ShowCounters) : (s.modShowCounters g).head = s.head := rfl
@[simp] theorem modShowCounters_tail (g : ShowCounters → ShowCounters) : (s.modShowCounters g).tail = s.tail := rfl
@[simp] theorem modShowCounters_parse (g : ShowCounters → ShowCounters) : (s.modShowCounters g).parse = s.parse := rfl
@[simp] theorem modShowCounters_classifier (g : ShowCounters → ShowCounters) :
    (s.modShowCounters g).classifier = s.classifier := rfl
@[simp] theorem modShowCounters_bellRecs (g : ShowCounters → ShowCounters) :
    (s.modShowCounters g).bellRecs = s.bellRecs := rfl
@[simp] theorem modShowCounters_bells (g : ShowCounters → ShowCounters) : (s.modShowCounters g).bells = s.bells := rfl
@[simp] theorem modShowCounters_launch (g : ShowCounters → ShowCounters) :
    (s.modShowCounters g).launch = s.launch := rfl
@[simp] theorem modShowCounters_motifDirs (g : ShowCounters → ShowCounters) :
    (s.modShowCounters g).motifDirs = s.motifDirs := rfl
@[simp] theorem modShowCounters_rows (g : ShowCounters → ShowCounters) : (s.modShowCounters g).rows = s.rows := rfl
@[simp] theorem modShowCounters_runs (g : ShowCounters → ShowCounters) : (s.modShowCounters g).runs = s.runs := rfl
@[simp] theorem modShowCounters_figRecs (g : ShowCounters → ShowCounters) :
    (s.modShowCounters g).figRecs = s.figRecs := rfl
@[simp] theorem modShowCounters_figs (g : ShowCounters → ShowCounters) : (s.modShowCounters g).figs = s.figs := rfl
@[simp] theorem modShowCounters_zones (g : ShowCounters → ShowCounters) : (s.modShowCounters g).zones = s.zones := rfl
@[simp] theorem modShowCounters_boardRecs (g : ShowCounters → ShowCounters) :
    (s.modShowCounters g).boardRecs = s.boardRecs := rfl
@[simp] theorem modShowCounters_boards (g : ShowCounters → ShowCounters) :
    (s.modShowCounters g).boards = s.boards := rfl
@[simp] theorem modShowCounters_boardUnit (g : ShowCounters → ShowCounters) :
    (s.modShowCounters g).boardUnit = s.boardUnit := rfl
@[simp] theorem modShowCounters_groups (g : ShowCounters → ShowCounters) :
    (s.modShowCounters g).groups = s.groups := rfl
@[simp] theorem modShowCounters_strikeAccount (g : ShowCounters → ShowCounters) :
    (s.modShowCounters g).strikeAccount = s.strikeAccount := rfl
@[simp] theorem modShowCounters_shows (g : ShowCounters → ShowCounters) : (s.modShowCounters g).shows = s.shows := rfl
@[simp] theorem modShowCounters_moves (g : ShowCounters → ShowCounters) : (s.modShowCounters g).moves = s.moves := rfl
@[simp] theorem modShowCounters_showUnit (g : ShowCounters → ShowCounters) :
    (s.modShowCounters g).showUnit = { s.showUnit with counters := g s.showUnit.counters } := rfl
@[simp] theorem modShowCounters_calendar (g : ShowCounters → ShowCounters) :
    (s.modShowCounters g).calendar = s.calendar := rfl
@[simp] theorem modShowCounters_mgmt (g : ShowCounters → ShowCounters) : (s.modShowCounters g).mgmt = s.mgmt := rfl
@[simp] theorem modShowCounters_freeCount (g : ShowCounters → ShowCounters) :
    (s.modShowCounters g).freeCount = s.freeCount := rfl
@[simp] theorem modShowCounters_pending (g : ShowCounters → ShowCounters) :
    (s.modShowCounters g).pending = s.pending := rfl

/-! `modCalendarCounters` writes `calendar`. -/

@[simp] theorem modCalendarCounters_clock (g : CalendarCounters → CalendarCounters) :
    (s.modCalendarCounters g).clock = s.clock := rfl
@[simp] theorem modCalendarCounters_node (g : CalendarCounters → CalendarCounters) :
    (s.modCalendarCounters g).node = s.node := rfl
@[simp] theorem modCalendarCounters_head (g : CalendarCounters → CalendarCounters) :
    (s.modCalendarCounters g).head = s.head := rfl
@[simp] theorem modCalendarCounters_tail (g : CalendarCounters → CalendarCounters) :
    (s.modCalendarCounters g).tail = s.tail := rfl
@[simp] theorem modCalendarCounters_parse (g : CalendarCounters → CalendarCounters) :
    (s.modCalendarCounters g).parse = s.parse := rfl
@[simp] theorem modCalendarCounters_classifier (g : CalendarCounters → CalendarCounters) :
    (s.modCalendarCounters g).classifier = s.classifier := rfl
@[simp] theorem modCalendarCounters_bellRecs (g : CalendarCounters → CalendarCounters) :
    (s.modCalendarCounters g).bellRecs = s.bellRecs := rfl
@[simp] theorem modCalendarCounters_bells (g : CalendarCounters → CalendarCounters) :
    (s.modCalendarCounters g).bells = s.bells := rfl
@[simp] theorem modCalendarCounters_launch (g : CalendarCounters → CalendarCounters) :
    (s.modCalendarCounters g).launch = s.launch := rfl
@[simp] theorem modCalendarCounters_motifDirs (g : CalendarCounters → CalendarCounters) :
    (s.modCalendarCounters g).motifDirs = s.motifDirs := rfl
@[simp] theorem modCalendarCounters_rows (g : CalendarCounters → CalendarCounters) :
    (s.modCalendarCounters g).rows = s.rows := rfl
@[simp] theorem modCalendarCounters_runs (g : CalendarCounters → CalendarCounters) :
    (s.modCalendarCounters g).runs = s.runs := rfl
@[simp] theorem modCalendarCounters_figRecs (g : CalendarCounters → CalendarCounters) :
    (s.modCalendarCounters g).figRecs = s.figRecs := rfl
@[simp] theorem modCalendarCounters_figs (g : CalendarCounters → CalendarCounters) :
    (s.modCalendarCounters g).figs = s.figs := rfl
@[simp] theorem modCalendarCounters_zones (g : CalendarCounters → CalendarCounters) :
    (s.modCalendarCounters g).zones = s.zones := rfl
@[simp] theorem modCalendarCounters_boardRecs (g : CalendarCounters → CalendarCounters) :
    (s.modCalendarCounters g).boardRecs = s.boardRecs := rfl
@[simp] theorem modCalendarCounters_boards (g : CalendarCounters → CalendarCounters) :
    (s.modCalendarCounters g).boards = s.boards := rfl
@[simp] theorem modCalendarCounters_boardUnit (g : CalendarCounters → CalendarCounters) :
    (s.modCalendarCounters g).boardUnit = s.boardUnit := rfl
@[simp] theorem modCalendarCounters_groups (g : CalendarCounters → CalendarCounters) :
    (s.modCalendarCounters g).groups = s.groups := rfl
@[simp] theorem modCalendarCounters_strikeAccount (g : CalendarCounters → CalendarCounters) :
    (s.modCalendarCounters g).strikeAccount = s.strikeAccount := rfl
@[simp] theorem modCalendarCounters_shows (g : CalendarCounters → CalendarCounters) :
    (s.modCalendarCounters g).shows = s.shows := rfl
@[simp] theorem modCalendarCounters_moves (g : CalendarCounters → CalendarCounters) :
    (s.modCalendarCounters g).moves = s.moves := rfl
@[simp] theorem modCalendarCounters_showUnit (g : CalendarCounters → CalendarCounters) :
    (s.modCalendarCounters g).showUnit = s.showUnit := rfl
@[simp] theorem modCalendarCounters_calendar (g : CalendarCounters → CalendarCounters) :
    (s.modCalendarCounters g).calendar = { s.calendar with counters := g s.calendar.counters } := rfl
@[simp] theorem modCalendarCounters_mgmt (g : CalendarCounters → CalendarCounters) :
    (s.modCalendarCounters g).mgmt = s.mgmt := rfl
@[simp] theorem modCalendarCounters_freeCount (g : CalendarCounters → CalendarCounters) :
    (s.modCalendarCounters g).freeCount = s.freeCount := rfl
@[simp] theorem modCalendarCounters_pending (g : CalendarCounters → CalendarCounters) :
    (s.modCalendarCounters g).pending = s.pending := rfl

/-! `raise` writes `mgmt`. -/

@[simp] theorem raise_clock (k : EventKind) (x y : Int) : (s.raise k x y).clock = s.clock := rfl
@[simp] theorem raise_node (k : EventKind) (x y : Int) : (s.raise k x y).node = s.node := rfl
@[simp] theorem raise_head (k : EventKind) (x y : Int) : (s.raise k x y).head = s.head := rfl
@[simp] theorem raise_tail (k : EventKind) (x y : Int) : (s.raise k x y).tail = s.tail := rfl
@[simp] theorem raise_parse (k : EventKind) (x y : Int) : (s.raise k x y).parse = s.parse := rfl
@[simp] theorem raise_classifier (k : EventKind) (x y : Int) : (s.raise k x y).classifier = s.classifier := rfl
@[simp] theorem raise_bellRecs (k : EventKind) (x y : Int) : (s.raise k x y).bellRecs = s.bellRecs := rfl
@[simp] theorem raise_bells (k : EventKind) (x y : Int) : (s.raise k x y).bells = s.bells := rfl
@[simp] theorem raise_launch (k : EventKind) (x y : Int) : (s.raise k x y).launch = s.launch := rfl
@[simp] theorem raise_motifDirs (k : EventKind) (x y : Int) : (s.raise k x y).motifDirs = s.motifDirs := rfl
@[simp] theorem raise_rows (k : EventKind) (x y : Int) : (s.raise k x y).rows = s.rows := rfl
@[simp] theorem raise_runs (k : EventKind) (x y : Int) : (s.raise k x y).runs = s.runs := rfl
@[simp] theorem raise_figRecs (k : EventKind) (x y : Int) : (s.raise k x y).figRecs = s.figRecs := rfl
@[simp] theorem raise_figs (k : EventKind) (x y : Int) : (s.raise k x y).figs = s.figs := rfl
@[simp] theorem raise_zones (k : EventKind) (x y : Int) : (s.raise k x y).zones = s.zones := rfl
@[simp] theorem raise_boardRecs (k : EventKind) (x y : Int) : (s.raise k x y).boardRecs = s.boardRecs := rfl
@[simp] theorem raise_boards (k : EventKind) (x y : Int) : (s.raise k x y).boards = s.boards := rfl
@[simp] theorem raise_boardUnit (k : EventKind) (x y : Int) : (s.raise k x y).boardUnit = s.boardUnit := rfl
@[simp] theorem raise_groups (k : EventKind) (x y : Int) : (s.raise k x y).groups = s.groups := rfl
@[simp] theorem raise_strikeAccount (k : EventKind) (x y : Int) : (s.raise k x y).strikeAccount = s.strikeAccount := rfl
@[simp] theorem raise_shows (k : EventKind) (x y : Int) : (s.raise k x y).shows = s.shows := rfl
@[simp] theorem raise_moves (k : EventKind) (x y : Int) : (s.raise k x y).moves = s.moves := rfl
@[simp] theorem raise_showUnit (k : EventKind) (x y : Int) : (s.raise k x y).showUnit = s.showUnit := rfl
@[simp] theorem raise_calendar (k : EventKind) (x y : Int) : (s.raise k x y).calendar = s.calendar := rfl
@[simp] theorem raise_mgmt (k : EventKind) (x y : Int) :
    (s.raise k x y).mgmt = s.mgmt.offer { kind := k, time := low32 s.now, arg1 := x, arg2 := y } := rfl
@[simp] theorem raise_freeCount (k : EventKind) (x y : Int) : (s.raise k x y).freeCount = s.freeCount := rfl
@[simp] theorem raise_pending (k : EventKind) (x y : Int) : (s.raise k x y).pending = s.pending := rfl

/-! `modPortCounters` writes the counters of one port. -/

@[simp] theorem modPortCounters_clock (p : Port) (g : PortCounters → PortCounters) :
    (s.modPortCounters p g).clock = s.clock := by cases p <;> rfl
@[simp] theorem modPortCounters_node (p : Port) (g : PortCounters → PortCounters) :
    (s.modPortCounters p g).node = s.node := by cases p <;> rfl
@[simp] theorem modPortCounters_head (g : PortCounters → PortCounters) :
    (s.modPortCounters .head g).head = { s.head with counters := g s.head.counters } := rfl
@[simp] theorem modPortCounters_head_other (g : PortCounters → PortCounters) :
    (s.modPortCounters .tail g).head = s.head := rfl
@[simp] theorem modPortCounters_tail (g : PortCounters → PortCounters) :
    (s.modPortCounters .tail g).tail = { s.tail with counters := g s.tail.counters } := rfl
@[simp] theorem modPortCounters_tail_other (g : PortCounters → PortCounters) :
    (s.modPortCounters .head g).tail = s.tail := rfl
@[simp] theorem modPortCounters_parse (p : Port) (g : PortCounters → PortCounters) :
    (s.modPortCounters p g).parse = s.parse := by cases p <;> rfl
@[simp] theorem modPortCounters_classifier (p : Port) (g : PortCounters → PortCounters) :
    (s.modPortCounters p g).classifier = s.classifier := by cases p <;> rfl
@[simp] theorem modPortCounters_bellRecs (p : Port) (g : PortCounters → PortCounters) :
    (s.modPortCounters p g).bellRecs = s.bellRecs := by cases p <;> rfl
@[simp] theorem modPortCounters_bells (p : Port) (g : PortCounters → PortCounters) :
    (s.modPortCounters p g).bells = s.bells := by cases p <;> rfl
@[simp] theorem modPortCounters_launch (p : Port) (g : PortCounters → PortCounters) :
    (s.modPortCounters p g).launch = s.launch := by cases p <;> rfl
@[simp] theorem modPortCounters_motifDirs (p : Port) (g : PortCounters → PortCounters) :
    (s.modPortCounters p g).motifDirs = s.motifDirs := by cases p <;> rfl
@[simp] theorem modPortCounters_rows (p : Port) (g : PortCounters → PortCounters) :
    (s.modPortCounters p g).rows = s.rows := by cases p <;> rfl
@[simp] theorem modPortCounters_runs (p : Port) (g : PortCounters → PortCounters) :
    (s.modPortCounters p g).runs = s.runs := by cases p <;> rfl
@[simp] theorem modPortCounters_figRecs (p : Port) (g : PortCounters → PortCounters) :
    (s.modPortCounters p g).figRecs = s.figRecs := by cases p <;> rfl
@[simp] theorem modPortCounters_figs (p : Port) (g : PortCounters → PortCounters) :
    (s.modPortCounters p g).figs = s.figs := by cases p <;> rfl
@[simp] theorem modPortCounters_zones (p : Port) (g : PortCounters → PortCounters) :
    (s.modPortCounters p g).zones = s.zones := by cases p <;> rfl
@[simp] theorem modPortCounters_boardRecs (p : Port) (g : PortCounters → PortCounters) :
    (s.modPortCounters p g).boardRecs = s.boardRecs := by cases p <;> rfl
@[simp] theorem modPortCounters_boards (p : Port) (g : PortCounters → PortCounters) :
    (s.modPortCounters p g).boards = s.boards := by cases p <;> rfl
@[simp] theorem modPortCounters_boardUnit (p : Port) (g : PortCounters → PortCounters) :
    (s.modPortCounters p g).boardUnit = s.boardUnit := by cases p <;> rfl
@[simp] theorem modPortCounters_groups (p : Port) (g : PortCounters → PortCounters) :
    (s.modPortCounters p g).groups = s.groups := by cases p <;> rfl
@[simp] theorem modPortCounters_strikeAccount (p : Port) (g : PortCounters → PortCounters) :
    (s.modPortCounters p g).strikeAccount = s.strikeAccount := by cases p <;> rfl
@[simp] theorem modPortCounters_shows (p : Port) (g : PortCounters → PortCounters) :
    (s.modPortCounters p g).shows = s.shows := by cases p <;> rfl
@[simp] theorem modPortCounters_moves (p : Port) (g : PortCounters → PortCounters) :
    (s.modPortCounters p g).moves = s.moves := by cases p <;> rfl
@[simp] theorem modPortCounters_showUnit (p : Port) (g : PortCounters → PortCounters) :
    (s.modPortCounters p g).showUnit = s.showUnit := by cases p <;> rfl
@[simp] theorem modPortCounters_calendar (p : Port) (g : PortCounters → PortCounters) :
    (s.modPortCounters p g).calendar = s.calendar := by cases p <;> rfl
@[simp] theorem modPortCounters_mgmt (p : Port) (g : PortCounters → PortCounters) :
    (s.modPortCounters p g).mgmt = s.mgmt := by cases p <;> rfl
@[simp] theorem modPortCounters_freeCount (p : Port) (g : PortCounters → PortCounters) :
    (s.modPortCounters p g).freeCount = s.freeCount := by cases p <;> rfl
@[simp] theorem modPortCounters_pending (p : Port) (g : PortCounters → PortCounters) :
    (s.modPortCounters p g).pending = s.pending := by cases p <;> rfl

end Sys2Proof.Machine.State
end

