-- ==== Sys2Proof/Laws/Keeps.lean ====
section
/-! SUPPORT. What a change of the state can do, said once: `Keeps s t` says that going from `s` to `t` keeps every
invariant of Safety.lean that has nothing to do with the clock, and `Made s t` says besides that no table, no setting, no
schedule bank and no part of the clock has changed. Each edit of the state has one lemma here; each operation has one in the files
that follow. -/

namespace Sys2Proof.Machine

/-- The launch queue's balance with `n` more entries to account for (R76). -/
def State.owes (s : State) (n : Nat) : Prop :=
  s.launch.counters.accepted < 4294967295 →
    s.launch.counters.accepted = s.launch.counters.emitted + s.launch.counters.gated + s.launch.counters.skipped +
      s.launch.counters.purged + s.held + n

/-- Going from `s` to `t` keeps the queue of commands and the invariants. -/
structure Keeps (s t : State) : Prop where
  pending : t.pending = s.pending
  capacity : s.withinCapacity → t.withinCapacity
  fireOrder : s.inFireOrder → t.inFireOrder
  supply : s.withinSupply → t.withinSupply
  paths : s.pathsHeld → t.pathsHeld
  balance : s.balanced → t.balanced

/-- Going from `s` to `t` keeps the invariants, the tables, the settings, the clock and the schedule banks. -/
structure Made (s t : State) : Prop where
  keeps : Keeps s t
  written : t.written = s.written
  clock : t.clock = s.clock
  banks : t.banks = s.banks

/-- What a change of the schedule banks may do: everything `Made` speaks of but the banks. -/
structure Banked (s t : State) : Prop where
  keeps : Keeps s t
  written : t.written = s.written
  clock : t.clock = s.clock

/-- M_g depends on the figures alone. -/
theorem State.motorSum_congr {s t : State} (figs : t.figs = s.figs) (g : Fin 4) : t.motorSum g = s.motorSum g := by
  have e : t.motorShare g = s.motorShare g := by funext f; unfold State.motorShare; rw [figs]
  unfold State.motorSum; rw [e]

/-- The number held depends on the launch queue alone. -/
theorem State.held_congr {s t : State} (launch : t.launch = s.launch) : t.held = s.held := by
  unfold State.held; rw [launch]

/-- The balance depends on the launch queue alone. -/
theorem State.balanced_congr {s t : State} (launch : t.launch = s.launch) (h : s.balanced) : t.balanced := by
  unfold State.balanced; rw [launch, State.held_congr launch]; exact h

/-- The capacities depend on the queues alone. -/
theorem State.withinCapacity_congr {s t : State} (head : t.head = s.head) (tail : t.tail = s.tail)
    (launch : t.launch = s.launch) (shows : t.showUnit.queue = s.showUnit.queue) (mgmt : t.mgmt = s.mgmt)
    (h : s.withinCapacity) : t.withinCapacity := by
  unfold State.withinCapacity; rw [head, tail, mgmt, shows, State.held_congr launch]; exact h

/-- The supply rule depends on the figures, the groups and the strike admissions alone. -/
theorem State.withinSupply_congr {s t : State} (figs : t.figs = s.figs) (groups : t.groups = s.groups)
    (account : t.strikeAccount = s.strikeAccount) (h : s.withinSupply) : t.withinSupply := by
  intro g
  have e : t.strikeSum g = s.strikeSum g := by unfold State.strikeSum; rw [account]
  rw [e, State.motorSum_congr figs g, groups]
  exact h g

namespace Keeps

theorem refl (s : State) : Keeps s s := ⟨rfl, id, id, id, id, id⟩

theorem trans {s t u : State} (h : Keeps s t) (k : Keeps t u) : Keeps s u :=
  ⟨k.pending.trans h.pending, k.capacity ∘ h.capacity, k.fireOrder ∘ h.fireOrder, k.supply ∘ h.supply,
    k.paths ∘ h.paths, k.balance ∘ h.balance⟩

/-- A change of none of the parts that the invariants speak of. -/
theorem of_parts {s t : State} (pending : t.pending = s.pending) (head : t.head = s.head) (tail : t.tail = s.tail)
    (launch : t.launch = s.launch) (figs : t.figs = s.figs) (zones : t.zones = s.zones) (groups : t.groups = s.groups)
    (account : t.strikeAccount = s.strikeAccount) (shows : t.showUnit.queue = s.showUnit.queue)
    (mgmt : t.mgmt = s.mgmt) : Keeps s t := by
  refine ⟨pending, ?_, ?_, ?_, ?_, ?_⟩
  · exact State.withinCapacity_congr head tail launch shows mgmt
  · unfold State.inFireOrder; rw [launch]; exact id
  · exact State.withinSupply_congr figs groups account
  · intro k f; rw [figs, zones]; exact k f
  · exact State.balanced_congr launch

end Keeps

namespace Made

@[simp] theorem refl (s : State) : Made s s := ⟨.refl s, rfl, rfl, rfl⟩

theorem trans {s t u : State} (h : Made s t) (k : Made t u) : Made s u :=
  ⟨h.keeps.trans k.keeps, k.written.trans h.written, k.clock.trans h.clock, k.banks.trans h.banks⟩

/-- Both branches of a choice. -/
theorem ite {s t u : State} {c : Prop} [Decidable c] (h : Made s t) (k : Made s u) : Made s (if c then t else u) := by
  split
  · exact h
  · exact k

/-- A fold of changes. -/
theorem foldl {α : Type} {s t : State} {g : State → α → State} (step : ∀ u x, Made u (g u x)) (l : List α)
    (h : Made s t) : Made s (l.foldl g t) := by
  induction l generalizing t with
  | nil => exact h
  | cons x xs ih => exact ih (h.trans (step t x))

/-- A change of none of the parts that the invariants, the tables and the clock speak of. -/
theorem of_parts {s t : State} (clock : t.clock = s.clock) (written : t.written = s.written)
    (pending : t.pending = s.pending) (head : t.head = s.head) (tail : t.tail = s.tail)
    (launch : t.launch = s.launch) (figs : t.figs = s.figs) (zones : t.zones = s.zones) (groups : t.groups = s.groups)
    (account : t.strikeAccount = s.strikeAccount) (shows : t.showUnit.queue = s.showUnit.queue)
    (mgmt : t.mgmt = s.mgmt) (banks : t.banks = s.banks) : Made s t :=
  ⟨.of_parts pending head tail launch figs zones groups account shows mgmt, written, clock, banks⟩

/-- What `Made` says but for the banks. -/
theorem banked {s t : State} (h : Made s t) : Banked s t := ⟨h.keeps, h.written, h.clock⟩

end Made

theorem Banked.trans {s t u : State} (h : Banked s t) (k : Banked t u) : Banked s u :=
  ⟨h.keeps.trans k.keeps, k.written.trans h.written, k.clock.trans h.clock⟩

/-! Edits of parts that no invariant speaks of. -/

variable {s t : State}

@[simp] theorem made_modClassifier (g : ClassifierCounters → ClassifierCounters) (h : Made s t) :
    Made s (t.modClassifier g) := h.trans (.of_parts rfl rfl rfl rfl rfl rfl rfl rfl rfl rfl rfl rfl rfl)
@[simp] theorem made_setBell (i : Fin 48) (x : BellState) (h : Made s t) : Made s (t.setBell i x) :=
  h.trans (.of_parts rfl rfl rfl rfl rfl rfl rfl rfl rfl rfl rfl rfl rfl)
@[simp] theorem made_setBells (x : Vector BellState 48) (h : Made s t) : Made s (t.setBells x) :=
  h.trans (.of_parts rfl rfl rfl rfl rfl rfl rfl rfl rfl rfl rfl rfl rfl)
@[simp] theorem made_modRuns (g : Run → Run) (h : Made s t) : Made s (t.modRuns g) :=
  h.trans (.of_parts rfl rfl rfl rfl rfl rfl rfl rfl rfl rfl rfl rfl rfl)
@[simp] theorem made_setRun (i : Fin 4) (x : Run) (h : Made s t) : Made s (t.setRun i x) :=
  h.trans (.of_parts rfl rfl rfl rfl rfl rfl rfl rfl rfl rfl rfl rfl rfl)
@[simp] theorem made_modRun (i : Fin 4) (g : Run → Run) (h : Made s t) : Made s (t.modRun i g) :=
  h.trans (.of_parts rfl rfl rfl rfl rfl rfl rfl rfl rfl rfl rfl rfl rfl)
@[simp] theorem made_modBoards (g : BoardState → BoardState) (h : Made s t) : Made s (t.modBoards g) :=
  h.trans (.of_parts rfl rfl rfl rfl rfl rfl rfl rfl rfl rfl rfl rfl rfl)
@[simp] theorem made_setBoard (i : Fin 32) (x : BoardState) (h : Made s t) : Made s (t.setBoard i x) :=
  h.trans (.of_parts rfl rfl rfl rfl rfl rfl rfl rfl rfl rfl rfl rfl rfl)
@[simp] theorem made_modBoard (i : Fin 32) (g : BoardState → BoardState) (h : Made s t) : Made s (t.modBoard i g) :=
  h.trans (.of_parts rfl rfl rfl rfl rfl rfl rfl rfl rfl rfl rfl rfl rfl)
@[simp] theorem made_modBoardUnit (g : BoardUnit → BoardUnit) (h : Made s t) : Made s (t.modBoardUnit g) :=
  h.trans (.of_parts rfl rfl rfl rfl rfl rfl rfl rfl rfl rfl rfl rfl rfl)
@[simp] theorem made_drawFree (h : Made s t) : Made s t.drawFree :=
  h.trans (.of_parts rfl rfl rfl rfl rfl rfl rfl rfl rfl rfl rfl rfl rfl)

/-- An edit of the calendar that leaves the vector table. -/
theorem banked_modCalendar (g : Calendar → Calendar) (v : (g t.calendar).vectors = t.calendar.vectors)
    (h : Banked s t) : Banked s (t.modCalendar g) := by
  refine h.trans ⟨.of_parts rfl rfl rfl rfl rfl rfl rfl rfl rfl rfl, ?_, rfl⟩
  simp only [State.written, State.modCalendar, v]

/-- An edit of the calendar that leaves the vector table and the banks. -/
@[simp] theorem made_modCalendar (g : Calendar → Calendar) (v : (g t.calendar).vectors = t.calendar.vectors)
    (b : (t.modCalendar g).banks = t.banks) (h : Made s t) : Made s (t.modCalendar g) := by
  refine h.trans (.of_parts rfl ?_ rfl rfl rfl rfl rfl rfl rfl rfl rfl rfl b)
  simp only [State.written, State.modCalendar, v]

@[simp] theorem made_modCalendarCounters (g : CalendarCounters → CalendarCounters) (h : Made s t) :
    Made s (t.modCalendarCounters g) := made_modCalendar _ rfl rfl h

/-- An edit of the show unit that leaves the queue no longer than it was. -/
theorem made_modShowUnit_of_le (g : ShowUnit → ShowUnit)
    (k : (g t.showUnit).queue.length ≤ 8 ∨ (g t.showUnit).queue.length ≤ t.showUnit.queue.length) (h : Made s t) :
    Made s (t.modShowUnit g) := by
  refine h.trans ⟨⟨rfl, ?_, id, id, id, id⟩, rfl, rfl, rfl⟩
  simp only [State.withinCapacity, State.modShowUnit, State.held]
  omega

@[simp] theorem made_modShowCounters (g : ShowCounters → ShowCounters) (h : Made s t) : Made s (t.modShowCounters g) :=
  made_modShowUnit_of_le _ (.inr (Nat.le_refl _)) h

/-! Events. -/

theorem Management.offer_engine (m : Management) (e : EventRecord) : (m.offer e).engine = m.engine := by
  unfold Management.offer; split
  · rfl
  · split <;> rfl

theorem Management.offer_settings (m : Management) (e : EventRecord) : (m.offer e).settings = m.settings := by
  unfold Management.offer; split
  · rfl
  · split <;> rfl

theorem Management.offer_mask (m : Management) (e : EventRecord) : (m.offer e).mask = m.mask := by
  unfold Management.offer; split
  · rfl
  · split <;> rfl

theorem Management.offer_capacity (m : Management) (e : EventRecord) :
    (m.events.length ≤ 32 → (m.offer e).events.length ≤ 32) ∧ (m.lost ≤ 255 → (m.offer e).lost ≤ 255) := by
  unfold Management.offer
  split
  · exact ⟨id, id⟩
  · split
    · exact ⟨id, fun _ => Nat.min_le_right _ _⟩
    · simp only [List.length_append, List.length_cons, List.length_nil]
      omega

/-- Raising an event changes the event queue and the lost count alone. -/
@[simp] theorem made_raise (k : EventKind) (a b : Int) (h : Made s t) : Made s (t.raise k a b) := by
  refine h.trans ⟨⟨rfl, ?_, id, id, id, id⟩, ?_, rfl, rfl⟩
  · have c := Management.offer_capacity t.mgmt { kind := k, time := low32 t.now, arg1 := a, arg2 := b }
    simp only [State.withinCapacity, State.raise, State.modMgmt, State.held]
    omega
  · simp only [State.written, State.raise, State.modMgmt, Management.offer_settings]

/-! Ports. -/

/-- An edit of the head port that fits its queues. -/
theorem made_modHead (g : HeadPort → HeadPort)
    (p : (g t.head).passQueue.length ≤ 8 ∨ (g t.head).passQueue.length ≤ t.head.passQueue.length)
    (r : (g t.head).reportQueue.length ≤ 8 ∨ (g t.head).reportQueue.length ≤ t.head.reportQueue.length)
    (h : Made s t) : Made s (t.modHead g) := by
  refine h.trans ⟨⟨rfl, ?_, id, id, id, id⟩, rfl, rfl, rfl⟩
  simp only [State.withinCapacity, State.modHead, State.held]
  omega

/-- An edit of the tail port that fits its queues. -/
theorem made_modTail (g : TailPort → TailPort)
    (a : (g t.tail).strikeQueue.length ≤ 8 ∨ (g t.tail).strikeQueue.length ≤ t.tail.strikeQueue.length)
    (c : (g t.tail).commandQueue.length ≤ 16 ∨ (g t.tail).commandQueue.length ≤ t.tail.commandQueue.length)
    (p : (g t.tail).passQueue.length ≤ 8 ∨ (g t.tail).passQueue.length ≤ t.tail.passQueue.length)
    (h : Made s t) : Made s (t.modTail g) := by
  refine h.trans ⟨⟨rfl, ?_, id, id, id, id⟩, rfl, rfl, rfl⟩
  simp only [State.withinCapacity, State.modTail, State.held]
  omega

@[simp] theorem made_modPortCounters (p : Port) (g : PortCounters → PortCounters) (h : Made s t) :
    Made s (t.modPortCounters p g) := by
  cases p
  · exact made_modHead (fun x => { x with counters := g x.counters }) (.inr (Nat.le_refl _)) (.inr (Nat.le_refl _)) h
  · exact made_modTail (fun x => { x with counters := g x.counters }) (.inr (Nat.le_refl _)) (.inr (Nat.le_refl _))
      (.inr (Nat.le_refl _)) h

/-! Supply. -/

theorem sum_map_le {α : Type} (l : List α) (f g : α → Nat) (h : ∀ x, f x ≤ g x) : (l.map f).sum ≤ (l.map g).sum := by
  induction l with
  | nil => exact Nat.le_refl _
  | cons x xs ih => simp only [List.map_cons, List.sum_cons]; have := h x; omega

/-- A sum of which one term alone may have grown, at most to `n`. -/
theorem sum_map_one_le {α : Type} (l : List α) (f g : α → Nat) (a : α) (n : Nat) (nd : l.Nodup)
    (other : ∀ x, x ≠ a → f x ≤ g x) (one : f a ≤ n) : (l.map f).sum ≤ (l.map g).sum + n := by
  induction l with
  | nil => exact Nat.zero_le _
  | cons x xs ih =>
    simp only [List.map_cons, List.sum_cons]
    have rest := ih (List.nodup_cons.1 nd).2
    clear ih
    by_cases e : x = a
    · subst e
      have : (xs.map f).sum ≤ (xs.map g).sum := by
        have nm := (List.nodup_cons.1 nd).1
        clear rest nd one
        induction xs with
        | nil => exact Nat.le_refl _
        | cons y ys ih =>
          simp only [List.mem_cons, not_or] at nm
          simp only [List.map_cons, List.sum_cons]
          have := other y (Ne.symm nm.1)
          have := ih nm.2
          omega
      omega
    · have := other x e
      omega

theorem indices_nodup (n : Nat) : (indices n).Nodup := List.nodup_finRange n

theorem mem_indices {n : Nat} (i : Fin n) : i ∈ indices n := List.mem_finRange i

theorem sum_sublist_le {l m : List Nat} (h : l.Sublist m) : l.sum ≤ m.sum := by
  induction h with
  | slnil => exact Nat.le_refl _
  | cons x _ ih => simp only [List.sum_cons]; omega
  | cons_cons x _ ih => simp only [List.sum_cons]; omega

/-- Fewer strike admissions. -/
theorem made_setStrikeAccount (x : List StrikeAdmission) (sub : x.Sublist t.strikeAccount) (h : Made s t) :
    Made s (t.setStrikeAccount x) := by
  refine h.trans ⟨⟨rfl, id, id, ?_, id, id⟩, rfl, rfl, rfl⟩
  intro k g
  have le : (t.setStrikeAccount x).strikeSum g ≤ t.strikeSum g := by
    have sub' := ((sub.filter (fun a => decide (a.group = g))).map (fun a => a.current))
    exact sum_sublist_le sub'
  have := k g
  have e : (t.setStrikeAccount x).motorSum g = t.motorSum g := rfl
  have e' : (t.setStrikeAccount x).groups = t.groups := rfl
  rw [e, e']
  omega

/-! Figures. -/

/-- A figure's new record is harmless: it admits nothing new, and it is under way only if it was, with the same
needed zones. -/
def FigOk (x y : Figure) : Prop :=
  (y.admitted = x.admitted ∨ y.admitted = none) ∧
    (y.state.holdsPath = true → x.state.holdsPath = true ∧ y.needed = x.needed)

theorem State.setFig_get (u : State) (f g : Fin 16) (x : Figure) :
    (u.setFig f x).figs[g] = if g = f then x else u.figs[g] := by
  simp only [State.setFig, Fin.getElem_fin, Vector.getElem_set, Fin.ext_iff]
  split <;> split <;> first | rfl | omega

theorem State.modFig_get (u : State) (f g : Fin 16) (k : Figure → Figure) :
    (u.modFig f k).figs[g] = if g = f then k u.figs[f] else u.figs[g] := u.setFig_get f g _

theorem motorShare_le (u v : State) (g : Fin 4) (f : Fin 16)
    (adm : v.figs[f].admitted = u.figs[f].admitted ∨ v.figs[f].admitted = none) :
    v.motorShare g f ≤ u.motorShare g f := by
  unfold State.motorShare
  rcases adm with e | e
  · exact Nat.le_of_eq (by rw [e])
  · rw [e]; exact Nat.zero_le _

/-- Harmless changes of figures. -/
theorem made_figs (u v : State) (h : Made s u) (ok : ∀ f : Fin 16, FigOk u.figs[f] v.figs[f])
    (eq : v = { u with figs := v.figs }) : Made s v := by
  refine h.trans ⟨⟨by rw [eq], ?_, ?_, ?_, ?_, ?_⟩, by rw [eq]; rfl, by rw [eq], by rw [eq]; rfl⟩
  · rw [eq]; exact id
  · rw [eq]; exact id
  · intro k g
    have le : v.motorSum g ≤ u.motorSum g := sum_map_le _ _ _ (fun f => motorShare_le u v g f (ok f).1)
    have e1 : v.strikeSum g = u.strikeSum g := by rw [eq]; rfl
    have e2 : v.groups = u.groups := by rw [eq]
    have := k g
    rw [e1, e2]
    omega
  · intro k f up z m
    obtain ⟨w, n⟩ := (ok f).2 up
    have e : v.zones = u.zones := by rw [eq]
    rw [e]
    exact k f w z (n ▸ m)
  · rw [eq]; exact id

theorem FigOk.refl (x : Figure) : FigOk x x := ⟨.inl rfl, fun h => ⟨h, rfl⟩⟩

theorem made_setFig (f : Fin 16) (x : Figure) (ok : FigOk t.figs[f] x) (h : Made s t) : Made s (t.setFig f x) := by
  refine made_figs t _ h (fun g => ?_) rfl
  rw [State.setFig_get]
  split
  · rename_i e; rw [e]; exact ok
  · exact .refl _

theorem made_modFig (f : Fin 16) (g : Figure → Figure) (ok : FigOk t.figs[f] (g t.figs[f])) (h : Made s t) :
    Made s (t.modFig f g) := made_setFig f _ ok h

/-- An edit of figures that is harmless whatever the figure. -/
theorem made_modFigs (g : Figure → Figure) (ok : ∀ x, FigOk x (g x)) (h : Made s t) : Made s (t.modFigs g) := by
  refine made_figs t _ h (fun f => ?_) rfl
  simp only [State.modFigs, Fin.getElem_fin, Vector.getElem_map]
  exact ok _

/-! Zones. -/

/-- Zones that only figures not under way lose. -/
theorem made_setZones (g : Fin 24 → Option (Fin 16))
    (ok : ∀ (f : Fin 16) (z : Fin 24), t.figs[f].state.holdsPath = true → t.zones[z] = some f → g z = some f)
    (h : Made s t) : Made s (t.setZones g) := by
  refine h.trans ⟨⟨by simp, ?_, ?_, ?_, ?_, State.balanced_congr (by simp)⟩, by simp [State.written], by simp, by simp [State.banks]⟩
  · exact State.withinCapacity_congr (by simp) (by simp) (by simp) (by simp) (by simp)
  · unfold State.inFireOrder; simp
  · exact State.withinSupply_congr (by simp) (by simp) (by simp)
  intro k f up z m
  simp only [State.setZones_figs] at up m
  have e : (t.setZones g).zones[z] = g z := by simp only [State.setZones, Fin.getElem_fin, Vector.getElem_ofFn]
  exact e.trans (ok f z up (k f up z m))

/-- A figure that is not under way releases zones. -/
theorem made_releaseZones (f : Fin 16) (keep : List (Fin 24)) (rest : t.figs[f].state.holdsPath = false)
    (h : Made s t) : Made s (t.releaseZones f keep) := by
  refine made_setZones _ (fun x z up held => ?_) h
  have ne : x ≠ f := by
    rintro rfl
    rw [rest] at up
    exact Bool.noConfusion up
  have e : ¬(some x = some f) := fun c => ne (Option.some.inj c)
  simp only [held, e, decide_false, Bool.false_and, Bool.false_eq_true, if_false]

end Sys2Proof.Machine
end

