-- ==== Sys2Proof/Laws/Boards.lean ====
section
/-! SUPPORT. The operations on the boards' command lists and the command queue: each keeps the invariants, the tables
and the clock, and each is shown to leave the figures, the zones and the other blocks alone. -/

namespace Sys2Proof.Machine

variable {s t : State}

/-! What the operations keep. -/

@[simp] theorem made_dropFrames (b : Fin 32) (p : Nat → Bool) (h : Made s t) : Made s (t.dropFrames b p) :=
  made_modTail _ (.inr (Nat.le_refl _)) (.inr (List.length_filter_le _ _)) (.inr (Nat.le_refl _)) h

@[simp] theorem made_placeFrame (b : Fin 32) (id : Nat) (h : Made s t) : Made s (t.placeFrame b id) := by
  unfold State.placeFrame
  split
  · rename_i lt
    refine made_modTail _ (.inr (Nat.le_refl _)) (.inl ?_) (.inr (Nat.le_refl _)) h
    simp only [List.length_append, List.length_cons, List.length_nil]
    omega
  · exact h

@[simp] theorem made_withdrawCommands (b : Fin 32) (p : Command → Bool) (h : Made s t) :
    Made s (t.withdrawCommands b p) := by
  unfold State.withdrawCommands; simp (maxDischargeDepth := 20) [h]

@[simp] theorem made_placeNext (h : Made s t) : Made s t.placeNext := by
  unfold State.placeNext; split <;> simp (maxDischargeDepth := 20) [h]

@[simp] theorem made_fillPlaces (n : Nat) (h : Made s t) : Made s (t.fillPlaces n) := by
  induction n generalizing t with
  | zero => exact h
  | succ n ih =>
    unfold State.fillPlaces
    split
    · exact h
    · exact ih (made_placeFrame _ _ h)

@[simp] theorem made_fillQueue (h : Made s t) : Made s t.fillQueue := made_fillPlaces _ h

@[simp] theorem made_joinCommands (b : Fin 32) (op : CommandOp) (ch : Option (Fin 4)) (o : Option (Fin 16))
    (h : Made s t) : Made s (t.joinCommands b op ch o) := by
  unfold State.joinCommands; simp (maxDischargeDepth := 20) [h]

@[simp] theorem made_requestCommand (b : Fin 32) (op : CommandOp) (ch : Option (Fin 4)) (o : Option (Fin 16))
    (h : Made s t) : Made s (t.requestCommand b op ch o).1 := by
  unfold State.requestCommand
  split
  · exact h
  · split
    · dsimp only; split <;> simp (maxDischargeDepth := 20) [h]
    · simp (maxDischargeDepth := 20) [h]

@[simp] theorem made_modCommand (b : Fin 32) (id : Nat) (g : Command → Command) (h : Made s t) :
    Made s (t.modCommand b id g) := made_modBoard b _ h

@[simp] theorem made_removeCommand (b : Fin 32) (id : Nat) (h : Made s t) : Made s (t.removeCommand b id) :=
  made_withdrawCommands b _ h

@[simp] theorem made_rewait (b : Fin 32) (c : Command) (h : Made s t) : Made s (t.rewait b c) := by
  unfold State.rewait; split <;> simp (maxDischargeDepth := 20) [h]

@[simp] theorem made_holdOff (b : Fin 32) (c : Command) (h : Made s t) : Made s (t.holdOff b c) := by
  unfold State.holdOff; split <;> simp (maxDischargeDepth := 20) [h]

@[simp] theorem made_enterResend (b : Fin 32) (c : Command) (h : Made s t) : Made s (t.enterResend b c) := by
  unfold State.enterResend; split <;> simp (maxDischargeDepth := 20) [h]

@[simp] theorem made_endHoldoff (b : Fin 32) (h : Made s t) : Made s (t.endHoldoff b) := by
  unfold State.endHoldoff; split <;> simp (maxDischargeDepth := 20) [h]

@[simp] theorem made_sendCommand (f : CommandFrame) (c : Command) (h : Made s t) : Made s (t.sendCommand f c) := by
  unfold State.sendCommand
  refine made_modBoard _ _ (made_modCommand _ _ _ (made_modTail _ (.inr (Nat.le_refl _)) (.inr ?_)
    (.inr (Nat.le_refl _)) h))
  exact List.length_filter_le _ _

/-! What they leave alone. -/

/-- The parts of the state that the board unit's operations do not touch. -/
structure OffBoards (s t : State) : Prop where
  clock : t.clock = s.clock
  head : t.head = s.head
  launch : t.launch = s.launch
  runs : t.runs = s.runs
  figRecs : t.figRecs = s.figRecs
  figs : t.figs = s.figs
  zones : t.zones = s.zones
  boardRecs : t.boardRecs = s.boardRecs
  groups : t.groups = s.groups
  strikeAccount : t.strikeAccount = s.strikeAccount
  calendar : t.calendar = s.calendar
  mgmt : t.mgmt = s.mgmt
  showUnit : t.showUnit = s.showUnit

theorem OffBoards.refl (s : State) : OffBoards s s := ⟨rfl, rfl, rfl, rfl, rfl, rfl, rfl, rfl, rfl, rfl, rfl, rfl, rfl⟩

theorem OffBoards.trans {s t u : State} (h : OffBoards s t) (k : OffBoards t u) : OffBoards s u :=
  ⟨k.1.trans h.1, k.2.trans h.2, k.3.trans h.3, k.4.trans h.4, k.5.trans h.5, k.6.trans h.6, k.7.trans h.7,
    k.8.trans h.8, k.9.trans h.9, k.10.trans h.10, k.11.trans h.11, k.12.trans h.12, k.13.trans h.13⟩

theorem offBoards_dropFrames (s : State) (b : Fin 32) (p : Nat → Bool) : OffBoards s (s.dropFrames b p) :=
  ⟨rfl, rfl, rfl, rfl, rfl, rfl, rfl, rfl, rfl, rfl, rfl, rfl, rfl⟩

theorem offBoards_modBoard (s : State) (b : Fin 32) (g : BoardState → BoardState) : OffBoards s (s.modBoard b g) :=
  ⟨rfl, rfl, rfl, rfl, rfl, rfl, rfl, rfl, rfl, rfl, rfl, rfl, rfl⟩

theorem offBoards_placeFrame (s : State) (b : Fin 32) (id : Nat) : OffBoards s (s.placeFrame b id) := by
  unfold State.placeFrame
  split
  · exact ⟨rfl, rfl, rfl, rfl, rfl, rfl, rfl, rfl, rfl, rfl, rfl, rfl, rfl⟩
  · exact .refl s

theorem offBoards_fillPlaces (n : Nat) (s : State) : OffBoards s (s.fillPlaces n) := by
  induction n generalizing s with
  | zero => exact .refl s
  | succ n ih =>
    unfold State.fillPlaces
    split
    · exact .refl s
    · exact (offBoards_placeFrame s _ _).trans (ih _)

theorem offBoards_fillQueue (s : State) : OffBoards s s.fillQueue := offBoards_fillPlaces _ s

/-- With no command that waits for a place, or no place, filling the queue changes nothing (R128). -/
theorem fillQueue_of_none (s : State) (h : firstOffered s.unplacedCommands = none) : s.fillQueue = s := by
  unfold State.fillQueue
  generalize 16 - s.tail.commandQueue.length = n
  cases n with
  | zero => rfl
  | succ n => unfold State.fillPlaces; rw [h]

theorem fillQueue_of_full (s : State) (full : 16 ≤ s.tail.commandQueue.length) : s.fillQueue = s := by
  unfold State.fillQueue; rw [Nat.sub_eq_zero_of_le full]; rfl

/-- With a place and a command that waits for one, the queue is filled by one placing and the filling of the rest
(R128). -/
theorem fillQueue_of_room (s : State) (room : s.tail.commandQueue.length < 16) (x : Fin 32 × Command)
    (h : firstOffered s.unplacedCommands = some x) : s.fillQueue = s.placeNext.fillQueue := by
  obtain ⟨b, c⟩ := x
  have one : s.placeNext = s.placeFrame b c.id := by unfold State.placeNext; rw [h]
  have len : (s.placeFrame b c.id).tail.commandQueue.length = s.tail.commandQueue.length + 1 := by
    unfold State.placeFrame; rw [if_pos room]
    simp only [State.modTail, List.length_append, List.length_cons, List.length_nil]
  have fuel : 16 - s.tail.commandQueue.length = (16 - (s.tail.commandQueue.length + 1)) + 1 := by omega
  rw [one]
  unfold State.fillQueue
  rw [len, fuel]
  show (match firstOffered s.unplacedCommands with
    | none => s
    | some (b, c) => State.fillPlaces _ (s.placeFrame b c.id)) = _
  rw [h]

theorem offBoards_withdrawCommands (s : State) (b : Fin 32) (p : Command → Bool) :
    OffBoards s (s.withdrawCommands b p) :=
  (offBoards_dropFrames s b _).trans (offBoards_modBoard _ b _)

theorem offBoards_joinCommands (s : State) (b : Fin 32) (op : CommandOp) (ch : Option (Fin 4)) (o : Option (Fin 16)) :
    OffBoards s (s.joinCommands b op ch o) := by
  unfold State.joinCommands
  refine OffBoards.trans ?_ (offBoards_fillQueue _)
  refine OffBoards.trans ?_ (offBoards_modBoard _ b _)
  exact ⟨rfl, rfl, rfl, rfl, rfl, rfl, rfl, rfl, rfl, rfl, rfl, rfl, rfl⟩

theorem offBoards_requestCommand (s : State) (b : Fin 32) (op : CommandOp) (ch : Option (Fin 4))
    (o : Option (Fin 16)) : OffBoards s (s.requestCommand b op ch o).1 := by
  unfold State.requestCommand
  split
  · exact .refl s
  · split
    · dsimp only
      split
      · dsimp only
        exact OffBoards.trans (offBoards_withdrawCommands s b _) (offBoards_modBoard _ b _)
      · dsimp only
        exact OffBoards.trans (offBoards_withdrawCommands s b _)
          (offBoards_joinCommands (s.withdrawCommands b _) b op ch o)
    · exact offBoards_joinCommands s b op ch o

/-- A request is refused exactly when the board is ABSENT, and then changes nothing (R128). -/
theorem requestCommand_taken (s : State) (b : Fin 32) (op : CommandOp) (ch : Option (Fin 4)) (o : Option (Fin 16)) :
    (s.requestCommand b op ch o).2 = !decide (s.boards[b].presence = .absent) := by
  unfold State.requestCommand
  split
  · rename_i e; rw [decide_eq_true e]; rfl
  · rename_i e
    rw [decide_eq_false e]
    split
    · dsimp only; split <;> rfl
    · rfl

theorem requestCommand_absent (s : State) (b : Fin 32) (op : CommandOp) (ch : Option (Fin 4)) (o : Option (Fin 16))
    (e : s.boards[b].presence = .absent) : s.requestCommand b op ch o = (s, false) := by
  unfold State.requestCommand; rw [if_pos e]

/-! Which command is ready (R129). -/

/-- A waiting command is the next of its list when no waiting command stands before it and, unless it is a STOP, none
in holdoff (R129). -/
theorem readyInList_iff (id : Nat) (c : Command) (hid : c.id = id) (hw : c.condition = .waiting) : ∀
    (l : List Command) (h : Bool), l.find? (fun d => d.id = id) = some c →
   (readyInList id l h = true ↔ ∃ xs ys, l = xs ++ c :: ys ∧ (∀ d ∈ xs, d.condition ≠ .waiting) ∧
       (c.op = .stop ∨ (h = false ∧ ∀ d ∈ xs, ∀ u, d.condition ≠ .holdoff u))) := by
  intro l
  induction l with
  | nil => intro h e; exact nomatch e
  | cons a l ih =>
    intro h e
    unfold readyInList
    by_cases ha : a.id = id
    · rw [List.find?_cons_of_pos (by simpa using ha)] at e
      cases e
      rw [hw]; simp only [CommandCondition.isWaiting, hid, if_true, decide_true, Bool.true_and]
      constructor
      · intro k
        refine ⟨[], l, rfl, by simp, ?_⟩
        cases ho : c.op <;> simp_all [CommandOp.isStop]
      · rintro ⟨xs, ys, e, n, k⟩
        cases xs with
        | nil => rcases k with k | k
                 · rw [k]; rfl
                 · rw [k.1]; simp
        | cons x xs => 
          cases e
          exact absurd hw (n _ (List.mem_cons_self))
    · rw [List.find?_cons_of_neg (by simpa using ha)] at e
      have ne : a ≠ c := fun e => ha (e ▸ hid)
      by_cases hwa : a.condition.isWaiting = true
      · rw [if_pos hwa]
        simp only [ha, decide_false, Bool.false_and, Bool.false_eq_true, false_iff]
        rintro ⟨xs, ys, e, n, k⟩
        cases xs with
        | nil => cases e; exact ne rfl
        | cons x xs => 
          cases e
          have := n _ (List.mem_cons_self)
          revert hwa this; cases a.condition <;> simp [CommandCondition.isWaiting]
      · rw [if_neg hwa, ih _ e]
        constructor
        · rintro ⟨xs, ys, e, n, k⟩
          refine ⟨a :: xs, ys, by rw [e]; rfl, ?_, ?_⟩
          · intro d hd
            rcases List.mem_cons.1 hd with r | r
            · subst r; intro z; rw [z] at hwa; exact hwa rfl
            · exact n d r
          · rcases k with k | ⟨k, m⟩
            · exact .inl k
            · rw [Bool.or_eq_false_iff] at k
              refine .inr ⟨k.1, fun d hd u => ?_⟩
              rcases List.mem_cons.1 hd with r | r
              · subst r; intro z; rw [z] at k; exact nomatch k.2
              · exact m d r u
        · rintro ⟨xs, ys, e, n, k⟩
          cases xs with
          | nil => cases e; exact absurd rfl ne
          | cons x xs => 
            cases e
            refine ⟨xs, ys, rfl, fun d hd => n d (List.mem_cons_of_mem _ hd), ?_⟩
            rcases k with k | ⟨k, m⟩
            · exact .inl k
            · refine .inr ⟨?_, fun d hd => m d (List.mem_cons_of_mem _ hd)⟩
              rw [k, Bool.false_or]
              have := m _ (List.mem_cons_self)
              revert this; cases a.condition <;> simp [CommandCondition.isHoldoff]

end Sys2Proof.Machine
end

