-- ==== Sys2Proof/Laws/Figures.lean ====
section
/-! SUPPORT. The operations of the figure controller and the zone arbiter: each keeps the invariants, the tables and the
clock. -/

namespace Sys2Proof.Machine

variable {s t : State}

/-! Edits of one figure. -/

/-- A figure whose new record holds every zone of its move. -/
theorem made_setFig_held (f : Fin 16) (x : Figure)
    (adm : x.admitted = t.figs[f].admitted ∨ x.admitted = none) (held : ∀ z ∈ x.needed, t.zones[z] = some f)
    (h : Made s t) : Made s (t.setFig f x) := by
  refine h.trans ⟨⟨rfl, State.withinCapacity_congr rfl rfl rfl rfl rfl, id, ?_, ?_, State.balanced_congr rfl⟩, rfl,
      rfl, rfl⟩
  · intro k g
    have le : (t.setFig f x).motorSum g ≤ t.motorSum g := by
      refine sum_map_le _ _ _ (fun y => motorShare_le _ _ g y ?_)
      rw [State.setFig_get]
      split
      · rename_i e; rw [e]; exact adm
      · exact .inl rfl
    have := k g
    have e1 : (t.setFig f x).strikeSum g = t.strikeSum g := rfl
    have e2 : (t.setFig f x).groups = t.groups := rfl
    rw [e1, e2]
    omega
  · intro k y up z m
    rw [State.setFig_get] at up m
    by_cases e : y = f
    · rw [if_pos e] at m
      rw [e]
      exact held z m
    · rw [if_neg e] at up m
      exact k y up z m

/-- The end of a figure edit in which nothing is admitted and the figure is not under way. -/
theorem FigOk.of_rest {x y : Figure} (adm : y.admitted = x.admitted ∨ y.admitted = none)
    (rest : y.state.holdsPath = false) : FigOk x y :=
  ⟨adm, fun up => by rw [rest] at up; exact Bool.noConfusion up⟩

/-- The end of a figure edit that leaves the state and the needed zones. -/
theorem FigOk.of_same {x y : Figure} (adm : y.admitted = x.admitted ∨ y.admitted = none) (st : y.state = x.state)
    (needed : y.needed = x.needed) : FigOk x y :=
  ⟨adm, fun up => ⟨st ▸ up, needed⟩⟩

/-- An edit that leaves state, needed zones and admission. -/
theorem made_modFig_same (f : Fin 16) (g : Figure → Figure) (adm : ∀ x, (g x).admitted = x.admitted)
    (st : ∀ x, (g x).state = x.state) (needed : ∀ x, (g x).needed = x.needed) (h : Made s t) :
    Made s (t.modFig f g) :=
  made_modFig f g (.of_same (.inl (adm _)) (st _) (needed _)) h

/-- An edit after which the figure is not under way. -/
theorem made_modFig_rest (f : Fin 16) (g : Figure → Figure) (adm : ∀ x, (g x).admitted = x.admitted)
    (rest : ∀ x, (g x).state.holdsPath = false) (h : Made s t) : Made s (t.modFig f g) :=
  made_modFig f g (.of_rest (.inl (adm _)) (rest _)) h

theorem modFig_figs_self (u : State) (f : Fin 16) (g : Figure → Figure) : (u.modFig f g).figs[f] = g u.figs[f] := by
  rw [State.modFig_get, if_pos rfl]

theorem modFig_figs_other (u : State) (f x : Fin 16) (g : Figure → Figure) (ne : x ≠ f) :
    (u.modFig f g).figs[x] = u.figs[x] := by rw [State.modFig_get, if_neg ne]

/-! Supply, stops and outcomes. -/

@[simp] theorem made_releaseCurrent (f : Fin 16) (h : Made s t) : Made s (t.releaseCurrent f) :=
  made_modFig f _ (.of_same (.inr rfl) rfl rfl) h

@[simp] theorem made_askStop (f : Fin 16) (h : Made s t) : Made s (t.askStop f).1 :=
  made_modFig_same f (fun x => { x with commandDone := false }) (fun _ => rfl) (fun _ => rfl) (fun _ => rfl)
    (made_requestCommand _ _ _ _ h)

@[simp] theorem made_recordOutcome (k : Fin 4) (i : Nat) (p : Progress) (h : Made s t) :
    Made s (t.recordOutcome k i p) := by
  unfold State.recordOutcome; split <;> simp [h]

@[simp] theorem made_endMove (f : Fin 16) (m : Move) (a : Bool) (h : Made s t) : Made s (t.endMove f m a) := by
  have base : Made s (t.modFig f (fun x =>
      if a then { x with movesArrived := inc16 x.movesArrived } else { x with movesFailed := inc16 x.movesFailed })) := by
    refine made_modFig_same f _ (fun x => ?_) (fun x => ?_) (fun x => ?_) h <;> cases a <;> rfl
  unfold State.endMove
  dsimp only
  split <;> simp (maxDischargeDepth := 20) [base]

@[simp] theorem made_failCurrent (f : Fin 16) (h : Made s t) : Made s (t.failCurrent f) := by
  unfold State.failCurrent; split
  · split <;> simp [h]
  · exact h

@[simp] theorem made_failNext (f : Fin 16) (h : Made s t) : Made s (t.failNext f) := by
  unfold State.failNext; split <;> simp [h]

/-! Faults. -/

@[simp] theorem made_stopFaulted (f : Fin 16) (h : Made s t) : Made s (t.stopFaulted f) := by
  unfold State.stopFaulted; dsimp only; split <;> simp (maxDischargeDepth := 20) [h]

@[simp] theorem made_enterFault (f : Fin 16) (c : FaultCause) (h : Made s t) : Made s (t.enterFault f c) := by
  have base : Made s ((((((t.modFig f (fun x => { x with state := .fault, faultCause := some c })).raise
      .figureFault f.val c.code).failCurrent f).failNext f).modFig f (fun x => { x with
      current := none, nextMove := none, travelDeadline := none, waitStart := none, stopEnd := .idle, waitUsed :=
          0 }))) :=
    made_modFig_same f _ (fun _ => rfl) (fun _ => rfl) (fun _ => rfl) (made_failNext f (made_failCurrent f
      (made_raise _ _ _ (made_modFig_rest f _ (fun _ => rfl) (fun _ => rfl) h))))
  unfold State.enterFault
  dsimp only
  split
  · exact h
  · split
    · exact made_stopFaulted f base
    · exact base

@[simp] theorem made_absentFigure (b : Fin 32) (f : Fin 16) (h : Made s t) : Made s (t.absentFigure b f) := by
  unfold State.absentFigure
  split
  · split <;> simp (maxDischargeDepth := 20) [h]
  · exact h

@[simp] theorem made_stopFigure (f : Fin 16) (e : StopEnd) (h : Made s t) : Made s (t.stopFigure f e) := by
  unfold State.stopFigure
  dsimp only
  split
  · exact made_modFig_rest f _ (fun _ => rfl) (fun _ => rfl) (made_askStop f h)
  · simp (maxDischargeDepth := 20) [h]

/-! Moves taken. -/

@[simp] theorem made_enterWaitZone (f : Fin 16) (h : Made s t) : Made s (t.enterWaitZone f) := by
  refine made_modFig f _ ?_ h
  split
  · exact .refl _
  · exact .of_rest (.inl rfl) rfl

@[simp] theorem made_beginMove (f : Fin 16) (m : Move) (h : Made s t) : Made s (t.beginMove f m) := by
  have base := made_modFig_same (t := t) f (fun x => { x with current := some m, waitUsed := 0 }) (fun _ => rfl)
    (fun _ => rfl) (fun _ => rfl) h
  unfold State.beginMove
  dsimp only
  split
  · exact made_enterWaitZone f base
  · exact made_modFig_rest f _ (fun _ => rfl) (fun _ => rfl) base

@[simp] theorem made_takeNextSlot (f : Fin 16) (m : Move) (h : Made s t) : Made s (t.takeNextSlot f m) := by
  unfold State.takeNextSlot
  split
  · exact made_modFig_same f _ (fun _ => rfl) (fun _ => rfl) (fun _ => rfl) h
  · exact made_modFig_same f _ (fun _ => rfl) (fun _ => rfl) (fun _ => rfl) (made_endMove f _ _ h)

@[simp] theorem made_takeMove (f : Fin 16) (m : Move) (h : Made s t) : Made s (t.takeMove f m) := by
  unfold State.takeMove
  dsimp only
  split
  · exact made_endMove f m _ h
  · split
    · split <;> simp [h]
    all_goals simp [h]

@[simp] theorem made_requestMove (f : Fin 16) (target pct : Nat) (w : Way) (q : Requester) (h : Made s t) :
    Made s (t.requestMove f target pct w q) := made_takeMove f _ h

@[simp] theorem made_takeWaiting (f : Fin 16) (h : Made s t) : Made s (t.takeWaiting f) := by
  unfold State.takeWaiting
  split
  · exact h
  · exact made_takeMove f _ (made_modFig_same f _ (fun _ => rfl) (fun _ => rfl) (fun _ => rfl) h)

@[simp] theorem made_restFigure (f : Fin 16) (h : Made s t) : Made s (t.restFigure f) := by
  refine made_modFig_rest f _ (fun _ => rfl) (fun x => ?_) h
  cases x.homingNow <;> rfl

theorem restFigure_rests (u : State) (f : Fin 16) : (u.restFigure f).figs[f].state.holdsPath = false := by
  unfold State.restFigure
  rw [modFig_figs_self]
  cases u.figs[f].homingNow <;> rfl

/-! Zones. -/

theorem made_keepResting (f : Fin 16) (rest : t.figs[f].state.holdsPath = false) (h : Made s t) :
    Made s (t.keepResting f) := made_releaseZones f _ rest h

/-- A figure at rest keeps the zones at its position. -/
@[simp] theorem made_restFigure_keepResting (f : Fin 16) (h : Made s t) : Made s ((t.restFigure f).keepResting f) :=
  made_keepResting f (restFigure_rests t f) (made_restFigure f h)

@[simp] theorem made_grantOne (f : Fin 16) (h : Made s t) : Made s (t.grantOne f) := by
  unfold State.grantOne
  split
  · rename_i free
    have free : ∀ z ∈ t.figs[f].needed, t.zones[z] = none ∨ t.zones[z] = some f := by
      intro z m
      have := List.all_eq_true.1 free z m
      simpa using this
    have base : Made s (t.setZones (fun z => if t.figs[f].needed.contains z then some f else t.zones[z])) := by
      refine made_setZones _ (fun x z _ held => ?_) h
      split
      · rename_i c
        rcases free z (by simpa using c) with e | e
        · rw [e] at held; exact absurd held (by simp)
        · rw [← e]; exact held
      · exact held
    refine made_setFig_held f _ (.inl rfl) (fun z m => ?_) base
    simp only [State.setZones_figs] at m
    simp only [State.setZones, Fin.getElem_fin, Vector.getElem_ofFn, Fin.eta]
    exact if_pos (by simpa using m)
  · exact h

@[simp] theorem made_arbitrate (h : Made s t) : Made s t.arbitrate :=
  Made.foldl (fun u x => made_grantOne x (Made.refl u)) _ h

@[simp] theorem made_passIfReleased (u : State) (h : Made s t) : Made s (State.passIfReleased u t) := by
  unfold State.passIfReleased; split <;> simp [h]

/-! Supply and start. -/

/-- A figure that is under way starts with the zones it holds. -/
theorem made_startMove (f : Fin 16) (g : MoveGoal) (up : t.figs[f].state.holdsPath = true) (h : Made s t) :
    Made s (t.startMove f g) := by
  cases g with
  | go target pct w =>
    unfold State.startMove
    dsimp only
    have same := (offBoards_requestCommand t t.figRecs[f].board (.move target t.figs[f].resolvedWay
      (legSpeedOf t.figRecs[f] pct)) (some t.figRecs[f].channel) (some f)).figs
    have base := made_modFig (s := s) f (fun x => { x with
        state := .starting, legDistance := legDistanceOf t.figRecs[f] x target, legSpeed := legSpeedOf t.figRecs[f] pct,
        commandDone := false })
      (t := (t.requestCommand t.figRecs[f].board (.move target t.figs[f].resolvedWay
        (legSpeedOf t.figRecs[f] pct)) (some t.figRecs[f].channel) (some f)).1)
      ⟨.inl rfl, fun _ => ⟨by rw [same]; exact up, rfl⟩⟩ (made_requestCommand _ _ _ _ h)
    split
    · exact base
    · exact made_releaseCurrent f (made_enterFault f _ base)
  | home =>
    unfold State.startMove
    dsimp only
    have same := (offBoards_requestCommand t t.figRecs[f].board .home (some t.figRecs[f].channel) (some f)).figs
    have base := made_modFig (s := s) f (fun x => { x with
        state := .homing, travelDeadline := some (t.now + 120000), commandDone := false })
      (t := (t.requestCommand t.figRecs[f].board .home (some t.figRecs[f].channel) (some f)).1)
      ⟨.inl rfl, fun _ => ⟨by rw [same]; exact up, rfl⟩⟩ (made_requestCommand _ _ _ _ h)
    split
    · exact base
    · exact made_releaseCurrent f (made_enterFault f _ base)

/-- A run current that the group can admit. -/
theorem made_admit (f : Fin 16) (x : Figure) (ma : Nat) (g : Fin 4) (adm : x.admitted = some (ma, g))
    (st : x.state = t.figs[f].state) (needed : x.needed = t.figs[f].needed)
    (room : t.motorSum g + ma + t.strikeSum g ≤ t.groups[g].limit) (h : Made s t) : Made s (t.setFig f x) := by
  refine h.trans ⟨⟨rfl, State.withinCapacity_congr rfl rfl rfl rfl rfl, id, ?_, ?_, State.balanced_congr rfl⟩, rfl,
      rfl, rfl⟩
  · intro k y
    have e1 : (t.setFig f x).strikeSum y = t.strikeSum y := rfl
    have e2 : (t.setFig f x).groups = t.groups := rfl
    have other : ∀ z, z ≠ f → (t.setFig f x).motorShare y z ≤ t.motorShare y z := by
      intro z ne
      unfold State.motorShare
      exact Nat.le_of_eq (by rw [State.setFig_get, if_neg ne])
    have one : (t.setFig f x).motorShare y f ≤ if g = y then ma else 0 := by
      unfold State.motorShare
      exact Nat.le_of_eq (by rw [State.setFig_get, if_pos rfl, adm])
    have le : (t.setFig f x).motorSum y ≤ t.motorSum y + if g = y then ma else 0 :=
      sum_map_one_le _ _ _ f _ (indices_nodup 16) other one
    rw [e1, e2]
    have ky := k y
    by_cases e : g = y
    · subst e
      rw [if_pos rfl] at le
      omega
    · rw [if_neg e] at le
      omega
  · intro k y up z m
    rw [State.setFig_get] at up m
    by_cases e : y = f
    · rw [if_pos e, st] at up
      rw [if_pos e, needed] at m
      subst e
      exact k y up z m
    · rw [if_neg e] at up m
      exact k y up z m

/-- FIGURE_SUPPLY_ADMIT. -/
theorem made_admitFigure (f : Fin 16) (turn : t.supplyTurn f = true) (h : Made s t) : Made s (t.admitFigure f) := by
  have adm : t.supplyAdmits f = true := (Bool.and_eq_true _ _ ▸ turn : _ ∧ _).1
  unfold State.supplyAdmits at adm
  simp only [Bool.and_eq_true, decide_eq_true_eq, State.admitsMotor] at adm
  obtain ⟨⟨st, _⟩, room⟩ := adm
  have base : Made s (t.modFig f (fun x => { x with
      admitted := some (t.figRecs[f].runCurrent, t.boardRecs[t.figRecs[f].board].group), waitUsed := waitSpent x t.now,
      waitStart := none })) := by
    refine made_admit f _ t.figRecs[f].runCurrent t.boardRecs[t.figRecs[f].board].group rfl rfl rfl ?_ h
    omega
  unfold State.admitFigure
  dsimp only
  split
  · refine made_startMove f _ ?_ base
    rw [modFig_figs_self]
    show t.figs[f].state.holdsPath = true
    rw [st]; rfl
  · exact base

/-! Outcomes of commands. -/

@[simp] theorem made_toldCompleted (op : CommandOp) (f : Fin 16) (h : Made s t) : Made s (t.toldCompleted op f) := by
  unfold State.toldCompleted
  split
  · split
    · rename_i e
      exact made_modFig f _ ⟨.inl rfl, fun _ => ⟨by rw [e]; rfl, rfl⟩⟩ h
    · exact h
  · split
    · exact made_modFig_same f _ (fun _ => rfl) (fun _ => rfl) (fun _ => rfl) h
    · exact h
  · split
    · exact made_modFig_same f _ (fun _ => rfl) (fun _ => rfl) (fun _ => rfl) h
    · exact h
  · exact h

@[simp] theorem made_toldFailed (op : CommandOp) (f : Fin 16) (h : Made s t) : Made s (t.toldFailed op f) := by
  unfold State.toldFailed
  split <;> first | exact h | (split <;> simp (maxDischargeDepth := 20) [h])

/-! Holds. -/

@[simp] theorem made_noteHeld (f : Fin 16) (h : Made s t) : Made s (t.noteHeld f) := by
  unfold State.noteHeld; split <;> simp [h]

@[simp] theorem made_holdWaiter (f : Fin 16) (h : Made s t) : Made s (t.holdWaiter f) :=
  made_modFig_rest f _ (fun _ => rfl) (fun _ => rfl) h

@[simp] theorem made_holdFigure (f : Fin 16) (h : Made s t) : Made s (t.holdFigure f) := by
  unfold State.holdFigure; split <;> simp (maxDischargeDepth := 20) [h]

@[simp] theorem made_holdFigures (h : Made s t) : Made s t.holdFigures :=
  Made.foldl (fun u x => made_holdFigure x (Made.refl u)) _ h

theorem enterWaitZone_rests (u : State) (f : Fin 16) (rest : u.figs[f].state.holdsPath = false) :
    (u.enterWaitZone f).figs[f].state.holdsPath = false := by
  unfold State.enterWaitZone
  rw [modFig_figs_self]
  split
  · exact rest
  · rfl

theorem made_leaveHold (f : Fin 16) (rest : t.figs[f].state.holdsPath = false) (h : Made s t) :
    Made s (t.leaveHold f) :=
  made_raise _ _ _ (made_releaseZones f _ (enterWaitZone_rests t f rest) (made_enterWaitZone f h))

@[simp] theorem made_resumeFigure (f : Fin 16) (h : Made s t) : Made s (t.resumeFigure f) := by
  unfold State.resumeFigure
  split
  · rename_i e
    exact made_leaveHold f (by rw [e]; rfl) h
  · exact h

@[simp] theorem made_resumeFigures (h : Made s t) : Made s t.resumeFigures :=
  Made.foldl (fun u x => made_resumeFigure x (Made.refl u)) _ h

/-! Status. -/

@[simp] theorem made_arriveFigure (f : Fin 16) (m : Move) (h : Made s t) : Made s (t.arriveFigure f m) := by
  have base := made_modFig_rest (t := t) f (fun x => { x with state := .idle, travelDeadline := none, current := none })
    (fun _ => rfl) (fun _ => rfl) h
  have keep := made_keepResting f (by rw [modFig_figs_self]; rfl) base
  exact made_takeWaiting f (made_endMove f m _ (made_releaseCurrent f (made_passIfReleased _ keep)))

theorem made_settleStop (f : Fin 16) (m : Move) (rest : t.figs[f].state.holdsPath = false) (h : Made s t) :
    Made s (t.settleStop f m) := by
  have stay : Made s (if t.calendar.figuresOpen then t.leaveHold f
      else t.modFig f (fun x => { x with state := .held })) := by
    split
    · exact made_leaveHold f rest h
    · exact made_modFig_rest f _ (fun _ => rfl) (fun _ => rfl) h
  have home := made_takeWaiting f (made_endMove f m true
    (made_passIfReleased (t.restFigure f) (made_restFigure_keepResting (s := s) f h)))
  exact Made.ite home stay

theorem made_completeStop (f : Fin 16) (rest : t.figs[f].state.holdsPath = false) (h : Made s t) :
    Made s (t.completeStop f) := by
  have base := made_releaseCurrent f h
  have rest' : (t.releaseCurrent f).figs[f].state.holdsPath = false := by
    unfold State.releaseCurrent; rw [modFig_figs_self]; exact rest
  unfold State.completeStop
  dsimp only
  split
  · exact made_settleStop f _ rest' base
  · exact made_takeWaiting f (made_passIfReleased _ (made_restFigure_keepResting f base))
  · exact made_takeWaiting f (made_passIfReleased _ (made_restFigure_keepResting f base))

@[simp] theorem made_endHoming (f : Fin 16) (h : Made s t) : Made s (t.endHoming f) := by
  have base := made_modFig_rest (t := t) f (fun x => { x with
    state := .idle, position := some t.figRecs[f].home, travelDeadline := none, current := none })
    (fun _ => rfl) (fun _ => rfl) h
  have keep := made_keepResting f (by rw [modFig_figs_self]; rfl) base
  unfold State.endHoming
  dsimp only
  exact made_takeWaiting f (made_raise _ _ _ (made_releaseCurrent f (made_passIfReleased _ keep)))

@[simp] theorem made_faultStill (f : Fin 16) (r : ChanReport) (h : Made s t) : Made s (t.faultStill f r) := by
  unfold State.faultStill; split <;> simp [h]

@[simp] theorem made_actOnFlags (f : Fin 16) (r : ChanReport) (h : Made s t) : Made s (t.actOnFlags f r) := by
  unfold State.actOnFlags
  split
  · split
    · split <;> simp [h]
    · exact h
  · rename_i e
    split
    · exact made_completeStop f (by rw [e]; rfl) h
    · exact h
  · split <;> simp [h]
  all_goals exact h

@[simp] theorem made_figureStatus (f : Fin 16) (r : ChanReport) (h : Made s t) : Made s (t.figureStatus f r) := by
  have base := made_modFig_same (t := t) f (fun x => { x with
    flags := r,
    position := if x.state.takesPosition && x.position.isSome then some (reportedPosition t.figRecs[f] r.position)
                else x.position }) (fun _ => rfl) (fun _ => rfl) (fun _ => rfl) h
  unfold State.figureStatus
  dsimp only
  split
  · exact made_faultStill f r (made_enterFault f _ base)
  · split
    · exact made_faultStill f r (made_enterFault f _ base)
    · exact made_faultStill f r (made_actOnFlags f r base)

/-! Deadlines. -/

@[simp] theorem made_abandonMove (f : Fin 16) (h : Made s t) : Made s (t.abandonMove f) := by
  have rested := made_restFigure_keepResting f h
  unfold State.abandonMove
  split
  · dsimp only
    refine made_takeWaiting f (made_passIfReleased _ (made_raise _ _ _
      (made_modFig_same f _ (fun _ => rfl) (fun _ => rfl) (fun _ => rfl) ?_)))
    split
    · exact made_endMove f _ _ rested
    · exact rested
  · exact h

@[simp] theorem made_stallFigure (f : Fin 16) (h : Made s t) : Made s (t.stallFigure f) := by
  unfold State.stallFigure
  split
  · dsimp only; split <;> simp (maxDischargeDepth := 20) [h]
  · exact h

@[simp] theorem made_failHoming (f : Fin 16) (h : Made s t) : Made s (t.failHoming f) := by
  unfold State.failHoming; split <;> simp [h]

/-! Withdrawal and rest. -/

@[simp] theorem made_withdrawCurrent (f : Fin 16) (h : Made s t) : Made s (t.withdrawCurrent f) := by
  have marked := made_modFig_same (t := t) f Figure.markWithdrawn (fun _ => rfl) (fun _ => rfl) (fun _ => rfl) h
  unfold State.withdrawCurrent
  split
  · exact made_restFigure_keepResting f h
  · exact made_restFigure_keepResting f h
  · exact made_restFigure_keepResting f h
  · exact made_stopFigure f _ marked
  · exact made_stopFigure f _ marked
  · exact made_stopFigure f _ marked
  · exact made_modFig_same f _ (fun _ => rfl) (fun _ => rfl) (fun _ => rfl) h
  all_goals exact h

@[simp] theorem made_takeAtRest (f : Fin 16) (h : Made s t) : Made s (t.takeAtRest f) := by
  unfold State.takeAtRest; split <;> simp [h]

@[simp] theorem made_withdrawRunFrom (k : Fin 4) (f : Fin 16) (h : Made s t) : Made s (t.withdrawRunFrom k f) := by
  have none := made_modFig_same (t := t) f (fun x => { x with nextMove := none }) (fun _ => rfl) (fun _ => rfl)
    (fun _ => rfl) h
  unfold State.withdrawRunFrom
  dsimp only
  repeat' split
  all_goals simp (maxDischargeDepth := 20) [none, h]

@[simp] theorem made_withdrawRun (k : Fin 4) (h : Made s t) : Made s (t.withdrawRun k) :=
  Made.foldl (fun u x => made_withdrawRunFrom k x (Made.refl u)) _ h

@[simp] theorem made_withdrawLiveFrom (f : Fin 16) (h : Made s t) : Made s (t.withdrawLiveFrom f) := by
  have emptied : ∀ u : State, Made s u → Made s ((u.failNext f).modFig f (fun x => { x with nextMove := none })) :=
    fun u k => made_modFig_same f _ (fun _ => rfl) (fun _ => rfl) (fun _ => rfl) (made_failNext f k)
  unfold State.withdrawLiveFrom
  dsimp only
  repeat' split
  all_goals
    first
      | exact made_takeAtRest f (made_withdrawCurrent f (emptied _ (made_failCurrent f h)))
      | exact made_takeAtRest f (made_withdrawCurrent f (made_failCurrent f h))
      | exact emptied _ h
      | exact h

@[simp] theorem made_withdrawLive (h : Made s t) : Made s t.withdrawLive :=
  Made.foldl (fun u x => made_withdrawLiveFrom x (Made.refl u)) _ h

@[simp] theorem made_endAtStop (f : Fin 16) (h : Made s t) : Made s (t.endAtStop f) := by
  unfold State.endAtStop
  split
  · split
    · exact h
    · split <;> simp [h]
  · exact h

@[simp] theorem made_restOne (f : Fin 16) (h : Made s t) : Made s (t.restOne f) :=
  made_withdrawCurrent f (made_endAtStop f (made_modFig_same f _ (fun _ => rfl) (fun _ => rfl) (fun _ => rfl) h))

@[simp] theorem made_restFigures (h : Made s t) : Made s t.restFigures :=
  Made.foldl (fun u x => made_restOne x (Made.refl u)) _ h

/-! Clearing and homing. -/

@[simp] theorem made_unhome (f : Fin 16) (h : Made s t) : Made s (t.unhome f) := by
  have e : t.unhome f = (t.modFig f (fun x => { x with state := .unhomed, position := none, faultCause :=
      none })).releaseZones
      f [] := by
    simp only [State.unhome, State.releaseZones, State.setZones, State.modFig, State.setFig]
    rfl
  rw [e]
  exact made_releaseZones f [] (by rw [modFig_figs_self]; rfl) (made_modFig_rest f _ (fun _ => rfl) (fun _ => rfl) h)

@[simp] theorem made_clearFigure (f : Fin 16) (h : Made s t) : Made s (t.clearFigure f) :=
  made_unhome f (made_requestCommand _ _ _ _ h)

@[simp] theorem made_beginHoming (f : Fin 16) (h : Made s t) : Made s (t.beginHoming f) :=
  made_beginMove f _ (made_modFig_same f _ (fun _ => rfl) (fun _ => rfl) (fun _ => rfl) h)

@[simp] theorem made_homeAll (h : Made s t) : Made s t.homeAll := by
  refine Made.foldl (fun u f => ?_) _ h
  split <;> simp

/-! A figure that is no waiter, through a pass of the arbiter (R107). -/

/-- What a pass leaves of a figure that it does not grant: its record, and the zones it holds and does not hold. -/
structure PassKeeps (s t : State) (x : Fin 16) : Prop where
  mgmt : t.mgmt = s.mgmt
  runs : t.runs = s.runs
  cal : t.calendar = s.calendar
  recs : t.figRecs = s.figRecs
  brecs : t.boardRecs = s.boardRecs
  fig : t.figs[x] = s.figs[x]
  keep : ∀ z : Fin 24, s.zones[z] = some x → t.zones[z] = some x
  gain : ∀ z : Fin 24, s.zones[z] ≠ some x → t.zones[z] ≠ some x

theorem PassKeeps.refl (s x) : PassKeeps s s x := ⟨rfl, rfl, rfl, rfl, rfl, rfl, fun _ h => h, fun _ h => h⟩

theorem PassKeeps.trans {s t u x} (a : PassKeeps s t x) (b : PassKeeps t u x) : PassKeeps s u x :=
  ⟨b.mgmt.trans a.mgmt, b.runs.trans a.runs, b.cal.trans a.cal, b.recs.trans a.recs, b.brecs.trans a.brecs,
      b.fig.trans a.fig, fun z h => b.keep z (a.keep z h), fun z h => b.gain z (a.gain z h)⟩

theorem passKeeps_grantOne (s : State) (x y : Fin 16) (ne : y ≠ x) : PassKeeps s (s.grantOne y) x := by
  unfold State.grantOne
  split
  · rename_i h
    have ez : ∀ z : Fin 24, ((s.setZones fun z => if s.figs[y].needed.contains z =
        true then some y else s.zones[z]).modFig y fun x => { x with state := .waitSupply }).zones[z] =
        if s.figs[y].needed.contains z = true then some y else s.zones[z] := by
      intro z; simp [State.setZones]
    refine ⟨by simp, by simp, by simp, by simp, by simp, ?_, ?_, ?_⟩
    · rw [State.modFig_get, if_neg (Ne.symm ne)]; simp
    · intro z hz
      rw [ez]
      split
      · rename_i c
        unfold State.zonesFree at h
        rw [List.all_eq_true] at h
        have := h z (by simpa using c)
        rw [hz] at this
        simp at this
        exact absurd this.symm ne
      · exact hz
    · intro z hz
      rw [ez]
      split
      · simp [ne]
      · exact hz
  · exact .refl _ _

theorem passKeeps_grants (x : Fin 16) (l : List (Fin 16)) (h : x ∉ l) : ∀ s, PassKeeps s
    (l.foldl State.grantOne s) x := by
  induction l with
  | nil => exact fun s => .refl _ _
  | cons a l ih => 
    intro s
    exact (passKeeps_grantOne s x a (fun e => h (e ▸ List.mem_cons_self))).trans
        (ih (fun m => h (List.mem_cons_of_mem _ m)) _)

theorem mem_insertByPriority (s : State) (f : Fin 16) (l) (x) : x ∈ s.insertByPriority f l → x = f ∨ x ∈ l := by
  induction l with
  | nil => intro h; simpa [State.insertByPriority] using h
  | cons a l ih =>
    unfold State.insertByPriority
    split
    · simp
    · intro h; rcases List.mem_cons.1 h with h | h
      · exact .inr (h ▸ List.mem_cons_self)
      · rcases ih h with h | h
        · exact .inl h
        · exact .inr (List.mem_cons_of_mem _ h)

theorem state_of_mem_byPriority (s : State) (st : FigState) (x) (h : x ∈ s.byPriority st) : s.figs[x].state = st := by
  unfold State.byPriority at h
  have : ∀ l : List (Fin 16), x ∈ l.foldr s.insertByPriority [] → x ∈ l := by
    intro l
    induction l with
    | nil => exact id
    | cons a l ih => intro h; rcases mem_insertByPriority s a _ x h with h | h
                     · exact h ▸ List.mem_cons_self
                     · exact List.mem_cons_of_mem _ (ih h)
  have := this _ h
  simpa using (List.mem_filter.1 this).2

theorem passKeeps_arbitrate (s : State) (x) (n : s.figs[x].state ≠ .waitZone) : PassKeeps s s.arbitrate x :=
  passKeeps_grants x _ (fun h => n (state_of_mem_byPriority s _ x h)) s

theorem passKeeps_passIfReleased (s t : State) (x) (n : t.figs[x].state ≠ .waitZone) : PassKeeps t
    (State.passIfReleased s t) x := by
  unfold State.passIfReleased; split
  · exact .refl _ _
  · exact passKeeps_arbitrate t x n

theorem zones_keepResting (s : State) (x : Fin 16) (z : Fin 24) : (s.keepResting x).zones[z] = if s.zones[z] =
    some x ∧ z ∉ zonesAt s.figRecs[x] s.figs[x].position then none else s.zones[z] := by
  simp [State.keepResting, State.releaseZones, State.setZones]

/-- A figure that comes to rest keeps the zones of its position and loses the others, and the pass that follows gives it
none back (R107, R111). -/
theorem zones_keepResting_pass (s u : State) (x) (hz : u.zones = s.zones) (hr : u.figRecs = s.figRecs)
    (n : u.figs[x].state ≠ .waitZone) :
   let t := State.passIfReleased u (u.keepResting x)
   PassKeeps (u.keepResting x) t x ∧ (∀ z : Fin 24, s.zones[z] = some x →
       z ∈ zonesAt s.figRecs[x] u.figs[x].position → t.zones[z] = some x) ∧
   (∀ z : Fin 24, s.zones[z] = some x → z ∉ zonesAt s.figRecs[x] u.figs[x].position → t.zones[z] ≠ some x) := by
  have f := passKeeps_passIfReleased u (u.keepResting x) x (by simpa [State.keepResting, State.releaseZones] using n)
  refine ⟨f, fun z h m => f.keep z ?_, fun z h m => f.gain z ?_⟩
  · rw [zones_keepResting, hr, if_neg (fun c => c.2 m), hz, h]
  · rw [zones_keepResting, hr, hz, if_pos ⟨h, m⟩]; exact fun c => nomatch c

end Sys2Proof.Machine
end

