-- ==== Sys2Proof/Laws/Strikes.lean ====
section
/-! SUPPORT. The launch queue: its insertion by fire time, and what planning, firing, the end of a batch, purges and
steps keep. `Owing n s t` says that going from `s` to `t` keeps everything `Made` speaks of while `n` entries that
have left the queue are not yet accounted for. -/

namespace Sys2Proof.Machine

variable {s t : State}

/-! Counters. -/

theorem satAdd32 (n c : Nat) : satAdd 32 n c = min (c + n) 4294967295 := rfl

theorem inc32_eq (c : Nat) : inc32 c = min (c + 1) 4294967295 := rfl

theorem inc16_eq (c : Nat) : inc16 c = min (c + 1) 65535 := rfl

/-! The number held. -/

/-- The entries held by a launch queue (R61). -/
theorem held_eq (u : State) :
    u.held = u.launch.waiting.length + (u.launch.assembly.map (fun f => f.pairs.length)).sum := rfl

theorem held_modStrikeCounters (u : State) (g : StrikeCounters → StrikeCounters) :
    (u.modStrikeCounters g).held = u.held := rfl

theorem counters_modStrikeCounters (u : State) (g : StrikeCounters → StrikeCounters) :
    (u.modStrikeCounters g).launch.counters = g u.launch.counters := rfl

theorem held_modLaunch (u : State) (g : Launch → Launch) :
    (u.modLaunch g).held =
      (g u.launch).waiting.length + ((g u.launch).assembly.map (fun f => f.pairs.length)).sum := rfl

/-! Insertion by fire time (R60). -/

/-- An entry joins behind every entry at or before its own fire time, and before the rest. -/
theorem insertByFire_eq (e : LaunchEntry) (l : List LaunchEntry) :
    insertByFire e l = l.takeWhile (fun x => x.fire ≤ e.fire) ++ e :: l.dropWhile (fun x => x.fire ≤ e.fire) := by
  induction l with
  | nil => rfl
  | cons x xs ih =>
    unfold insertByFire
    by_cases c : x.fire ≤ e.fire
    · rw [if_pos c, ih]; simp [c]
    · rw [if_neg c]; simp [c]

theorem insertByFire_length (e : LaunchEntry) (l : List LaunchEntry) : (insertByFire e l).length = l.length + 1 := by
  induction l with
  | nil => rfl
  | cons x xs ih => unfold insertByFire; split <;> simp_all

theorem mem_insertByFire (e x : LaunchEntry) (l : List LaunchEntry) : x ∈ insertByFire e l ↔ x = e ∨ x ∈ l := by
  induction l with
  | nil => simp [insertByFire]
  | cons y ys ih =>
    unfold insertByFire
    split
    · simp only [List.mem_cons, ih]
      exact or_left_comm
    · simp only [List.mem_cons]

/-- An insertion keeps the order of fire times. -/
theorem insertByFire_sorted (e : LaunchEntry) (l : List LaunchEntry) (h : l.Pairwise (fun a b => a.fire ≤ b.fire)) :
    (insertByFire e l).Pairwise (fun a b => a.fire ≤ b.fire) := by
  induction l with
  | nil => exact List.pairwise_singleton _ _
  | cons x xs ih =>
    obtain ⟨hx, hxs⟩ := List.pairwise_cons.1 h
    unfold insertByFire
    split
    · rename_i c
      refine List.pairwise_cons.2 ⟨fun y m => ?_, ih hxs⟩
      rcases (mem_insertByFire e y xs).1 m with rfl | m
      · exact c
      · exact hx y m
    · rename_i c
      refine List.pairwise_cons.2 ⟨fun y m => ?_, h⟩
      have c : e.fire ≤ x.fire := Int.le_of_lt (Int.not_le.1 c)
      rcases List.mem_cons.1 m with rfl | m
      · exact c
      · exact Int.le_trans c (hx y m)

theorem foldl_insertByFire_sorted (es acc : List LaunchEntry) (h : acc.Pairwise (fun a b => a.fire ≤ b.fire)) :
    (es.foldl (fun acc e => insertByFire e acc) acc).Pairwise (fun a b => a.fire ≤ b.fire) := by
  induction es generalizing acc with
  | nil => exact h
  | cons e es ih => exact ih _ (insertByFire_sorted e acc h)

theorem foldl_insertByFire_length (es acc : List LaunchEntry) :
    (es.foldl (fun acc e => insertByFire e acc) acc).length = acc.length + es.length := by
  induction es generalizing acc with
  | nil => rfl
  | cons e es ih => rw [List.foldl_cons, ih, insertByFire_length, List.length_cons]; omega

/-- A re-ordered list is in order. -/
theorem reorder_sorted (es : List LaunchEntry) : (reorder es).Pairwise (fun a b => a.fire ≤ b.fire) :=
  foldl_insertByFire_sorted es [] List.Pairwise.nil

/-- A re-ordered list has as many entries. -/
theorem reorder_length (es : List LaunchEntry) : (reorder es).length = es.length := by
  unfold reorder; rw [foldl_insertByFire_length]; simp

/-! Entries that are out of the queue and not yet accounted for. -/

/-- Going from `s` to `t` keeps everything but the balance, of which `n` entries are owed, with room for them. -/
structure Owing (n : Nat) (s t : State) : Prop where
  written : t.written = s.written
  clock : t.clock = s.clock
  pending : t.pending = s.pending
  capacity : s.withinCapacity → t.withinCapacity ∧ t.held + n ≤ 256
  fireOrder : s.inFireOrder → t.inFireOrder
  supply : s.withinSupply → t.withinSupply
  paths : s.pathsHeld → t.pathsHeld
  balance : s.balanced → t.owes n
  banks : t.banks = s.banks

theorem Made.owing (h : Made s t) : Owing 0 s t :=
  ⟨h.written, h.clock, h.keeps.pending,
    fun k => ⟨h.keeps.capacity k, (h.keeps.capacity k).2.2.2.2.2.2.2.2⟩,
    h.keeps.fireOrder, h.keeps.supply, h.keeps.paths, h.keeps.balance, h.banks⟩

theorem Owing.made (h : Owing 0 s t) : Made s t :=
  ⟨⟨h.pending, fun k => (h.capacity k).1, h.fireOrder, h.supply, h.paths, h.balance⟩, h.written, h.clock, h.banks⟩

/-- An edit of the launch queue: what must be said of it. -/
theorem Owing.modLaunch {n m : Nat} (g : Launch → Launch) (h : Owing n s t)
    (room : (t.modLaunch g).held + m ≤ t.held + n)
    (order : t.inFireOrder → (t.modLaunch g).inFireOrder) (balance : t.owes n → (t.modLaunch g).owes m) :
    Owing m s (t.modLaunch g) := by
  refine ⟨h.written, h.clock, h.pending, fun k => ?_, order ∘ h.fireOrder,
    fun k => State.withinSupply_congr rfl rfl rfl (h.supply k), h.paths, balance ∘ h.balance, h.banks⟩
  obtain ⟨c, r⟩ := h.capacity k
  refine ⟨?_, by omega⟩
  obtain ⟨c1, c2, c3, c4, c5, c6, c7, c8, c9⟩ := c
  exact ⟨c1, c2, c3, c4, c5, c6, c7, c8, by omega⟩

/-- An edit of counters alone that accounts for `n - m` of the entries owed. -/
theorem Owing.counters {n m : Nat} (g : StrikeCounters → StrikeCounters) (h : Owing n s t) (le : m ≤ n)
    (account : t.owes n → (t.modStrikeCounters g).owes m) : Owing m s (t.modStrikeCounters g) := by
  refine h.modLaunch _ ?_ id account
  have e : (t.modLaunch (fun l => { l with counters := g l.counters })).held = t.held := rfl
  omega

theorem Owing.setBell {n : Nat} (i : Fin 48) (x : BellState) (h : Owing n s t) : Owing n s (t.setBell i x) :=
  ⟨h.written, h.clock, h.pending, fun k => ⟨State.withinCapacity_congr rfl rfl rfl rfl rfl (h.capacity k).1,
    (h.capacity k).2⟩, h.fireOrder, fun k => State.withinSupply_congr rfl rfl rfl (h.supply k), h.paths, h.balance,
        h.banks⟩

/-! The assembly and the end of a batch. -/

theorem held_joinFrame (b : Fin 32) (p : Fin 16 × Nat) (fs : List OpenFrame) :
    ((joinFrame b p fs).map (fun f => f.pairs.length)).sum = (fs.map (fun f => f.pairs.length)).sum + 1 := by
  induction fs with
  | nil => rfl
  | cons f fs ih =>
    unfold joinFrame
    split <;> simp only [List.map_cons, List.sum_cons, List.length_append, List.length_cons, List.length_nil,
        ih] <;> omega

/-- A closed frame offered: its pairs are emitted, or skipped with the whole frame (R68). -/
theorem owing_offerFrame {n : Nat} (f : OpenFrame) (h : Owing (n + f.pairs.length) s t) : Owing n s (t.offerFrame f) := by
  have account : ∀ u : State, u.launch = t.launch →
      (u.owes (n + f.pairs.length) →
        (u.modStrikeCounters (fun c => { c with emitted := satAdd 32 f.pairs.length c.emitted })).owes n) ∧
      (u.owes (n + f.pairs.length) →
        (u.modStrikeCounters (fun c => { c with
          skipped := satAdd 32 f.pairs.length c.skipped,
          skipOutOverrun := satAdd 32 f.pairs.length c.skipOutOverrun })).owes n) := by
    intro u _
    constructor <;>
    · intro k lt
      have k := k lt
      rw [counters_modStrikeCounters] at lt
      rw [held_modStrikeCounters, counters_modStrikeCounters]
      simp only [satAdd32] at lt ⊢
      omega
  unfold State.offerFrame
  split
  · rename_i lt
    have base : Owing (n + f.pairs.length) s (t.modTail (fun x => { x with strikeQueue := x.strikeQueue ++
        [formFrame t.boardRecs[f.board].address t.node kindStrike (strikePayload f.pairs)] })) := by
      refine ⟨h.written, h.clock, h.pending, fun k => ⟨?_, (h.capacity k).2⟩, h.fireOrder,
        fun k => State.withinSupply_congr rfl rfl rfl (h.supply k), h.paths, h.balance, h.banks⟩
      obtain ⟨c1, c2, c3, c4, c5, c6, c7, c8, c9⟩ := (h.capacity k).1
      refine ⟨c1, c2, ?_, c4, c5, c6, c7, c8, c9⟩
      simp only [State.modTail, List.length_append, List.length_cons, List.length_nil]
      omega
    exact base.counters _ (by omega) (account _ rfl).1
  · exact h.counters _ (by omega) (account _ rfl).2

theorem owing_offerFrames (fs : List OpenFrame) (h : Owing (fs.map (fun f => f.pairs.length)).sum s t) :
    Made s (fs.foldl State.offerFrame t) := by
  induction fs generalizing t with
  | nil => exact h.made
  | cons f fs ih =>
    refine ih (owing_offerFrame f ?_)
    have e : ((f :: fs).map (fun f => f.pairs.length)).sum = (fs.map (fun f => f.pairs.length)).sum + f.pairs.length := by
      simp only [List.map_cons, List.sum_cons]; omega
    exact e ▸ h

theorem sum_filter_split (p : OpenFrame → Bool) (fs : List OpenFrame) :
    ((fs.filter p).map (fun f => f.pairs.length)).sum + ((fs.filter (fun f => !p f)).map (fun f => f.pairs.length)).sum =
      (fs.map (fun f => f.pairs.length)).sum := by
  induction fs with
  | nil => rfl
  | cons f fs ih =>
    cases e : p f <;> simp only [List.filter_cons, e, Bool.not_true, Bool.not_false, if_true, Bool.false_eq_true,
      if_false, List.map_cons, List.sum_cons] <;> omega

/-- Frames that close are accounted for (R66, R67). -/
@[simp] theorem made_closeFrames (p : OpenFrame → Bool) (h : Made s t) : Made s (t.closeFrames p) := by
  have split := sum_filter_split p t.launch.assembly
  refine owing_offerFrames _ (h.owing.modLaunch _ ?_ id ?_)
  · rw [held_modLaunch, held_eq t]; dsimp only; omega
  · intro k lt
    have k := k lt
    rw [held_eq t] at k
    rw [held_modLaunch]
    simp only [State.modLaunch] at k ⊢
    omega

@[simp] theorem made_endBatch (h : Made s t) : Made s t.endBatch := by
  unfold State.endBatch; split <;> simp [h]

@[simp] theorem made_noticeRoom (n : Nat) (h : Made s t) : Made s (t.noticeRoom n) := by
  unfold State.noticeRoom; split <;> simp [h]

/-! Planning. -/

/-- An accepted strike joins the waiting list and is counted (R49, R60). -/
theorem made_accept (e : LaunchEntry) (room : t.held < 256) (h : Made s t) :
    Made s ((t.joinWaiting e).modStrikeCounters (fun c => { c with accepted := inc32 c.accepted })) := by
  have eq : (t.joinWaiting e).modStrikeCounters (fun c => { c with accepted := inc32 c.accepted }) =
      t.modLaunch (fun l => { l with waiting := insertByFire e l.waiting,
                                     counters := { l.counters with accepted := inc32 l.counters.accepted } }) := rfl
  have held : (t.modLaunch (fun l => Launch.mk (insertByFire e l.waiting) l.assembly
      { l.counters with accepted := inc32 l.counters.accepted } l.greatestLateness)).held = t.held + 1 := by
    rw [held_modLaunch, held_eq t]; dsimp only; rw [insertByFire_length]; omega
  rw [eq]
  have o := h.owing
  refine Owing.made ⟨o.written, o.clock, o.pending, fun k => ?_, fun k => insertByFire_sorted e _ (o.fireOrder k),
    fun k => State.withinSupply_congr rfl rfl rfl (o.supply k), o.paths, fun k lt => ?_, o.banks⟩
  · obtain ⟨c1, c2, c3, c4, c5, c6, c7, c8, c9⟩ := (o.capacity k).1
    exact ⟨⟨c1, c2, c3, c4, c5, c6, c7, c8, by omega⟩, by omega⟩
  · have k := o.balance k
    unfold State.owes at k
    rw [held]
    simp only [State.modLaunch, inc32_eq] at lt ⊢
    omega

@[simp] theorem made_refuse (r : StrikeRefusal) (h : Made s t) : Made s (t.modStrikeCounters (fun c => c.refuse r)) :=
  (h.owing.counters _ (Nat.le_refl 0) (by cases r <;> exact id)).made

/-- STRIKE_PLAN. -/
@[simp] theorem made_planStrike (q : StrikeRequest) (h : Made s t) : Made s (planStrike t q).2 := by
  unfold planStrike
  split
  · rename_i e d
    refine made_accept e ?_ h
    unfold planDecision at d
    split at d
    · exact nomatch d
    · split at d
      · exact nomatch d
      · split at d
        · exact nomatch d
        · unfold judgeEntry at d
          repeat' split at d
          all_goals first | omega | cases d
  · exact h
  · exact made_refuse _ h

/-! Firing. -/

theorem Owing.skip {r : SkipReason} (h : Owing 1 s t) : Made s (t.skipStrike r) := by
  refine (h.counters _ (by omega) ?_).made
  intro k lt
  have e : (t.skipStrike r).held = t.held := rfl
  have k := k (by cases r <;> exact lt)
  have e' : (t.modStrikeCounters (fun c => c.skip r)).held = t.held := rfl
  rw [e']
  cases r <;> simp only [State.modStrikeCounters, State.modLaunch, StrikeCounters.skip, inc32_eq] at lt ⊢ <;> omega

theorem Owing.gate (h : Owing 1 s t) :
    Made s (t.modStrikeCounters (fun c => { c with gated := inc32 c.gated })) := by
  refine (h.counters _ (by omega) ?_).made
  intro k lt
  have k := k lt
  have e' : (t.modStrikeCounters (fun c => { c with gated := inc32 c.gated })).held = t.held := rfl
  rw [e']
  simp only [State.modStrikeCounters, State.modLaunch, inc32_eq] at lt ⊢
  omega

theorem Owing.defer (e : LaunchEntry) (g : Fin 4) (h : Owing 1 s t) : Made s (t.deferStrike e g) := by
  unfold State.deferStrike
  split
  · exact h.skip
  · split
    · exact h.skip
    · refine Owing.made (Owing.counters (n := 0) _ ?_ (Nat.le_refl 0) id)
      refine h.modLaunch _ ?_ (fun k => insertByFire_sorted _ _ k) ?_
      · simp only [State.held, State.modLaunch, insertByFire_length]; omega
      · intro k lt
        have k := k lt
        simp only [State.held, State.modLaunch, insertByFire_length] at k ⊢
        omega

/-- A strike admission that the group can admit. -/
theorem Owing.admitted {n : Nat} (a : StrikeAdmission) (h : Owing n s t)
    (room : t.admitsStrike a.group a.current = true) :
    Owing n s (t.setStrikeAccount (t.strikeAccount ++ [a])) := by
  have launch : (t.setStrikeAccount (t.strikeAccount ++ [a])).launch = t.launch := rfl
  have held := State.held_congr launch
  refine ⟨h.written, h.clock, h.pending, fun k => ⟨State.withinCapacity_congr rfl rfl rfl rfl rfl (h.capacity k).1, ?_⟩,
    h.fireOrder, fun k g => ?_, h.paths, fun k => ?_, h.banks⟩
  · rw [held]; exact (h.capacity k).2
  rotate_left
  · unfold State.owes; rw [held, launch]; exact h.balance k
  have k := h.supply k g
  have room := of_decide_eq_true room
  have e : (t.setStrikeAccount (t.strikeAccount ++ [a])).motorSum g = t.motorSum g := State.motorSum_congr rfl g
  have e' : (t.setStrikeAccount (t.strikeAccount ++ [a])).groups = t.groups := rfl
  have sum : (t.setStrikeAccount (t.strikeAccount ++ [a])).strikeSum g =
      t.strikeSum g + if a.group = g then a.current else 0 := by
    simp only [State.strikeSum, State.setStrikeAccount, List.filter_append, List.map_append, List.sum_append]
    by_cases c : a.group = g <;> simp [c]
  rw [e, e', sum]
  by_cases c : a.group = g
  · subst c; rw [if_pos rfl]; omega
  · rw [if_neg c]; omega

theorem made_joinAssembly (b : Fin 32) (p : Fin 16 × Nat) (h : Owing 1 s t) : Made s (t.joinAssembly b p) := by
  refine made_closeFrames _ (Owing.made (h.modLaunch _ ?_ id ?_))
  · simp only [State.held, State.modLaunch, held_joinFrame]; omega
  · intro k lt
    have k := k lt
    simp only [State.held, State.modLaunch, held_joinFrame] at k ⊢
    omega

theorem Owing.emit (e : LaunchEntry) (p1 p2 : Nat) (h : Owing 1 s t)
    (room : t.admitsStrike t.boardRecs[t.bellRecs[e.bell].board].group t.bellRecs[e.bell].coilCurrent = true) :
    Made s (t.emitStrike e p1 p2) := by
  unfold State.emitStrike
  dsimp only
  refine made_joinAssembly _ _ ?_
  refine Owing.modLaunch _ (Owing.admitted _ (h.setBell _ _) room) (Nat.le_refl _) id ?_
  intro k lt
  exact k lt

theorem Owing.heat (e : LaunchEntry) (h : Owing 1 s t) : Made s (t.heatStep e) := by
  have base := h.setBell e.bell { t.bells[e.bell] with
    heat := decayedHeat t.bellRecs[e.bell] t.bells[e.bell] t.now, heatAt := t.now }
  unfold State.heatStep
  dsimp only
  split
  · exact base.skip
  · split
    · rename_i room
      exact base.emit e _ _ room
    · exact base.defer e _

theorem Owing.fire (e : LaunchEntry) (h : Owing 1 s t) : Made s (t.fireEntry e) := by
  unfold State.fireEntry
  exact Made.ite h.gate (Made.ite h.skip (Made.ite h.skip (h.heat e)))

@[simp] theorem made_releaseReached (h : Made s t) : Made s t.releaseReached :=
  made_setStrikeAccount _ List.filter_sublist h

/-- FIRE_HEAD_ENTRY. -/
@[simp] theorem made_fireHead (h : Made s t) : Made s t.fireHead := by
  unfold State.fireHead
  split
  · exact h
  · rename_i e rest eq
    have e0 : t.releaseReached.launch = t.launch := rfl
    split
    · refine made_noticeRoom _ (made_endBatch (Owing.fire e ?_))
      refine (made_releaseReached h).owing.modLaunch _ ?_ ?_ ?_
      · rw [held_modLaunch, held_eq, e0, eq]; simp only [List.length_cons]; omega
      · intro k
        have k : t.launch.waiting.Pairwise (fun a b => a.fire ≤ b.fire) := k
        rw [eq] at k
        exact (List.pairwise_cons.1 k).2
      · intro k lt
        have k := k lt
        rw [held_eq, e0, eq, List.length_cons] at k
        rw [held_modLaunch]
        simp only [State.modLaunch_launch, e0]
        omega
    · exact h

@[simp] theorem made_endWindows (h : Made s t) : Made s t.endWindows := by
  unfold State.endWindows
  split
  · exact h
  · exact made_setStrikeAccount _ List.filter_sublist h

/-! Purges and steps. -/

theorem length_filter_countP (p : LaunchEntry → Bool) (l : List LaunchEntry) :
    (l.filter (fun e => !p e)).length + l.countP p = l.length := by
  induction l with
  | nil => rfl
  | cons x xs ih => cases e : p x <;> simp [e] <;> omega

@[simp] theorem made_purge (r : PurgeReason) (p : LaunchEntry → Bool) (h : Made s t) : Made s (t.purge r p) := by
  have len := length_filter_countP p t.launch.waiting
  refine made_noticeRoom _ (made_endBatch (Owing.made (h.owing.modLaunch _ ?_ ?_ ?_)))
  · simp only [State.held, State.modLaunch]; omega
  · exact fun k => List.Pairwise.sublist List.filter_sublist k
  · intro k lt
    have k := k (by cases r <;> exact lt)
    simp only [State.held, State.modLaunch] at k ⊢
    cases r <;> simp only [StrikeCounters.purge, satAdd32, State.modLaunch] at lt ⊢ <;> omega

@[simp] theorem made_purgeRun (k : Fin 4) (h : Made s t) : Made s (t.purgeRun k) := made_purge _ _ h

@[simp] theorem made_purgeAll (h : Made s t) : Made s t.purgeAll := made_purge _ _ h

@[simp] theorem made_launchStep (d : Int) (h : Made s t) : Made s (t.launchStep d) := by
  refine made_purge _ _ (Owing.made (h.owing.modLaunch _ ?_ (fun _ => reorder_sorted _) ?_))
  · simp only [State.held, State.modLaunch, reorder_length, List.length_map]; omega
  · intro k lt
    have k := k lt
    simp only [State.held, State.modLaunch, reorder_length, List.length_map] at k ⊢
    exact k

/-! The least time of a list, window ends and open frames. -/

/-- The least of a list of times. -/
theorem leastTime_iff (l : List Time) : (leastTime l = none ↔ l = []) ∧ ∀ t, leastTime l = some t ↔ t ∈ l ∧ ∀ u ∈ l,
    t ≤ u := by
  induction l with
  | nil => simp [leastTime]
  | cons a l ih =>
    obtain ⟨h1, h2⟩ := ih
    unfold leastTime
    cases e : leastTime l with
    | none => 
      have := h1.1 e; subst this; simp; intro t; constructor
      · rintro rfl; exact ⟨rfl, Int.le_refl _⟩
      · rintro ⟨rfl, _⟩; rfl
    | some u =>
      obtain ⟨m, k⟩ := (h2 u).1 e
      refine ⟨by simp, fun t => ?_⟩
      dsimp only
      rw [Option.some.injEq]
      constructor
      · rintro rfl
        split
        · rename_i x; refine ⟨List.mem_cons_self, fun v hv => ?_⟩
          rcases List.mem_cons.1 hv with r | r
          · rw [r]
          · exact Int.le_trans x (k v r)
        · rename_i x; refine ⟨List.mem_cons_of_mem _ m, fun v hv => ?_⟩
          rcases List.mem_cons.1 hv with r | r
          · rw [r]; exact Int.le_of_lt (Int.not_le.1 x)
          · exact k v r
      · rintro ⟨m', k'⟩
        have a1 := k' a List.mem_cons_self
        have a2 := k' u (List.mem_cons_of_mem _ m)
        rcases List.mem_cons.1 m' with r | r
        · subst r; exact if_pos a2
        · have := k t r
          have : u = t := Int.le_antisymm this a2
          subst this
          split
          · exact Int.le_antisymm (by assumption) a1
          · rfl

/-- The earliest end of the windows of a group (R57). -/
theorem earliestEnd_iff (g : Fin 4) : (s.earliestEnd g = none ↔ ∀ a ∈ s.strikeAccount, a.group ≠ g) ∧
    (∀ t, s.earliestEnd g = some t ↔ (∃ a ∈ s.strikeAccount, a.group = g ∧ a.windowEnd = t) ∧
      ∀ a ∈ s.strikeAccount, a.group = g → t ≤ a.windowEnd) := by
  unfold State.earliestEnd
  obtain ⟨h1, h2⟩ := leastTime_iff ((s.strikeAccount.filter (fun a => a.group = g)).map (fun a => a.windowEnd))
  refine ⟨by rw [h1]; simp, fun t => ?_⟩
  rw [h2]
  simp only [List.mem_map, List.mem_filter, decide_eq_true_eq]
  constructor
  · rintro ⟨⟨a, ⟨m, k⟩, e⟩, u⟩; exact ⟨⟨a, m, k, e⟩, fun b mb gb => u _ ⟨b, ⟨mb, gb⟩, rfl⟩⟩
  · rintro ⟨⟨a, m, k, e⟩, u⟩; exact ⟨⟨a, ⟨m, k⟩, e⟩, fun v ⟨b, ⟨mb, gb⟩, r⟩ => r ▸ u b mb gb⟩

/-- A pair joins its board's open frame, or opens one behind the others (R66). -/
theorem joinFrame_iff (b : Fin 32) (pair) : ∀ l, ((∀ o ∈ l, o.board ≠ b) → joinFrame b pair l = l ++
    [{ board := b, pairs := [pair] }]) ∧
  (∀ before o after, l = before ++ o :: after → (∀ x ∈ before, x.board ≠ b) → o.board = b →
        joinFrame b pair l = before ++ { o with pairs := o.pairs ++ [pair] } :: after) := by
  intro l
  induction l with
  | nil => exact ⟨fun _ => rfl, fun x o y e => by cases x <;> exact nomatch e⟩
  | cons a l ih =>
    refine ⟨fun n => ?_, fun x o y e n h => ?_⟩
    · unfold joinFrame; rw [if_neg (n a List.mem_cons_self), ih.1 (fun o m => n o (List.mem_cons_of_mem _ m))]; rfl
    · cases x with
      | nil => cases e; unfold joinFrame; rw [if_pos h]; rfl
      | cons z x => cases e; unfold joinFrame; rw [if_neg (n a List.mem_cons_self), ih.2 x o y rfl
          (fun o m => n o (List.mem_cons_of_mem _ m)) h]; rfl

end Sys2Proof.Machine
end

