-- ==== Sys2Proof/Laws/Runs.lean ====
section
/-! SUPPORT. The run unit, the show unit and the board unit's events: each operation keeps the invariants, the tables and
the clock. -/

namespace Sys2Proof.Machine

variable {s t : State}

/-! Runs. -/

@[simp] theorem made_releaseFigures (k : Fin 4) (h : Made s t) : Made s (t.releaseFigures k) := by
  refine made_modFigs _ (fun x => ?_) h
  split
  · exact .of_same (.inl rfl) rfl rfl
  · exact .refl x

@[simp] theorem made_raiseCancelled (k : Fin 4) (id : Nat) (c : CancelCause) (h : Made s t) :
    Made s (t.raiseCancelled k id c) := by
  unfold State.raiseCancelled; split <;> simp [h]

@[simp] theorem made_cancelRun (k : Fin 4) (c : CancelCause) (h : Made s t) : Made s (t.cancelRun k c) := by
  unfold State.cancelRun; split <;> simp (maxDischargeDepth := 20) [h]

@[simp] theorem made_cancelAll (c : CancelCause) (h : Made s t) : Made s (t.cancelAll c) :=
  Made.foldl (fun u k => made_cancelRun k c (Made.refl u)) _ h

@[simp] theorem made_raiseDone (k : Fin 4) (r : Run) (h : Made s t) : Made s (t.raiseDone k r) := by
  unfold State.raiseDone; split <;> simp [h]

@[simp] theorem made_completeRun (k : Fin 4) (h : Made s t) : Made s (t.completeRun k) := by
  unfold State.completeRun; split <;> simp (maxDischargeDepth := 20) [h]

@[simp] theorem made_issueMove (k : Fin 4) (i : Nat) (m : MoveEntry) (h : Made s t) : Made s (t.issueMove k i m) := by
  unfold State.issueMove; split <;> simp (maxDischargeDepth := 20) [h]

@[simp] theorem made_judgeFrom (k : Fin 4) (ms : List MoveEntry) (i : Nat) (h : Made s t) :
    Made s (State.judgeFrom k ms i t) := by
  induction ms generalizing i t with
  | nil => exact h
  | cons m ms ih =>
    unfold State.judgeFrom
    exact Made.ite (ih _ (by simp [h])) (Made.ite h (ih _ (by simp [h])))

@[simp] theorem made_judgeCursor (k : Fin 4) (h : Made s t) : Made s (t.judgeCursor k) := by
  unfold State.judgeCursor; dsimp only; split <;> simp [h]

@[simp] theorem made_endStep (k : Fin 4) (b : Bool) (h : Made s t) : Made s (t.endStep k b) := by
  unfold State.endStep
  exact Made.ite (by simp [h]) (Made.ite (by simp [h]) (by simp [h]))

@[simp] theorem made_finishRow (k : Fin 4) (d : Nat) (h : Made s t) : Made s (t.finishRow k d) :=
  made_endStep _ _ (made_modRun _ _ h)

@[simp] theorem made_loseStrike (k : Fin 4) (h : Made s t) : Made s (t.loseStrike k) := made_modRun _ _ h

@[simp] theorem made_noteRow (k : Fin 4) (f : StackFrame) (b : Fin 48) (v d : Nat) (h : Made s t) :
    Made s (t.noteRow k f b v d) := by
  unfold State.noteRow
  dsimp only
  split
  · simp (maxDischargeDepth := 20) [h]
  · split <;> simp (maxDischargeDepth := 20) [h]

@[simp] theorem made_nestRow (k : Fin 4) (f : StackFrame) (m : Fin 64) (n : Nat) (x : Int) (sc : Nat) (h : Made s t) :
    Made s (t.nestRow k f m n x sc) := by
  unfold State.nestRow
  dsimp only
  generalize (if n = 0 then t.runs[k].count else n) = times
  exact Made.ite (by simp [h]) (Made.ite (by simp (maxDischargeDepth := 20) [h]) (by simp (maxDischargeDepth := 20) [h]))

@[simp] theorem made_markRow (k : Fin 4) (m : Fin 16) (h : Made s t) : Made s (t.markRow k m) :=
  made_judgeCursor _ (made_endStep _ _ (made_modRun _ _ h))

@[simp] theorem made_enterDraining (k : Fin 4) (h : Made s t) : Made s (t.enterDraining k) := by
  unfold State.enterDraining
  dsimp only
  exact made_modShowCounters _ (made_modRun _ _ h)

@[simp] theorem made_motifEnd (k : Fin 4) (f : StackFrame) (fs : List StackFrame) (h : Made s t) :
    Made s (t.motifEnd k f fs) := by
  unfold State.motifEnd
  exact Made.ite (by simp [h]) (Made.ite (by simp (maxDischargeDepth := 20) [h]) (by simp [h]))

@[simp] theorem made_stepRun (k : Fin 4) (h : Made s t) : Made s (t.stepRun k) := by
  unfold State.stepRun
  split
  · exact h
  · refine Made.ite (by simp [h]) ?_
    split <;> simp [h]

@[simp] theorem made_expand (k : Fin 4) (h : Made s t) : Made s (t.expand k) := by
  unfold State.expand; exact Made.ite (by simp [h]) h

@[simp] theorem made_resumeRun (k : Fin 4) (h : Made s t) : Made s (t.resumeRun k) := by
  unfold State.resumeRun; exact Made.ite (by simp [h]) h

@[simp] theorem made_createRun (k : Fin 4) (q : RunRequest) (h : Made s t) : Made s (t.createRun k q) :=
  made_setRun _ _ h

@[simp] theorem made_beginRun (k : Fin 4) (h : Made s t) : Made s (t.beginRun k) := made_expand k (made_judgeCursor k h)

@[simp] theorem made_clearBarrier (k : Fin 4) (h : Made s t) : Made s (t.clearBarrier k) := by
  unfold State.clearBarrier
  split
  · exact h
  · exact Made.ite (by simp (maxDischargeDepth := 20) [h]) h

@[simp] theorem made_releaseHold (k : Fin 4) (h : Made s t) : Made s (t.releaseHold k) := by
  unfold State.releaseHold
  split
  · exact h
  · exact Made.ite (by simp (maxDischargeDepth := 20) [h]) h

@[simp] theorem made_reachBarrier (k : Fin 4) (h : Made s t) : Made s (t.reachBarrier k) := by
  unfold State.reachBarrier
  split
  · exact h
  · dsimp only
    exact Made.ite (Made.ite (by simp [h]) (by simp [h])) h

@[simp] theorem made_runStep (d : Int) (h : Made s t) : Made s (t.runStep d) := made_modRuns _ h

/-! Shows. -/

@[simp] theorem made_raiseDropped (w : Fin 32) (r : DropReason) (h : Made s t) : Made s (t.raiseDropped w r) :=
  made_raise _ _ _ h

@[simp] theorem made_captureDrop (w : Fin 32) (n : Nat) (h : Made s t) : Made s (t.captureDrop w n) := by
  refine made_modShowUnit_of_le _ (.inr ?_) h
  split <;> exact Nat.le_refl _

@[simp] theorem made_refuseShow (w : Fin 32) (n : Nat) (r : ShowRefusal) (h : Made s t) :
    Made s (t.refuseShow w n r) := by
  unfold State.refuseShow
  exact Made.ite (by simp [h]) (by simp [h])

theorem made_joinShows (q : ShowRequest) (room : t.showUnit.queue.length < 8) (h : Made s t) : Made s (t.joinShows q) := by
  refine made_modShowCounters _ (made_modShowUnit_of_le _ (.inl ?_) h)
  simp only [List.length_append, List.length_cons, List.length_nil]
  omega

/-- A request that passes its checks finds a place in the queue (R142). -/
theorem room_of_judgeRequest (w : Fin 32) (n : Nat) (h : t.judgeRequest w n = none) : t.showUnit.queue.length < 8 := by
  unfold State.judgeRequest at h
  repeat' split at h
  all_goals first | omega | cases h

@[simp] theorem made_requestShow (w : Fin 32) (tempo count : Nat) (a : Option Time) (o : RequestOrigin) (h : Made s t) :
    Made s (t.requestShow w tempo count a o).2 := by
  unfold State.requestShow
  dsimp only
  split
  · simp [h]
  · rename_i e
    exact made_joinShows _ (room_of_judgeRequest _ _ e) h

@[simp] theorem made_calendarRequest (w : Fin 32) (count : Nat) (te : Time) (v : Fin 16) (h : Made s t) :
    Made s (t.calendarRequest w count te v) := by
  have base := made_requestShow w 0 count (some te) (.calendar v) h
  unfold State.calendarRequest
  split
  · rename_i e; rw [e] at base; exact base
  · rename_i e; rw [e] at base; exact made_raiseDropped _ _ base

@[simp] theorem made_recheckOne (q : ShowRequest) (h : Made s t) : Made s (t.recheckOne q) := by
  unfold State.recheckOne
  exact Made.ite h (by simp (maxDischargeDepth := 20) [h])

@[simp] theorem made_recheckShows (h : Made s t) : Made s t.recheckShows := by
  unfold State.recheckShows
  refine made_modShowUnit_of_le _ (.inr ?_) (Made.foldl (fun u q => made_recheckOne q (Made.refl u)) _ h)
  exact List.length_filter_le _ _

@[simp] theorem made_emptyShows (h : Made s t) : Made s t.emptyShows := by
  unfold State.emptyShows
  refine made_modShowUnit_of_le _ (.inl ?_) (Made.foldl (fun u q => made_raiseDropped _ _ (Made.refl u)) _ h)
  exact Nat.zero_le _

@[simp] theorem made_ownFigures (w : Fin 32) (k : Fin 4) (h : Made s t) : Made s (t.ownFigures w k) := by
  refine Made.foldl (fun u m => ?_) _ h
  exact Made.ite (made_modFig_same _ _ (fun _ => rfl) (fun _ => rfl) (fun _ => rfl) (Made.refl u)) (Made.refl u)

@[simp] theorem made_admitTo (q : ShowRequest) (k : Fin 4) (h : Made s t) : Made s (t.admitTo q k) := by
  unfold State.admitTo
  refine made_beginRun k (made_raise _ _ _ (made_ownFigures _ _ (made_createRun _ _
    (made_modShowUnit_of_le _ (.inr ?_) h))))
  exact List.length_drop ▸ Nat.sub_le _ _

@[simp] theorem made_judgeHeads (n : Nat) (h : Made s t) : Made s (t.judgeHeads n) := by
  induction n generalizing t with
  | zero => exact h
  | succ n ih =>
    unfold State.judgeHeads
    split
    · exact h
    · refine Made.ite ?_ h
      split
      · exact ih (made_admitTo _ _ h)
      · exact h

@[simp] theorem made_judgeHead (h : Made s t) : Made s t.judgeHead := made_judgeHeads _ h

@[simp] theorem made_judgeAfter (u : State) (h : Made s t) : Made s (u.judgeAfter t) := by
  unfold State.judgeAfter; exact Made.ite (made_judgeHead h) h

@[simp] theorem made_countCycle (h : Made s t) : Made s t.countCycle := by
  unfold State.countCycle
  split
  · exact h
  · rename_i q rest e
    refine Made.ite (made_judgeHead (made_raiseDropped _ _ (made_modShowUnit_of_le _ (.inr ?_) h)))
      (made_modShowUnit_of_le _ (.inr ?_) h)
    · rw [e]; exact Nat.le_succ _
    · rw [e]; exact Nat.le_refl _

@[simp] theorem made_cycleTold (h : Made s t) : Made s t.cycleTold := by
  unfold State.cycleTold
  split
  · exact h
  · exact Made.ite (by simp [h]) (by simp [h])

@[simp] theorem made_stopShow (w : Fin 32) (h : Made s t) : Made s (t.stopShow w).2 := by
  unfold State.stopShow
  split
  · simp [h]
  · split
    · exact made_raiseDropped _ _ (made_modShowUnit_of_le _ (.inr (List.length_filter_le _ _)) h)
    · exact h

/-! Board events. -/

@[simp] theorem made_badBoardFrame (h : Made s t) : Made s t.badBoardFrame := made_modBoardUnit _ h

@[simp] theorem made_staleAnswer (h : Made s t) : Made s t.staleAnswer := made_modBoardUnit _ h

@[simp] theorem made_absentFigures (b : Fin 32) (h : Made s t) : Made s (t.absentFigures b) :=
  Made.foldl (fun u x => made_judgeAfter u (made_absentFigure b x (Made.refl u))) _ h

@[simp] theorem made_channelStatus (b : Fin 32) (rs : Vector ChanReport 4) (ch : Fin 4) (h : Made s t) :
    Made s (t.channelStatus b rs ch) := by
  unfold State.channelStatus; split <;> simp [h]

@[simp] theorem made_motionStatus (b : Fin 32) (rs : Vector ChanReport 4) (h : Made s t) :
    Made s (t.motionStatus b rs) :=
  Made.foldl (fun u ch => made_judgeAfter u (made_channelStatus b rs ch (Made.refl u))) _ h

@[simp] theorem made_boardAbsent (b : Fin 32) (c : AbsenceCause) (h : Made s t) : Made s (t.boardAbsent b c) :=
  made_raise _ _ _ (made_absentFigures b (made_withdrawCommands b _ (made_modBoard b _ h)))

@[simp] theorem made_statusDeadlineOf (b : Fin 32) (h : Made s t) : Made s (t.statusDeadlineOf b) := by
  unfold State.statusDeadlineOf; exact Made.ite (by simp [h]) h

theorem made_tellOwners (c : Command) (tell : State → CommandOp → Fin 16 → State)
    (step : ∀ u op f, Made u (tell u op f)) (h : Made s t) : Made s (t.tellOwners c tell) :=
  Made.foldl (fun u f => made_judgeAfter u (step u c.op f)) _ h

@[simp] theorem made_rejectCommand (b : Fin 32) (c : Command) (h : Made s t) : Made s (t.rejectCommand b c) := by
  unfold State.rejectCommand
  exact Made.ite (made_raise _ _ _ (made_tellOwners c _ (fun u op f => made_toldFailed op f (Made.refl u))
    (by simp (maxDischargeDepth := 20) [h]))) (by simp (maxDischargeDepth := 20) [h])

@[simp] theorem made_takeAnswer (src : Byte) (p : List Byte) (h : Made s t) : Made s (t.takeAnswer src p) := by
  unfold State.takeAnswer
  split
  · split
    · simp [h]
    · exact Made.ite (made_tellOwners _ _ (fun u op f => made_toldCompleted op f (Made.refl u)) (by simp [h]))
        (by simp [h])
  · simp [h]
  · simp [h]

@[simp] theorem made_answerTimeoutOf (b : Fin 32) (h : Made s t) : Made s (t.answerTimeoutOf b) := by
  unfold State.answerTimeoutOf
  split
  · exact h
  · exact Made.ite (by simp [h]) (by simp [h])

@[simp] theorem made_coilFlag (b : Fin 32) (fl : Vector Bool 16) (i : Fin 48) (h : Made s t) :
    Made s (t.coilFlag b fl i) := by
  unfold State.coilFlag; exact Made.ite (by simp [h]) h

@[simp] theorem made_statusArrives (b : Fin 32) (rail : Nat) (h : Made s t) : Made s (t.statusArrives b rail) := by
  unfold State.statusArrives
  refine made_modBoard _ _ ?_
  split <;> simp (maxDischargeDepth := 20) [h]

@[simp] theorem made_takeBellStatus (b : Fin 32) (rail : Nat) (fl : Vector Bool 16) (h : Made s t) :
    Made s (t.takeBellStatus b rail fl) :=
  Made.foldl (fun u i => made_coilFlag b fl i (Made.refl u)) _ (made_modBoard _ _ (made_statusArrives _ _ h))

@[simp] theorem made_takeMotionStatus (b : Fin 32) (rail : Nat) (rs : Vector ChanReport 4) (h : Made s t) :
    Made s (t.takeMotionStatus b rail rs) := made_motionStatus _ _ (made_modBoard _ _ (made_statusArrives _ _ h))

@[simp] theorem made_takeStatus (src : Byte) (p : List Byte) (h : Made s t) : Made s (t.takeStatus src p) := by
  unfold State.takeStatus
  repeat' split
  all_goals simp [h]

@[simp] theorem made_withdrawAll (h : Made s t) : Made s t.withdrawAll :=
  Made.foldl (fun u b => made_withdrawCommands b _ (Made.refl u)) _ h

@[simp] theorem made_resetStops (h : Made s t) : Made s t.resetStops := by
  unfold State.resetStops
  refine Made.foldl (fun u b => ?_) _ h
  split <;> simp

end Sys2Proof.Machine
end

