-- ==== Sys2Proof/Laws/Engine.lean ====
section
/-! SUPPORT. The calendar, the clock, cue handling, the management unit, the link, and with them every command: what each
keeps. The last theorems speak of `exec` and `step`. -/

namespace Sys2Proof.Machine

variable {s t : State}

/-! The calendar. -/

@[simp] theorem made_announce (u : State) (h : Made s t) : Made s (State.announce u t) := by
  unfold State.announce
  exact Made.ite (by simp [h]) (Made.ite (by simp [h]) h)

@[simp] theorem made_takeGates (e : SchedEntry) (h : Made s t) : Made s (t.takeGates e) :=
  made_announce _ (made_modCalendar _ rfl rfl h)

@[simp] theorem made_takeEntry (e : SchedEntry) (h : Made s t) : Made s (t.takeEntry e) :=
  made_judgeAfter _ (made_takeGates e (made_modCalendar _ rfl rfl h))

@[simp] theorem made_takeEntries (h : Made s t) : Made s t.takeEntries := by
  unfold State.takeEntries; split <;> simp [h]

@[simp] theorem made_restartCycle (h : Made s t) : Made s t.restartCycle := by
  unfold State.restartCycle
  exact Made.ite (made_cycleTold (made_modCalendar _ rfl rfl (Made.ite h (made_takeEntries h)))) h

@[simp] theorem made_imposeQuiet (l : QuietLevel) (n : Nat) (b : Bool) (h : Made s t) : Made s (t.imposeQuiet l n b) := by
  unfold State.imposeQuiet
  dsimp only
  refine made_judgeAfter _ (made_announce _ (Made.ite (made_modCalendar _ rfl rfl h) (made_raise _ _ _ (made_modCalendar _ rfl rfl h))))

@[simp] theorem made_endQuiet (a : Int) (h : Made s t) : Made s (t.endQuiet a) := by
  exact made_judgeAfter _ (made_announce _ (made_raise _ _ _ (made_modCalendar _ rfl rfl h)))

@[simp] theorem made_takeQuiet (p : List Byte) (h : Made s t) : Made s (t.takeQuiet p) := by
  unfold State.takeQuiet
  split
  · simp [h]
  · exact Made.ite h (made_endQuiet 1 h)
  · simp [h]

@[simp] theorem made_issueTrigger (te : Time) (x : Trigger) (h : Made s t) : Made s (t.issueTrigger te x) := by
  unfold State.issueTrigger
  dsimp only
  split
  · exact made_modCalendar _ rfl rfl h
  · exact made_calendarRequest _ _ _ _ (made_modCalendar _ rfl rfl h)

@[simp] theorem made_nextTrigger (h : Made s t) : Made s t.nextTrigger := by
  unfold State.nextTrigger
  refine Made.ite ?_ h
  split <;> simp [h]

@[simp] theorem made_derivePosition (h : Made s t) : Made s t.derivePosition :=
  made_announce _ (made_modCalendar _ rfl rfl h)

@[simp] theorem made_missTriggers (n : Nat) (h : Made s t) : Made s (t.missTriggers n) := by
  unfold State.missTriggers; exact Made.ite h (by simp [h])

@[simp] theorem made_catchUp (h : Made s t) : Made s t.catchUp := by
  unfold State.catchUp
  split
  · exact h
  · exact Made.ite (by simp [h]) (by simp [h])

@[simp] theorem made_settleTriggers (h : Made s t) : Made s t.settleTriggers := by
  unfold State.settleTriggers
  exact Made.ite (made_modCalendar _ rfl rfl (by simp [h])) (made_modCalendar _ rfl rfl h)

@[simp] theorem made_derive (h : Made s t) : Made s t.derive := made_settleTriggers (made_derivePosition h)

theorem Calendar.modBank_vectors (c : Calendar) (n : BankName) (g : Bank → Bank) :
    (c.modBank n g).vectors = c.vectors := by cases n <;> rfl

theorem Calendar.exchange_vectors (c : Calendar) (b : Time) : (c.exchange b).vectors = c.vectors :=
  Calendar.modBank_vectors c _ _

theorem banked_takeSwitch (b : Time) (n : Int) (h : Banked s t) : Banked s (t.takeSwitch b n) :=
  (banked_modCalendar _ (Calendar.exchange_vectors _ b) h).trans (Made.banked (made_raise _ _ _
    (made_modCalendarCounters _ (made_judgeHead (made_recheckShows (made_derive (Made.refl _)))))))

theorem banked_reachSwitch (h : Banked s t) : Banked s t.reachSwitch := by
  unfold State.reachSwitch
  split
  · exact h
  · split
    · exact banked_takeSwitch _ _ h
    · exact h

/-- With no switch pending, PENDING_SWITCH_BASE changes nothing (R165). -/
theorem reachSwitch_of_none (u : State) (e : u.calendar.pendingSwitch = none) : u.reachSwitch = u := by
  unfold State.reachSwitch; rw [e]

theorem banked_nextEntry (h : Banked s t) : Banked s t.nextEntry :=
  (banked_reachSwitch h).trans (made_takeEntries (made_restartCycle (Made.refl _))).banked

/-- With no switch pending, ENTRY_TIME takes a restart that is reached and the entries (R157). -/
theorem nextEntry_of_none (u : State) (e : u.calendar.pendingSwitch = none) :
    u.nextEntry = u.restartCycle.takeEntries := by
  unfold State.nextEntry; rw [reachSwitch_of_none u e]

theorem banked_expireQuiet (h : Banked s t) : Banked s t.expireQuiet := by
  unfold State.expireQuiet
  split
  · exact h
  · split
    · exact (banked_nextEntry h).trans (made_endQuiet 0 (Made.refl _)).banked
    · exact h

/-- With no switch pending, QUIET_EXPIRY keeps the banks (R158). -/
theorem made_expireQuiet (u : State) (e : u.calendar.pendingSwitch = none) : Made u u.expireQuiet := by
  unfold State.expireQuiet
  split
  · exact Made.refl u
  · exact Made.ite (made_endQuiet 0 (by
      rw [nextEntry_of_none u e]; exact made_takeEntries (made_restartCycle (Made.refl u)))) (Made.refl u)

theorem banked_calendarStep (h : Banked s t) : Banked s t.calendarStep := by
  unfold State.calendarStep
  split
  · exact h.trans (made_derive (Made.refl _)).banked
  · split
    · exact banked_takeSwitch _ _ h
    · exact h.trans (made_derive (Made.refl _)).banked

/-- With no switch pending, the calendar's step is a derivation (R163). -/
theorem calendarStep_of_none (u : State) (e : u.calendar.pendingSwitch = none) : u.calendarStep = u.derive := by
  unfold State.calendarStep; rw [e]

@[simp] theorem made_judgeAtLead (h : Made s t) : Made s t.judgeAtLead := by
  unfold State.judgeAtLead
  exact Made.ite (made_judgeHead (made_modCalendar _ rfl rfl h)) h

/-! The clock. -/

/-- An edit of the clock keeps everything but the clock. -/
theorem keeps_modClock (u : State) (g : Clock → Clock) : Keeps u (u.modClock g) :=
  .of_parts rfl rfl rfl rfl rfl rfl rfl rfl rfl rfl

/-- What a clock command may do: everything `Made` speaks of but the banks and the clock, which stays legal. -/
structure Timed (s t : State) : Prop where
  keeps : Keeps s t
  written : t.written = s.written
  legal : s.clockLegal → t.clockLegal

theorem Banked.timed (h : Banked s t) : Timed s t :=
  ⟨h.keeps, h.written, fun k => by unfold State.clockLegal; rw [h.clock]; exact k⟩

theorem Made.timed (h : Made s t) : Timed s t := h.banked.timed

theorem Timed.trans {s t u : State} (h : Timed s t) (k : Timed t u) : Timed s u :=
  ⟨h.keeps.trans k.keeps, k.written.trans h.written, k.legal ∘ h.legal⟩

theorem timed_modClock (u : State) (g : Clock → Clock) (legal : u.clockLegal → (u.modClock g).clockLegal) :
    Timed u (u.modClock g) := ⟨keeps_modClock u g, rfl, legal⟩

theorem timed_tick (u : State) : Timed u u.tick := by
  unfold State.tick
  split
  · refine timed_modClock u _ (fun k => ?_)
    obtain ⟨k1, k2, k3, k4, k5, k6⟩ := k
    exact ⟨k1, k2, Nat.le_trans (Nat.sub_le _ _) k3, k4, k5, k6⟩
  · unfold State.countOn
    split
    · rename_i lt
      refine timed_modClock u _ (fun k => ?_)
      obtain ⟨k1, k2, k3, k4, k5, k6⟩ := k
      exact ⟨Int.le_trans k1 (Int.le_of_lt (Int.lt_succ _)), lt, k3, k4, k5, k6⟩
    · refine (timed_modClock u _ (fun k => ?_)).trans (made_drawFree (Made.refl _)).timed
      obtain ⟨k1, k2, k3, k4, k5, k6⟩ := k
      refine ⟨Int.natCast_nonneg _, ?_, k3, k4, k5, k6⟩
      have := (Config.countAfterTop u.freeCount).isLt
      show ((Config.countAfterTop u.freeCount).toNat : Int) < 281474976710656
      omega

theorem leNat_lt (bs : List Byte) : leNat bs < 256 ^ bs.length := by
  induction bs with
  | nil => exact Nat.one_pos
  | cons b bs ih =>
    have := b.isLt
    simp only [leNat, List.length_cons, Nat.pow_succ]
    omega

theorem numAt_lt (k : Nat) (d : List Byte) (o : Nat) : numAt k d o < 256 ^ k := by
  refine Nat.lt_of_lt_of_le (leNat_lt _) (Nat.pow_le_pow_right (by decide) ?_)
  rw [List.length_take]
  exact Nat.min_le_left _ _

/-- A beacon's day takes two bytes. -/
theorem readBeacon_day (p : List Byte) (day ms : Nat) (h : readBeacon p = some (day, ms)) : day < 65536 := by
  unfold readBeacon at h
  split at h
  · cases h
  · injection h with h
    injection h with h _
    rw [← h]
    exact numAt_lt 2 p 0

theorem clampInt_bounds (lo hi x : Int) (h : lo ≤ hi) : lo ≤ clampInt lo hi x ∧ clampInt lo hi x ≤ hi := by
  unfold clampInt
  split
  · exact ⟨Int.le_refl _, h⟩
  · split <;> constructor <;> omega

/-- A beacon's time fits show time. -/
theorem beaconTime_bounds (day ms : Nat) (d : day < 65536) (m : ms < 86400000) :
    0 ≤ beaconTime day ms ∧ beaconTime day ms < timeTop := by
  have h : (0 : Int) ≤ (day : Int) * 86400000 + ms ∧ (day : Int) * 86400000 + ms < 281474976710656 := by omega
  exact h

/-- A forward slew does not pass the beacon's time. -/
theorem slew_bounds (x b : Int) (x0 : 0 ≤ x) (b1 : b < 281474976710656) (pos : 0 < b - x) :
    0 ≤ x + min (b - x) 2 ∧ x + min (b - x) 2 < 281474976710656 := by omega

theorem made_showStep (h : Made s t) : Made s t.showStep :=
  Made.foldl (fun u k => made_judgeCursor k (Made.refl u)) _ (made_judgeHead h)

theorem banked_announceStep (d : Int) (h : Made s t) : Banked s (t.announceStep d) :=
  (banked_calendarStep (made_runStep d (made_launchStep d h)).banked).trans (made_showStep (Made.refl _)).banked

/-- A beacon delivered to the clock. -/
theorem timed_takeBeacon (u : State) (p : List Byte) : Timed u (u.takeBeacon p) := by
  have bad : Timed u (u.modClock (fun c => { c with badBeacon := inc32 c.badBeacon })) := timed_modClock u _ id
  unfold State.takeBeacon
  split
  · exact bad
  · rename_i day ms e
    split
    · exact bad
    · rename_i lt
      have day_lt := readBeacon_day p day ms e
      have ms_lt : ms < 86400000 := Nat.lt_of_not_le lt
      obtain ⟨b0, b1⟩ := beaconTime_bounds day ms day_lt ms_lt
      have dc := clampInt_bounds (-32767) 32767 (beaconTime day ms - u.now) (by decide)
      dsimp only
      split
      · -- a slew
        have eq : State.setClock ((u.acceptBeacon (beaconTime day ms - u.now)).slew (beaconTime day ms - u.now)) =
            u.modClock (fun c => (State.setClock ((u.acceptBeacon (beaconTime day ms - u.now)).slew
              (beaconTime day ms - u.now))).clock) := by
          unfold State.slew; split <;> rfl
        rw [eq]
        refine timed_modClock u _ (fun k => ?_)
        obtain ⟨k1, k2, k3, k4, k5, k6⟩ := k
        unfold State.slew
        split
        · rename_i pos
          obtain ⟨n0, n1⟩ := slew_bounds u.clock.time (beaconTime day ms) k1 b1 pos
          exact ⟨n0, n1, Nat.zero_le _, Iff.intro (fun _ => rfl) (fun _ => rfl), dc.1, dc.2⟩
        · refine ⟨k1, k2, ?_, Iff.intro (fun _ => rfl) (fun _ => rfl), dc.1, dc.2⟩
          show (min (-(beaconTime day ms - u.now)) 2).toNat ≤ 2
          omega
      · -- a step
        refine Timed.trans (t := (u.modClock (fun c => { c with
          beaconsAccepted := inc32 c.beaconsAccepted, lastDiff := clampDiff (beaconTime day ms - u.now), freeze := 0,
          time := beaconTime day ms, steps := inc32 c.steps, state := .set,
          lossDeadline := some (beaconTime day ms + 5000) }))) (timed_modClock u _ (fun k => ?_)) (Banked.timed ?_)
        · exact ⟨b0, b1, Nat.zero_le _, Iff.intro (fun _ => rfl) (fun _ => rfl), dc.1, dc.2⟩
        · refine banked_announceStep _ (made_releaseReached ?_)
          exact made_raise _ _ _ (Made.refl _)

theorem timed_loseBeacon (u : State) : Timed u u.loseBeacon := by
  unfold State.loseBeacon
  split
  · refine (timed_modClock u _ (fun k => ?_)).trans (made_raise _ _ _ (Made.refl _)).timed
    obtain ⟨k1, k2, k3, k4, k5, k6⟩ := k
    exact ⟨k1, k2, k3, ⟨fun h => (by cases h), fun h => (by cases h)⟩, k5, k6⟩
  · exact (Made.refl u).timed

/-! Cues. -/

@[simp] theorem made_refuseCue (r : CueReason) (a b : Nat) (h : Made s t) : Made s (t.refuseCue r a b) :=
  made_raise _ _ _ h

@[simp] theorem made_refusePayload (p : List Byte) (r : CueReason) (h : Made s t) : Made s (t.refusePayload p r) := by
  unfold State.refusePayload; split <;> simp [h]

@[simp] theorem made_cueEntry (base : Nat) (e : CueStrike) (i : Nat) (h : Made s t) : Made s (t.cueEntry base e i) := by
  unfold State.cueEntry; dsimp only; split <;> simp [h]

@[simp] theorem made_cueEntries (base : Nat) (es : List CueStrike) (i : Nat) (h : Made s t) :
    Made s (State.cueEntries base es i t) := by
  induction es generalizing i t with
  | nil => exact h
  | cons e es ih => exact ih _ (made_cueEntry base e i h)

@[simp] theorem made_playMotif (m a tempo : Nat) (x : Int) (sc n : Nat) (h : Made s t) :
    Made s (t.playMotif m a tempo x sc n) := by
  unfold State.playMotif
  split
  · simp [h]
  · split
    · simp [h]
    · simp (maxDischargeDepth := 20) [h]

@[simp] theorem made_startShow (w a tempo n : Nat) (h : Made s t) : Made s (t.startShow w a tempo n) := by
  unfold State.startShow
  split
  · simp [h]
  · rename_i w' _
    have base := made_requestShow w' tempo n (if a = 0 then none else some (a : Int)) .cue h
    split
    · rename_i e; rw [e] at base; exact made_judgeAfter _ base
    · rename_i e; rw [e] at base; exact made_refuseCue _ _ _ base

@[simp] theorem made_cueStop (w : Nat) (h : Made s t) : Made s (t.cueStop w) := by
  unfold State.cueStop
  split
  · simp [h]
  · rename_i w' _
    have base := made_stopShow w' h
    split
    · rename_i e; rw [e] at base; exact made_judgeAfter _ base
    · rename_i e; rw [e] at base; exact made_refuseCue _ _ _ base

@[simp] theorem made_goFigure (f target pct : Nat) (w : Way) (h : Made s t) : Made s (t.goFigure f target pct w) := by
  unfold State.goFigure
  split
  · simp [h]
  · exact Made.ite (by simp [h]) (Made.ite (by simp [h]) (by simp [h]))

@[simp] theorem made_stopAll (h : Made s t) : Made s t.stopAll :=
  made_withdrawLive (made_purgeAll (made_cancelAll _ (made_emptyShows h)))

@[simp] theorem made_takeCue (p : List Byte) (h : Made s t) : Made s (t.takeCue p) := by
  unfold State.takeCue
  refine Made.ite (by simp [h]) ?_
  split
  · simp [h]
  · refine Made.ite (by simp [h]) ?_
    unfold State.carryCue
    split <;> simp [h]

@[simp] theorem made_cueFrame (f : List Byte) (r : CueRow) (h : Made s t) : Made s (t.cueFrame f r) := by
  unfold State.cueFrame; exact Made.ite (by simp [h]) h

end Sys2Proof.Machine
end

