-- ==== Sys2Proof/Laws/Commands.lean ====
section
/-! SUPPORT. The management unit and the link: what each request and each port operation keeps. -/

namespace Sys2Proof.Machine

variable {s t : State}

/-! Writes. -/

/-- A judged write refuses and changes nothing, or stores its record at its index (R171). -/
theorem judgeWrite_cases {α : Type} (n index : Nat) (r : Option α) (valid busy : Fin n → α → Bool)
    (store : Fin n → α → State) (s : State) :
    (judgeWrite n index r valid busy store s).2 = s ∨
      ∃ i x, r = some x ∧ i.val = index ∧ valid i x = true ∧ busy i x = false ∧
        judgeWrite n index r valid busy store s = (.ok, store i x) := by
  unfold judgeWrite fin?
  by_cases c : index < n
  · rw [dif_pos c]
    cases r with
    | none => exact .inl rfl
    | some x =>
      dsimp only
      cases v : valid ⟨index, c⟩ x
      · exact .inl rfl
      · cases b : busy ⟨index, c⟩ x
        · exact .inr ⟨⟨index, c⟩, x, rfl, rfl, v, b, rfl⟩
        · exact .inl rfl
  · rw [dif_neg c]; exact .inl rfl

theorem keeps_judgeWrite {α : Type} (n index : Nat) (r : Option α) (valid busy : Fin n → α → Bool)
    (store : Fin n → α → State) (s : State) (ok : ∀ i x, busy i x = false → Keeps s (store i x)) :
    Keeps s (judgeWrite n index r valid busy store s).2 := by
  rcases judgeWrite_cases n index r valid busy store s with e | ⟨i, x, _, _, _, b, e⟩
  · rw [e]; exact .refl s
  · rw [e]; exact ok i x b

theorem keeps_inConfig (w : Status × State) (h : Keeps s w.2) : Keeps s (inConfig s w).2 := by
  unfold inConfig; split
  · exact .refl s
  · exact h

theorem keeps_storeBell (i : Fin 48) (r : BellRec) : Keeps s (s.storeBell i r) :=
  .of_parts rfl rfl rfl rfl rfl rfl rfl rfl rfl rfl

theorem unhome_state (u : State) (f : Fin 16) : (u.unhome f).figs[f].state = .unhomed := by
  unfold State.unhome; rw [modFig_figs_self]

theorem keeps_setFigRec (f : Fin 16) (r : FigRec) : Keeps s (s.setFigRec f r) :=
  .of_parts rfl rfl rfl rfl rfl rfl rfl rfl rfl rfl

theorem keeps_storeFigure (f : Fin 16) (r : FigRec) : Keeps s (s.storeFigure f r) := by
  unfold State.storeFigure
  dsimp only
  split
  · refine (keeps_setFigRec f r).trans (Made.keeps (made_modFig f _ (.of_rest (.inl rfl) ?_)
      (made_unhome f (Made.refl _))))
    show ((s.setFigRec f r).unhome f).figs[f].state.holdsPath = false
    rw [unhome_state]; rfl
  · exact keeps_setFigRec f r

theorem keeps_storeBoard (b : Fin 32) (r : BoardRec) : Keeps s (s.storeBoard b r) := by
  unfold State.storeBoard
  dsimp only
  split <;> exact .of_parts rfl rfl rfl rfl rfl rfl rfl rfl rfl rfl

/-- A group that holds no current has sums of 0. -/
theorem sums_of_free (g : Fin 4) (free : s.groupBusy g = false) : s.strikeSum g = 0 ∧ s.motorSum g = 0 := by
  unfold State.groupBusy at free
  rw [Bool.or_eq_false_iff] at free
  obtain ⟨a, m⟩ := free
  constructor
  · unfold State.strikeSum
    have none : s.strikeAccount.filter (fun x => decide (x.group = g)) = [] := by
      rw [List.filter_eq_nil_iff]
      intro x hx
      have := List.any_eq_false.1 a x hx
      exact this
    rw [none]; rfl
  · unfold State.motorSum
    have zero : ∀ f, s.motorShare g f = 0 := by
      intro f
      unfold State.motorAccount at m
      rw [Bool.not_eq_false', List.isEmpty_iff, List.filterMap_eq_nil_iff] at m
      have mf := m f (mem_indices f)
      unfold State.motorShare
      cases ad : s.figs[f].admitted with
      | none => rfl
      | some x =>
        obtain ⟨ma, h⟩ := x
        rw [ad] at mf
        dsimp only at mf ⊢
        split at mf
        · cases mf
        · rename_i ne; rw [if_neg ne]
    have e : s.motorShare g = fun _ => 0 := funext zero
    rw [e]; decide

theorem keeps_setGroup (g : Fin 4) (r : GroupRec) (free : s.groupBusy g = false) : Keeps s (s.setGroup g r) := by
  obtain ⟨z1, z2⟩ := sums_of_free g free
  refine ⟨rfl, State.withinCapacity_congr rfl rfl rfl rfl rfl, id, ?_, id, State.balanced_congr rfl⟩
  intro k y
  have e1 : (s.setGroup g r).strikeSum y = s.strikeSum y := rfl
  have e2 : (s.setGroup g r).motorSum y = s.motorSum y := State.motorSum_congr rfl y
  rw [e1, e2]
  by_cases c : y = g
  · subst c; rw [z1, z2]; exact Nat.zero_le _
  · have e3 : (s.setGroup g r).groups[y] = s.groups[y] := by
      have ne : ¬(g.val = y.val) := fun h => c (Fin.ext h.symm)
      simp only [State.setGroup, Fin.getElem_fin, Vector.getElem_set, if_neg ne]
    rw [e3]; exact k y

theorem banked_writeSchedule (sel : Nat) (item : ScheduleItem) (h : Banked s t) : Banked s (t.writeSchedule sel item).2 := by
  unfold State.writeSchedule
  split
  · exact h
  · split
    · exact h
    · split
      · exact h
      · split
        · dsimp only
          exact banked_modCalendar _ (Calendar.modBank_vectors _ _ _) h
        · exact h
      · split
        · dsimp only
          exact banked_modCalendar _ (Calendar.modBank_vectors _ _ _) h
        · exact h
      · exact h
      · exact h

/-! The other requests. -/

theorem timed_clearAll (u : State) : Timed u u.clearAll := by
  have figs : ∀ f : Fin 16, FigOk u.figs[f] u.clearAll.figs[f] := by
    intro f
    have e : u.clearAll.figs[f] = u.figs[f].clearCounters := by
      show (u.figs.map Figure.clearCounters)[f] = _
      simp only [Fin.getElem_fin, Vector.getElem_map]
    rw [e]; exact .of_same (.inl rfl) rfl rfl
  have supply : u.withinSupply → u.clearAll.withinSupply := by
    intro k g
    have le : u.clearAll.motorSum g ≤ u.motorSum g := sum_map_le _ _ _ (fun f => motorShare_le u _ g f (figs f).1)
    have e1 : u.clearAll.strikeSum g = u.strikeSum g := rfl
    have e2 : u.clearAll.groups = u.groups := rfl
    have kg := k g
    rw [e1, e2]
    omega
  refine ⟨⟨rfl, id, id, supply, ?_, ?_⟩, rfl, id⟩
  · intro k f up z m
    obtain ⟨w, n⟩ := (figs f).2 up
    exact k f w z (n ▸ m)
  · intro _ _
    show u.held = 0 + 0 + 0 + 0 + u.held
    omega

@[simp] theorem made_enterEngine (e : EngineState) (h : Made s t) : Made s (t.enterEngine e) :=
  h.trans ⟨⟨rfl, id, id, id, id, id⟩, rfl, rfl, rfl⟩

@[simp] theorem made_startEngine (h : Made s t) : Made s t.startEngine := by
  unfold State.startEngine
  have base := made_judgeAfter t (made_derive (made_enterEngine .run h))
  exact Made.ite (made_homeAll base) base

@[simp] theorem made_stopEngine (h : Made s t) : Made s t.stopEngine :=
  made_enterEngine _ (made_withdrawAll (made_restFigures (made_purgeAll (made_cancelAll _ (made_emptyShows h)))))

/-- After a purge of every entry the launch queue holds nothing (R67, R73). -/
theorem purgeAll_held (u : State) : u.purgeAll.launch.waiting = [] ∧ u.purgeAll.launch.assembly = [] := by
  have notice : ∀ (v : State) (n : Nat), (v.noticeRoom n).launch = v.launch := by
    intro v n; unfold State.noticeRoom; split <;> rfl
  have offer : ∀ (fs : List OpenFrame) (v : State), (fs.foldl State.offerFrame v).launch.waiting = v.launch.waiting ∧
      (fs.foldl State.offerFrame v).launch.assembly = v.launch.assembly := by
    intro fs
    induction fs with
    | nil => exact fun v => ⟨rfl, rfl⟩
    | cons f fs ih =>
      intro v
      obtain ⟨a, b⟩ := ih (v.offerFrame f)
      have e : (v.offerFrame f).launch.waiting = v.launch.waiting ∧ (v.offerFrame f).launch.assembly = v.launch.assembly := by
        unfold State.offerFrame; split <;> exact ⟨rfl, rfl⟩
      exact ⟨a.trans e.1, b.trans e.2⟩
  have none : ∀ l : List LaunchEntry, l.filter (fun e => !(fun _ => true) e) = [] := by
    intro l; induction l with
    | nil => rfl
    | cons x xs ih => exact ih
  unfold State.purgeAll State.purge
  dsimp only
  rw [notice]
  unfold State.endBatch State.headDue State.closeFrames
  simp only [State.modLaunch_launch, none, Bool.false_eq_true, if_false]
  refine ⟨(offer _ _).1.trans rfl, (offer _ _).2.trans ?_⟩
  show u.launch.assembly.filter (fun _ => !true) = []
  rw [List.filter_eq_nil_iff]
  exact fun _ _ h => Bool.noConfusion h

theorem made_resetLaunch (h : Made s t) : Made s t.resetLaunch := by
  obtain ⟨w, a⟩ := purgeAll_held t
  have base := made_purgeAll h
  unfold State.resetLaunch
  refine Owing.made (base.owing.modLaunch _ (Nat.le_refl _) id ?_)
  intro _ _
  rw [held_modLaunch]
  dsimp only
  rw [w, a]
  rfl

theorem made_resetEngine (u : State) : Made u u.resetEngine := by
  have base := made_resetLaunch (Made.refl u)
  unfold State.resetEngine
  dsimp only
  have m3 : Made u ((((u.resetLaunch.modRuns (fun _ => Run.initial)).modShowUnit
      (fun _ => ShowUnit.initial)).modCalendarCounters (fun _ => CalendarCounters.zero)).setBells
      (Vector.replicate 48 (BellState.initial u.now))) :=
    made_setBells _ (made_modCalendarCounters _ (made_modShowUnit_of_le _ (.inl (Nat.zero_le _)) (made_modRuns _ base)))
  have m4 := made_modFigs (fun _ => Figure.initial) (fun x => FigOk.of_rest (x := x) (.inr rfl) rfl) m3
  have rests : ∀ f : Fin 16, (State.modFigs ((((u.resetLaunch.modRuns (fun _ => Run.initial)).modShowUnit
      (fun _ => ShowUnit.initial)).modCalendarCounters (fun _ => CalendarCounters.zero)).setBells
      (Vector.replicate 48 (BellState.initial u.now))) (fun _ => Figure.initial)).figs[f].state.holdsPath = false := by
    intro f
    simp only [State.modFigs, Fin.getElem_fin, Vector.getElem_map]
    rfl
  have m5 := made_setZones (fun _ => none) (fun f z up _ => by rw [rests f] at up; cases up) m4
  refine made_enterEngine _ (made_resetStops ?_)
  unfold State.resetBoards
  refine made_setStrikeAccount _ (List.nil_sublist _) (made_modBoardUnit _ (made_modBoards _ ?_))
  exact made_modTail _ (.inr (Nat.le_refl _)) (.inl (Nat.zero_le _)) (.inr (Nat.le_refl _)) m5

theorem banked_seasonSwitch (base : Nat) (h : Banked s t) : Banked s (t.seasonSwitch base).2 := by
  have refuse : ∀ a b, Banked s (t.refuseSwitch a b) := fun a b =>
    h.trans (Made.banked (made_raise _ _ _ (made_modCalendarCounters _ (Made.refl _))))
  unfold State.seasonSwitch
  split
  · exact h
  · split
    · exact refuse _ _
    · split
      · dsimp only
        exact banked_modCalendar _ rfl h
      · dsimp only
        split
        · exact refuse _ _
        · exact banked_takeSwitch _ _ h

theorem made_seasonCancel (h : Made s t) : Made s t.seasonCancel.2 := by
  unfold State.seasonCancel
  split
  · dsimp only
    exact made_modCalendar _ rfl rfl h
  · exact h

theorem made_homeFigure (f : Nat) (h : Made s t) : Made s (t.homeFigure f).2 := by
  unfold State.homeFigure
  repeat' split
  all_goals simp [h]

theorem made_clearFigures (fs : List (Fin 16)) (h : Made s t) : Made s (t.clearFigures fs).2 := by
  unfold State.clearFigures
  split
  · exact Made.foldl (fun u f => made_judgeAfter u (made_clearFigure f (Made.refl u))) _ h
  · split <;> exact h

theorem made_faultClear (scope index : Nat) (h : Made s t) : Made s (t.faultClear scope index).2 := by
  unfold State.faultClear
  repeat' split
  all_goals first | exact h | exact made_clearFigures _ h

/-! The request carried out, and its response. -/

/-- Every request keeps the invariants that do not speak of the clock. -/
theorem keeps_carryOut (r : Request) (u : State) : Keeps u (carryOut r u).2 := by
  unfold carryOut plainReply
  split
  · exact .refl u
  · exact keeps_judgeWrite _ _ _ _ _ _ _ (fun _ _ _ => .of_parts rfl rfl rfl rfl rfl rfl rfl rfl rfl rfl)
  · exact keeps_judgeWrite _ _ _ _ _ _ _ (fun i x _ => keeps_storeBell i x)
  · exact keeps_judgeWrite _ _ _ _ _ _ _ (fun _ _ _ => .of_parts rfl rfl rfl rfl rfl rfl rfl rfl rfl rfl)
  · exact keeps_judgeWrite _ _ _ _ _ _ _ (fun _ _ _ => .of_parts rfl rfl rfl rfl rfl rfl rfl rfl rfl rfl)
  · exact keeps_judgeWrite _ _ _ _ _ _ _ (fun _ _ _ => .of_parts rfl rfl rfl rfl rfl rfl rfl rfl rfl rfl)
  · exact keeps_judgeWrite _ _ _ _ _ _ _ (fun _ _ _ => .of_parts rfl rfl rfl rfl rfl rfl rfl rfl rfl rfl)
  · exact keeps_judgeWrite _ _ _ _ _ _ _ (fun _ _ _ => .of_parts rfl rfl rfl rfl rfl rfl rfl rfl rfl rfl)
  · exact (banked_writeSchedule _ _ (Made.refl u).banked).keeps
  · exact keeps_judgeWrite _ _ _ _ _ _ _ (fun f x _ =>
      (keeps_storeFigure f x).trans (made_judgeAfter _ (Made.refl _)).keeps)
  · exact keeps_inConfig _ (keeps_judgeWrite _ _ _ _ _ _ _ (fun b x _ => keeps_storeBoard b x))
  · exact keeps_inConfig _ (keeps_judgeWrite _ _ _ _ _ _ _ (fun g x free => keeps_setGroup g x free))
  · exact keeps_inConfig _ (keeps_judgeWrite _ _ _ _ _ _ _ (fun _ _ _ => ⟨rfl, id, id, id, id, id⟩))
  · exact .refl u
  · exact (timed_clearAll u).keeps
  · split
    · exact .refl u
    · exact (made_startEngine (Made.refl u)).keeps
  · split
    · exact (made_stopEngine (Made.refl u)).keeps
    · exact .refl u
  · exact (made_resetEngine u).keeps
  · exact (banked_seasonSwitch _ (Made.refl u).banked).keeps
  · exact (made_seasonCancel (Made.refl u)).keeps
  · exact (made_homeFigure _ (Made.refl u)).keeps
  · exact (made_faultClear _ _ (Made.refl u)).keeps
  · exact ⟨rfl, id, id, id, id, id⟩

@[simp] theorem made_placeResponse (r : List Byte) (h : Made s t) : Made s (t.placeResponse r) := by
  unfold State.placeResponse
  split
  · refine made_modHead _ (.inr (Nat.le_refl _)) (.inl ?_) h
    simp only [List.length_append, List.length_cons, List.length_nil]
    omega
  · exact made_modHead _ (.inr (Nat.le_refl _)) (.inr (Nat.le_refl _)) h

@[simp] theorem made_afterEcho (p : List Byte) (h : Made s t) : Made s (t.afterEcho p) := by
  unfold State.afterEcho; exact Made.ite (by simp [h]) h

@[simp] theorem made_overrun (h : Made s t) : Made s t.overrun := made_modClassifier _ h

theorem keeps_answerRequest (p : List Byte) (u : State) : Keeps u (u.answerRequest p).2 := by
  unfold State.answerRequest
  split
  · exact .refl u
  · exact keeps_carryOut _ u

/-- A request, whatever it asks, keeps the invariants that do not speak of the clock. -/
theorem keeps_requestFrame (f : List Byte) (r : RequestRow) (u : State) : Keeps u (u.requestFrame f r) := by
  unfold State.requestFrame State.takeRequest
  split
  · split
    · exact (made_overrun (Made.refl u)).keeps
    · exact (keeps_answerRequest _ u).trans (made_afterEcho _ (made_placeResponse _ (Made.refl _))).keeps
  · exact .refl u

/-! The request and the cue that reach their block. -/

/-- The row of a frame that reaches the management unit is its request's. -/
theorem reaches_iff (u : State) (f : List Byte) (r : RequestRow) :
    u.reaches f r = true ↔ u.fixedPath .head f .management = true ∧ requestRow (framePayload f) = r ∧
      u.head.pendingResponse = none := by
  unfold State.reaches fitsRequest
  have imp : u.fixedPath .head f .management = true → fitsBlock .head f .management = true := by
    intro h
    unfold State.fixedPath at h
    exact (Bool.and_eq_true _ _ ▸ h : _ ∧ _).1
  simp only [Bool.and_eq_true, decide_eq_true_eq, Option.isNone_iff_eq_none]
  exact ⟨fun ⟨⟨a, _, b⟩, c⟩ => ⟨a, b, c⟩, fun ⟨a, b, c⟩ => ⟨⟨a, imp a, b⟩, c⟩⟩

/-- A request that can be read has its tag and its code. -/
theorem readRequest_length (p : List Byte) (q : Request) (h : readRequest p = some q) : 2 ≤ p.length := by
  unfold readRequest at h
  by_cases c : p.length < 2
  · rw [if_pos c] at h; cases h
  · omega

/-- A request that reaches the management unit is carried out and answered (R20, R171). -/
theorem requestFrame_reached (u : State) (f : List Byte) (r : RequestRow) (q : Request) (h : u.reaches f r = true)
    (e : readRequest (framePayload f) = some q) :
    u.requestFrame f r = (carryOut q u).2.placeResponse (u.responseFrame f (carryOut q u).1) := by
  obtain ⟨a, b, c⟩ := (reaches_iff u f r).1 h
  have fits : (u.fixedPath .head f .management && fitsRequest f r) = true := by
    unfold State.reaches at h
    exact (Bool.and_eq_true _ _ ▸ h : _ ∧ _).1
  have long := readRequest_length _ _ e
  unfold State.requestFrame State.takeRequest State.answerRequest State.afterEcho
  rw [if_pos fits, e, c]
  simp only [Option.isSome_none, Bool.false_eq_true, if_false]
  rw [if_neg (by omega)]

/-- The response frame depends on the node address and the count of free values alone. -/
theorem responseFrame_congr {u v : State} (node : v.node = u.node) (free : v.freeCount = u.freeCount) (f : List Byte)
    (r : Reply) : v.responseFrame f r = u.responseFrame f r := by
  unfold State.responseFrame State.echoed; rw [node, free]

/-- A request that is answered from the state it leaves. -/
theorem requestFrame_responds (u v : State) (f : List Byte) (r : RequestRow) (q : Request) (x : Reply)
    (h : u.reaches f r = true) (e : readRequest (framePayload f) = some q) (out : carryOut q u = (x, v))
    (node : v.node = u.node) (free : v.freeCount = u.freeCount) : u.requestFrame f r = v.respond f x := by
  rw [requestFrame_reached u f r q h e, out, State.respond, responseFrame_congr node free]

/-- A frame of another row, or one that does not reach its block, changes nothing. -/
theorem requestFrame_off (u : State) (f : List Byte) (r : RequestRow)
    (h : (u.fixedPath .head f .management && fitsRequest f r) = false) : u.requestFrame f r = u := by
  unfold State.requestFrame; rw [h]; rfl

/-- The row of a frame that reaches cue handling is its cue's. -/
theorem cued_iff (u : State) (f : List Byte) (r : CueRow) :
    u.cued f r = true ↔ u.fixedPath .head f .cues = true ∧ cueRow (framePayload f) = r := by
  unfold State.cued fitsCue
  have imp : u.fixedPath .head f .cues = true → fitsBlock .head f .cues = true := by
    intro h
    unfold State.fixedPath at h
    exact (Bool.and_eq_true _ _ ▸ h : _ ∧ _).1
  simp only [Bool.and_eq_true, decide_eq_true_eq]
  exact ⟨fun ⟨a, _, b⟩ => ⟨a, b⟩, fun ⟨a, b⟩ => ⟨a, imp a, b⟩⟩

/-- A cue that reaches cue handling in RUN, with the clock set if it names a time, is carried out (R173). -/
theorem cueFrame_carried (u : State) (f : List Byte) (r : CueRow) (c : Cue) (h : u.cued f r = true)
    (run : u.mgmt.engine = .run) (e : readCue (framePayload f) = some c)
    (timed : c.timed = false ∨ u.clock.state ≠ .unset) : u.cueFrame f r = u.carryCue c := by
  have running : u.running = true := decide_eq_true run
  have k : (c.timed && decide (u.clock.state = .unset)) = false := by
    rcases timed with t | t
    · rw [t]; rfl
    · rw [decide_eq_false t, Bool.and_false]
  unfold State.cueFrame State.takeCue
  have h' : (u.fixedPath .head f .cues && fitsCue f r) = true := h
  rw [if_pos h', running, e]
  simp only [Bool.true_eq_false, if_false, k, Bool.false_eq_true]

/-! The link. -/

@[simp] theorem made_forwardFrame (p : Port) (f : List Byte) (h : Made s t) : Made s (t.forwardFrame p f) := by
  unfold State.forwardFrame
  cases p
  · dsimp only
    split
    · refine made_modTail _ (.inr (Nat.le_refl _)) (.inr (Nat.le_refl _)) (.inl ?_) h
      simp only [List.length_append, List.length_cons, List.length_nil]
      omega
    · exact made_modPortCounters _ _ h
  · dsimp only
    split
    · refine made_modHead _ (.inl ?_) (.inr (Nat.le_refl _)) h
      simp only [List.length_append, List.length_cons, List.length_nil]
      omega
    · exact made_modPortCounters _ _ h

@[simp] theorem made_unknownKind (h : Made s t) : Made s t.unknownKind := made_modClassifier _ h

@[simp] theorem made_misdirected (h : Made s t) : Made s t.misdirected := made_modClassifier _ h

@[simp] theorem made_boardAction (f : List Byte) (h : Made s t) : Made s (t.boardAction f) := by
  unfold State.boardAction
  exact Made.ite (by simp [h]) (Made.ite (by simp [h]) (by simp [h]))

/-- A verdict's action, which may correct the clock. -/
theorem timed_actOn (u : State) (a : Action) (p : Port) (f : List Byte) : Timed u (u.actOn a p f) := by
  unfold State.actOn
  split
  case h_3 => exact timed_takeBeacon u _
  all_goals exact Made.timed (by simp)

theorem timed_classify (u : State) (p : Port) (f : List Byte) : Timed u (u.classify p f) := by
  have base : Made u (u.modClassifier (fun _ => (u.walk p f).2)) := made_modClassifier _ (Made.refl u)
  unfold State.classify State.carryVerdict
  dsimp only
  split
  · exact (made_modClassifier _ base).timed
  · have acted := base.timed.trans (timed_actOn (u.modClassifier (fun _ => (u.walk p f).2)) (u.walk p f).1.action p f)
    split
    · exact acted.trans (made_forwardFrame p f (Made.refl _)).timed
    · exact acted

@[simp] theorem made_startPass (h : Made s t) : Made s t.startPass := by
  unfold State.startPass
  split
  · exact h
  · rename_i e
    refine made_modTail _ (.inr (Nat.le_refl _)) (.inr (Nat.le_refl _)) (.inr ?_) h
    rw [e]; exact Nat.le_succ _

@[simp] theorem made_chooseTail (h : Made s t) : Made s t.chooseTail := by
  unfold State.chooseTail
  split
  · rename_i e
    refine made_modTail _ (.inr ?_) (.inr (Nat.le_refl _)) (.inr (Nat.le_refl _)) h
    rw [e]; exact Nat.le_succ _
  · refine Made.ite h ?_
    split <;> simp [h]

@[simp] theorem made_tailFree (h : Made s t) : Made s t.tailFree :=
  made_chooseTail (made_modTail _ (.inr (Nat.le_refl _)) (.inr (Nat.le_refl _)) (.inr (Nat.le_refl _)) h)

theorem dropFirst_length_le {α : Type} (p : α → Bool) (l : List α) : (dropFirst p l).length ≤ l.length := by
  induction l with
  | nil => exact Nat.le_refl _
  | cons x xs ih => unfold dropFirst; split <;> simp only [List.length_cons] <;> omega

@[simp] theorem made_startReport (b : Bool) (r : ReportFrame) (h : Made s t) : Made s (t.startReport b r) :=
  made_modHead _ (.inr (Nat.le_refl _)) (.inr (dropFirst_length_le _ _)) h

@[simp] theorem made_turnTo (x : Turn) (h : Made s t) : Made s (t.turnTo x) :=
  made_modHead _ (.inr (Nat.le_refl _)) (.inr (Nat.le_refl _)) h

@[simp] theorem made_startInbound (h : Made s t) : Made s t.startInbound := by
  unfold State.startInbound
  split
  · exact h
  · rename_i e
    refine made_turnTo _ (made_modHead _ (.inr ?_) (.inr (Nat.le_refl _)) h)
    rw [e]; exact Nat.le_succ _

@[simp] theorem made_chooseHead (h : Made s t) : Made s t.chooseHead := by
  unfold State.chooseHead
  split
  · simp [h]
  · split
    · simp [h]
    · exact Made.ite (by simp [h]) (by simp [h])

@[simp] theorem made_headFree (h : Made s t) : Made s t.headFree :=
  made_chooseHead (made_modHead _ (.inr (Nat.le_refl _)) (.inr (Nat.le_refl _)) h)

@[simp] theorem made_placePending (h : Made s t) : Made s t.placePending := by
  unfold State.placePending
  split
  · exact h
  · split
    · refine made_modHead _ (.inr (Nat.le_refl _)) (.inl ?_) h
      simp only [List.length_append, List.length_cons, List.length_nil]
      omega
    · exact h

/-- EVENT_REPORT_FORM. -/
@[simp] theorem made_formReport (h : Made s t) : Made s t.formReport := by
  unfold State.formReport
  split
  · rename_i can
    have room : t.head.reportQueue.length < 8 := by
      unfold State.canReport at can
      simp only [Bool.and_eq_true, decide_eq_true_eq] at can
      exact can.1.1.2
    refine h.trans ⟨⟨rfl, fun k => ?_, id, State.withinSupply_congr rfl rfl rfl, id, id⟩, rfl, rfl, rfl⟩
    obtain ⟨c1, c2, c3, c4, c5, c6, c7, c8, c9⟩ := k
    refine ⟨c1, ?_, c3, c4, c5, ?_, Nat.zero_le _, c8, c9⟩
    · show (t.head.reportQueue ++ [_]).length ≤ 8
      simp only [List.length_append, List.length_cons, List.length_nil]
      omega
    · show (t.mgmt.events.drop 4).length ≤ 32
      rw [List.length_drop]; omega
  · exact h

end Sys2Proof.Machine
end

