-- ==== Sys2Proof/WellFormed.lean ====
section
/-! DEFINITION. The well-formed commands: the checks on a command that need no state. A frame row must carry
a frame of that row: its bytes pass or fail the checks of R12 as the row says, and its KIND and payload are
the row's. The rows that are the engine's own events have nothing to check: their operands are of index types. -/

namespace Sys2Proof

open Sys2Proof.Machine

/-- Whether a command is well formed. -/
def Instr.wellFormed : Instr → Bool
  | .powerOn _ => true
  | .localMillisecond => true
  | .malformed _ f => reception f = .malformed
  | .crcError _ f => reception f = .crcError
  | .unknownKind p f => reception f = .arrived && (fixedBlock p (frameKind f)).isNone
  | .classifierWalk _ f => reception f = .arrived
  | .beacon f => fitsBlock .head f .clock
  | .beaconLost => true
  | .quiet f => fitsBlock .head f .calendar
  | .quietExpiry => true
  | .strikeCue f => fitsCue f .strike
  | .motifPlay f => fitsCue f .motifPlay
  | .showStart f => fitsCue f .showStart
  | .showStop f => fitsCue f .showStop
  | .figureGo f => fitsCue f .figureGo
  | .allStop f => fitsCue f .allStop
  | .unknownCueType f => fitsCue f .unreadable
  | .readRecord f => fitsRequest f .readRecord
  | .writeParse f => fitsRequest f .writeParse
  | .writeBell f => fitsRequest f .writeBell
  | .writeMotifDir f => fitsRequest f .writeMotifDir
  | .writeMotifRow f => fitsRequest f .writeMotifRow
  | .writeShow f => fitsRequest f .writeShow
  | .writeMove f => fitsRequest f .writeMove
  | .writeVector f => fitsRequest f .writeVector
  | .writeSchedule f => fitsRequest f .writeSchedule
  | .writeFigure f => fitsRequest f .writeFigure
  | .writeBoard f => fitsRequest f .writeBoard
  | .writeGroup f => fitsRequest f .writeGroup
  | .writeSettings f => fitsRequest f .writeSettings
  | .readState f => fitsRequest f .readState
  | .clearCounters f => fitsRequest f .clearCounters
  | .engineRun f => fitsRequest f .engineRun
  | .engineStop f => fitsRequest f .engineStop
  | .engineReset f => fitsRequest f .engineReset
  | .seasonSwitch f => fitsRequest f .seasonSwitch
  | .seasonCancel f => fitsRequest f .seasonCancel
  | .figureHome f => fitsRequest f .figureHome
  | .faultClear f => fitsRequest f .faultClear
  | .setEventMask f => fitsRequest f .setEventMask
  | .unknownRequest f => fitsRequest f .unreadable
  | .boardAnswer f => fitsBlock .tail f .boardAnswer
  | .boardStatus f => fitsBlock .tail f .boardStatus
  | .fireHeadEntry => true
  | .strikeWindowEnd => true
  | .expansionStep _ => true
  | .runPauseResume _ => true
  | .runComplete _ => true
  | .barrierMarkTime _ => true
  | .barrierClear _ => true
  | .holdDeadline _ => true
  | .moveStartTime _ => true
  | .showAdmission => true
  | .entryLeadJudge => true
  | .zoneGrant => true
  | .figureSupplyAdmit _ => true
  | .zoneWaitDeadline _ => true
  | .travelDeadline _ => true
  | .homingDeadline _ => true
  | .answerTimeout _ => true
  | .rejectHoldoffEnd _ => true
  | .statusDeadline _ => true
  | .commandQueuePlace => true
  | .cycleRestart => true
  | .entryTime => true
  | .triggerTime => true
  | .pendingSwitchBase => true
  | .tailPortFree => true
  | .headPortFree => true
  | .pendingResponsePlace => true
  | .eventReportForm => true

end Sys2Proof
end

