-- ==== Sys2Proof/Laws/PerInstr.lean ====
section
/-! SUPPORT. The family Frames: what a well-formed command says of the frame it carries, one lemma for each command. A
command that carries no frame has nothing to say. -/

namespace Sys2Proof.Laws.Frames

open Sys2Proof.Machine

/-- The frame a command carries, if it carries one. -/
def frameOf : Instr → Option (List Byte)
  | .malformed _ f => some f
  | .crcError _ f => some f
  | .unknownKind _ f => some f
  | .classifierWalk _ f => some f
  | .beacon f => some f
  | .quiet f => some f
  | .strikeCue f => some f
  | .motifPlay f => some f
  | .showStart f => some f
  | .showStop f => some f
  | .figureGo f => some f
  | .allStop f => some f
  | .unknownCueType f => some f
  | .readRecord f => some f
  | .writeParse f => some f
  | .writeBell f => some f
  | .writeMotifDir f => some f
  | .writeMotifRow f => some f
  | .writeShow f => some f
  | .writeMove f => some f
  | .writeVector f => some f
  | .writeSchedule f => some f
  | .writeFigure f => some f
  | .writeBoard f => some f
  | .writeGroup f => some f
  | .writeSettings f => some f
  | .readState f => some f
  | .clearCounters f => some f
  | .engineRun f => some f
  | .engineStop f => some f
  | .engineReset f => some f
  | .seasonSwitch f => some f
  | .seasonCancel f => some f
  | .figureHome f => some f
  | .faultClear f => some f
  | .setEventMask f => some f
  | .unknownRequest f => some f
  | .boardAnswer f => some f
  | .boardStatus f => some f
  | _ => none

/-- What reception finds in the frame of a command: the row's own finding, or a frame that has arrived (R12). -/
def found : Instr → Reception
  | .malformed _ _ => .malformed
  | .crcError _ _ => .crcError
  | _ => .arrived

/-- A well-formed command carries a frame in which reception finds what its row says (R12). -/
def Statement (i : Instr) : Prop := i.wellFormed = true → ∀ f, frameOf i = some f → reception f = found i

/-- A frame that fits a block has arrived. -/
theorem arrived_of_fitsBlock {p : Port} {f : List Byte} {b : FixedBlock} (h : fitsBlock p f b = true) :
    reception f = .arrived := by
  unfold fitsBlock at h
  rw [Bool.and_eq_true] at h
  exact of_decide_eq_true h.1

/-- A cue of a row has arrived. -/
theorem arrived_of_fitsCue {f : List Byte} {r : CueRow} (h : fitsCue f r = true) : reception f = .arrived := by
  unfold fitsCue at h
  rw [Bool.and_eq_true] at h
  exact arrived_of_fitsBlock h.1

/-- A request of a row has arrived. -/
theorem arrived_of_fitsRequest {f : List Byte} {r : RequestRow} (h : fitsRequest f r = true) :
    reception f = .arrived := by
  unfold fitsRequest at h
  rw [Bool.and_eq_true] at h
  exact arrived_of_fitsBlock h.1

theorem powerOn (x : Byte) : Statement (.powerOn x) := fun _ _ e => nomatch e
theorem localMillisecond : Statement .localMillisecond := fun _ _ e => nomatch e
theorem malformed (p : Port) (f : List Byte) : Statement (.malformed p f) :=
  fun h g e => by cases e; exact of_decide_eq_true h
theorem crcError (p : Port) (f : List Byte) : Statement (.crcError p f) :=
  fun h g e => by cases e; exact of_decide_eq_true h
theorem unknownKind (p : Port) (f : List Byte) : Statement (.unknownKind p f) := fun h g e => by
  cases e
  simp only [Instr.wellFormed, Bool.and_eq_true] at h
  exact of_decide_eq_true h.1
theorem classifierWalk (p : Port) (f : List Byte) : Statement (.classifierWalk p f) :=
  fun h g e => by cases e; exact of_decide_eq_true h
theorem beacon (f : List Byte) : Statement (.beacon f) := fun h g e => by cases e; exact arrived_of_fitsBlock h
theorem beaconLost : Statement .beaconLost := fun _ _ e => nomatch e
theorem quiet (f : List Byte) : Statement (.quiet f) := fun h g e => by cases e; exact arrived_of_fitsBlock h
theorem quietExpiry : Statement .quietExpiry := fun _ _ e => nomatch e
theorem strikeCue (f : List Byte) : Statement (.strikeCue f) := fun h g e => by cases e; exact arrived_of_fitsCue h
theorem motifPlay (f : List Byte) : Statement (.motifPlay f) := fun h g e => by cases e; exact arrived_of_fitsCue h
theorem showStart (f : List Byte) : Statement (.showStart f) := fun h g e => by cases e; exact arrived_of_fitsCue h
theorem showStop (f : List Byte) : Statement (.showStop f) := fun h g e => by cases e; exact arrived_of_fitsCue h
theorem figureGo (f : List Byte) : Statement (.figureGo f) := fun h g e => by cases e; exact arrived_of_fitsCue h
theorem allStop (f : List Byte) : Statement (.allStop f) := fun h g e => by cases e; exact arrived_of_fitsCue h
theorem unknownCueType (f : List Byte) : Statement (.unknownCueType f) :=
  fun h g e => by cases e; exact arrived_of_fitsCue h
theorem readRecord (f : List Byte) : Statement (.readRecord f) :=
  fun h g e => by cases e; exact arrived_of_fitsRequest h
theorem writeParse (f : List Byte) : Statement (.writeParse f) :=
  fun h g e => by cases e; exact arrived_of_fitsRequest h
theorem writeBell (f : List Byte) : Statement (.writeBell f) := fun h g e => by cases e; exact arrived_of_fitsRequest h
theorem writeMotifDir (f : List Byte) : Statement (.writeMotifDir f) :=
  fun h g e => by cases e; exact arrived_of_fitsRequest h
theorem writeMotifRow (f : List Byte) : Statement (.writeMotifRow f) :=
  fun h g e => by cases e; exact arrived_of_fitsRequest h
theorem writeShow (f : List Byte) : Statement (.writeShow f) := fun h g e => by cases e; exact arrived_of_fitsRequest h
theorem writeMove (f : List Byte) : Statement (.writeMove f) := fun h g e => by cases e; exact arrived_of_fitsRequest h
theorem writeVector (f : List Byte) : Statement (.writeVector f) :=
  fun h g e => by cases e; exact arrived_of_fitsRequest h
theorem writeSchedule (f : List Byte) : Statement (.writeSchedule f) :=
  fun h g e => by cases e; exact arrived_of_fitsRequest h
theorem writeFigure (f : List Byte) : Statement (.writeFigure f) :=
  fun h g e => by cases e; exact arrived_of_fitsRequest h
theorem writeBoard (f : List Byte) : Statement (.writeBoard f) :=
  fun h g e => by cases e; exact arrived_of_fitsRequest h
theorem writeGroup (f : List Byte) : Statement (.writeGroup f) :=
  fun h g e => by cases e; exact arrived_of_fitsRequest h
theorem writeSettings (f : List Byte) : Statement (.writeSettings f) :=
  fun h g e => by cases e; exact arrived_of_fitsRequest h
theorem readState (f : List Byte) : Statement (.readState f) := fun h g e => by cases e; exact arrived_of_fitsRequest h
theorem clearCounters (f : List Byte) : Statement (.clearCounters f) :=
  fun h g e => by cases e; exact arrived_of_fitsRequest h
theorem engineRun (f : List Byte) : Statement (.engineRun f) := fun h g e => by cases e; exact arrived_of_fitsRequest h
theorem engineStop (f : List Byte) : Statement (.engineStop f) :=
  fun h g e => by cases e; exact arrived_of_fitsRequest h
theorem engineReset (f : List Byte) : Statement (.engineReset f) :=
  fun h g e => by cases e; exact arrived_of_fitsRequest h
theorem seasonSwitch (f : List Byte) : Statement (.seasonSwitch f) :=
  fun h g e => by cases e; exact arrived_of_fitsRequest h
theorem seasonCancel (f : List Byte) : Statement (.seasonCancel f) :=
  fun h g e => by cases e; exact arrived_of_fitsRequest h
theorem figureHome (f : List Byte) : Statement (.figureHome f) :=
  fun h g e => by cases e; exact arrived_of_fitsRequest h
theorem faultClear (f : List Byte) : Statement (.faultClear f) :=
  fun h g e => by cases e; exact arrived_of_fitsRequest h
theorem setEventMask (f : List Byte) : Statement (.setEventMask f) :=
  fun h g e => by cases e; exact arrived_of_fitsRequest h
theorem unknownRequest (f : List Byte) : Statement (.unknownRequest f) :=
  fun h g e => by cases e; exact arrived_of_fitsRequest h
theorem boardAnswer (f : List Byte) : Statement (.boardAnswer f) :=
  fun h g e => by cases e; exact arrived_of_fitsBlock h
theorem boardStatus (f : List Byte) : Statement (.boardStatus f) :=
  fun h g e => by cases e; exact arrived_of_fitsBlock h
theorem fireHeadEntry : Statement .fireHeadEntry := fun _ _ e => nomatch e
theorem strikeWindowEnd : Statement .strikeWindowEnd := fun _ _ e => nomatch e
theorem expansionStep (x : Fin 4) : Statement (.expansionStep x) := fun _ _ e => nomatch e
theorem runPauseResume (x : Fin 4) : Statement (.runPauseResume x) := fun _ _ e => nomatch e
theorem runComplete (x : Fin 4) : Statement (.runComplete x) := fun _ _ e => nomatch e
theorem barrierMarkTime (x : Fin 4) : Statement (.barrierMarkTime x) := fun _ _ e => nomatch e
theorem barrierClear (x : Fin 4) : Statement (.barrierClear x) := fun _ _ e => nomatch e
theorem holdDeadline (x : Fin 4) : Statement (.holdDeadline x) := fun _ _ e => nomatch e
theorem moveStartTime (x : Fin 4) : Statement (.moveStartTime x) := fun _ _ e => nomatch e
theorem showAdmission : Statement .showAdmission := fun _ _ e => nomatch e
theorem entryLeadJudge : Statement .entryLeadJudge := fun _ _ e => nomatch e
theorem zoneGrant : Statement .zoneGrant := fun _ _ e => nomatch e
theorem figureSupplyAdmit (x : Fin 16) : Statement (.figureSupplyAdmit x) := fun _ _ e => nomatch e
theorem zoneWaitDeadline (x : Fin 16) : Statement (.zoneWaitDeadline x) := fun _ _ e => nomatch e
theorem travelDeadline (x : Fin 16) : Statement (.travelDeadline x) := fun _ _ e => nomatch e
theorem homingDeadline (x : Fin 16) : Statement (.homingDeadline x) := fun _ _ e => nomatch e
theorem answerTimeout (x : Fin 32) : Statement (.answerTimeout x) := fun _ _ e => nomatch e
theorem rejectHoldoffEnd (x : Fin 32) : Statement (.rejectHoldoffEnd x) := fun _ _ e => nomatch e
theorem statusDeadline (x : Fin 32) : Statement (.statusDeadline x) := fun _ _ e => nomatch e
theorem commandQueuePlace : Statement .commandQueuePlace := fun _ _ e => nomatch e
theorem cycleRestart : Statement .cycleRestart := fun _ _ e => nomatch e
theorem entryTime : Statement .entryTime := fun _ _ e => nomatch e
theorem triggerTime : Statement .triggerTime := fun _ _ e => nomatch e
theorem pendingSwitchBase : Statement .pendingSwitchBase := fun _ _ e => nomatch e
theorem tailPortFree : Statement .tailPortFree := fun _ _ e => nomatch e
theorem headPortFree : Statement .headPortFree := fun _ _ e => nomatch e
theorem pendingResponsePlace : Statement .pendingResponsePlace := fun _ _ e => nomatch e
theorem eventReportForm : Statement .eventReportForm := fun _ _ e => nomatch e

end Sys2Proof.Laws.Frames
end

