-- ==== Sys2Proof/Laws/Shows.lean ====
section
/-! SUPPORT. The show queue: the operations of runs, figures, boards and strikes leave it alone, and what a judgement of
the head does, said without counting the entries. -/

namespace Sys2Proof.Machine

variable (s : State)

/-! What leaves the queue alone. -/

@[simp] theorem queue_modFig (f : Fin 16) (g : Figure → Figure) :
    (s.modFig f g).showUnit.queue = s.showUnit.queue := rfl
@[simp] theorem queue_modRun (k : Fin 4) (g : Run → Run) : (s.modRun k g).showUnit.queue = s.showUnit.queue := rfl
@[simp] theorem queue_modRuns (g : Run → Run) : (s.modRuns g).showUnit.queue = s.showUnit.queue := rfl
@[simp] theorem queue_setRun (k : Fin 4) (x : Run) : (s.setRun k x).showUnit.queue = s.showUnit.queue := rfl
@[simp] theorem queue_modFigs (g : Figure → Figure) : (s.modFigs g).showUnit.queue = s.showUnit.queue := rfl
@[simp] theorem queue_modLaunch (g : Launch → Launch) : (s.modLaunch g).showUnit.queue = s.showUnit.queue := rfl
@[simp] theorem queue_modTail (g : TailPort → TailPort) : (s.modTail g).showUnit.queue = s.showUnit.queue := rfl
@[simp] theorem queue_modStrikeCounters (g : StrikeCounters → StrikeCounters) :
    (s.modStrikeCounters g).showUnit.queue = s.showUnit.queue := rfl
@[simp] theorem queue_modShowCounters (g : ShowCounters → ShowCounters) :
    (s.modShowCounters g).showUnit.queue = s.showUnit.queue := rfl
@[simp] theorem queue_raise (k : EventKind) (a b : Int) : (s.raise k a b).showUnit.queue = s.showUnit.queue := rfl
@[simp] theorem queue_releaseZones (f : Fin 16) (keep : List (Fin 24)) :
    (s.releaseZones f keep).showUnit.queue = s.showUnit.queue := rfl
@[simp] theorem queue_keepResting (f : Fin 16) : (s.keepResting f).showUnit.queue = s.showUnit.queue := rfl
@[simp] theorem queue_restFigure (f : Fin 16) : (s.restFigure f).showUnit.queue = s.showUnit.queue := rfl
@[simp] theorem queue_releaseCurrent (f : Fin 16) : (s.releaseCurrent f).showUnit.queue = s.showUnit.queue := rfl
@[simp] theorem queue_enterWaitZone (f : Fin 16) : (s.enterWaitZone f).showUnit.queue = s.showUnit.queue := rfl

@[simp] theorem queue_requestCommand (b : Fin 32) (op : CommandOp) (ch : Option (Fin 4)) (o : Option (Fin 16)) :
    (s.requestCommand b op ch o).1.showUnit.queue = s.showUnit.queue :=
  congrArg ShowUnit.queue (offBoards_requestCommand s b op ch o).showUnit

@[simp] theorem queue_askStop (f : Fin 16) : (s.askStop f).1.showUnit.queue = s.showUnit.queue := by
  unfold State.askStop; simp

@[simp] theorem queue_recordOutcome (k : Fin 4) (i : Nat) (p : Progress) :
    (s.recordOutcome k i p).showUnit.queue = s.showUnit.queue := by unfold State.recordOutcome; split <;> simp

@[simp] theorem queue_endMove (f : Fin 16) (m : Move) (a : Bool) :
    (s.endMove f m a).showUnit.queue = s.showUnit.queue := by unfold State.endMove; dsimp only; split <;> simp

@[simp] theorem queue_failCurrent (f : Fin 16) : (s.failCurrent f).showUnit.queue = s.showUnit.queue := by
  unfold State.failCurrent; repeat' split
  all_goals simp

@[simp] theorem queue_failNext (f : Fin 16) : (s.failNext f).showUnit.queue = s.showUnit.queue := by
  unfold State.failNext; split <;> simp

@[simp] theorem queue_stopFaulted (f : Fin 16) : (s.stopFaulted f).showUnit.queue = s.showUnit.queue := by
  unfold State.stopFaulted; dsimp only; split <;> simp

@[simp] theorem queue_enterFault (f : Fin 16) (c : FaultCause) :
    (s.enterFault f c).showUnit.queue = s.showUnit.queue := by
  unfold State.enterFault; dsimp only; repeat' split
  all_goals simp

@[simp] theorem queue_stopFigure (f : Fin 16) (e : StopEnd) : (s.stopFigure f e).showUnit.queue = s.showUnit.queue := by
  unfold State.stopFigure; dsimp only; split <;> simp

@[simp] theorem queue_beginMove (f : Fin 16) (m : Move) : (s.beginMove f m).showUnit.queue = s.showUnit.queue := by
  unfold State.beginMove; dsimp only; split <;> simp

@[simp] theorem queue_takeNextSlot (f : Fin 16) (m : Move) :
    (s.takeNextSlot f m).showUnit.queue = s.showUnit.queue := by unfold State.takeNextSlot; split <;> simp

@[simp] theorem queue_takeMove (f : Fin 16) (m : Move) : (s.takeMove f m).showUnit.queue = s.showUnit.queue := by
  unfold State.takeMove; dsimp only; repeat' split
  all_goals simp

@[simp] theorem queue_requestMove (f : Fin 16) (t p : Nat) (w : Way) (q : Requester) :
    (s.requestMove f t p w q).showUnit.queue = s.showUnit.queue := by unfold State.requestMove; simp

@[simp] theorem queue_takeWaiting (f : Fin 16) : (s.takeWaiting f).showUnit.queue = s.showUnit.queue := by
  unfold State.takeWaiting; split <;> simp

@[simp] theorem queue_withdrawCurrent (f : Fin 16) : (s.withdrawCurrent f).showUnit.queue = s.showUnit.queue := by
  unfold State.withdrawCurrent; split <;> simp

@[simp] theorem queue_takeAtRest (f : Fin 16) : (s.takeAtRest f).showUnit.queue = s.showUnit.queue := by
  unfold State.takeAtRest; split <;> simp

@[simp] theorem queue_withdrawRunFrom (k : Fin 4) (f : Fin 16) :
    (s.withdrawRunFrom k f).showUnit.queue = s.showUnit.queue := by
  unfold State.withdrawRunFrom; dsimp only; repeat' split
  all_goals simp

/-- A fold of operations that each leave the queue alone. -/
theorem queue_foldl {α : Type} (g : State → α → State) (step : ∀ u x, (g u x).showUnit.queue = u.showUnit.queue)
    (l : List α) (u : State) : (l.foldl g u).showUnit.queue = u.showUnit.queue := by
  induction l generalizing u with
  | nil => rfl
  | cons x xs ih => exact (ih _).trans (step u x)

@[simp] theorem queue_withdrawRun (k : Fin 4) : (s.withdrawRun k).showUnit.queue = s.showUnit.queue := by
  unfold State.withdrawRun; exact queue_foldl (fun t f => t.withdrawRunFrom k f)
      (fun u f => queue_withdrawRunFrom u k f) _ s

@[simp] theorem queue_offerFrame (f : OpenFrame) : (s.offerFrame f).showUnit.queue = s.showUnit.queue := by
  unfold State.offerFrame; split <;> simp

@[simp] theorem queue_closeFrames (p : OpenFrame → Bool) : (s.closeFrames p).showUnit.queue = s.showUnit.queue :=
  queue_foldl _ queue_offerFrame _ _

@[simp] theorem queue_endBatch : s.endBatch.showUnit.queue = s.showUnit.queue := by
  unfold State.endBatch; split <;> simp

@[simp] theorem queue_noticeRoom (n : Nat) : (s.noticeRoom n).showUnit.queue = s.showUnit.queue := by
  unfold State.noticeRoom; split <;> simp

@[simp] theorem queue_purge (r : PurgeReason) (p : LaunchEntry → Bool) :
    (s.purge r p).showUnit.queue = s.showUnit.queue := by unfold State.purge; simp

@[simp] theorem queue_purgeRun (k : Fin 4) : (s.purgeRun k).showUnit.queue = s.showUnit.queue := queue_purge s _ _

@[simp] theorem queue_planStrike (q : StrikeRequest) : (planStrike s q).2.showUnit.queue = s.showUnit.queue := by
  unfold planStrike; split <;> simp [State.joinWaiting]

@[simp] theorem queue_raiseCancelled (k : Fin 4) (n : Nat) (c : CancelCause) :
    (s.raiseCancelled k n c).showUnit.queue = s.showUnit.queue := by unfold State.raiseCancelled; split <;> simp

/-- A cancellation leaves the show queue alone (R96). -/
@[simp] theorem queue_cancelRun (k : Fin 4) (c : CancelCause) : (s.cancelRun k c).showUnit.queue = s.showUnit.queue := by
  unfold State.cancelRun; split <;> simp [State.releaseFigures]

@[simp] theorem queue_issueMove (k : Fin 4) (i : Nat) (m : MoveEntry) :
    (s.issueMove k i m).showUnit.queue = s.showUnit.queue := by unfold State.issueMove; split <;> simp

@[simp] theorem queue_judgeFrom (k : Fin 4) (ms : List MoveEntry) (i : Nat) :
    (State.judgeFrom k ms i s).showUnit.queue = s.showUnit.queue := by
  induction ms generalizing i s with
  | nil => rfl
  | cons m ms ih => unfold State.judgeFrom; repeat' split
                    all_goals simp [ih]

@[simp] theorem queue_judgeCursor (k : Fin 4) : (s.judgeCursor k).showUnit.queue = s.showUnit.queue := by
  unfold State.judgeCursor; dsimp only; split <;> simp

@[simp] theorem queue_endStep (k : Fin 4) (b : Bool) : (s.endStep k b).showUnit.queue = s.showUnit.queue := by
  unfold State.endStep; repeat' split
  all_goals simp

@[simp] theorem queue_finishRow (k : Fin 4) (d : Nat) : (s.finishRow k d).showUnit.queue = s.showUnit.queue := by
  unfold State.finishRow; simp

@[simp] theorem queue_loseStrike (k : Fin 4) : (s.loseStrike k).showUnit.queue = s.showUnit.queue := rfl

@[simp] theorem queue_noteRow (k : Fin 4) (f : StackFrame) (b : Fin 48) (v d : Nat) :
    (s.noteRow k f b v d).showUnit.queue = s.showUnit.queue := by
  unfold State.noteRow; dsimp only; repeat' split
  all_goals simp

@[simp] theorem queue_nestRow (k : Fin 4) (f : StackFrame) (m : Fin 64) (n : Nat) (x : Int) (sc : Nat) :
    (s.nestRow k f m n x sc).showUnit.queue = s.showUnit.queue := by
  unfold State.nestRow; dsimp only
  generalize (if n = 0 then s.runs[k].count else n) = times
  repeat' split
  all_goals simp

@[simp] theorem queue_markRow (k : Fin 4) (m : Fin 16) : (s.markRow k m).showUnit.queue = s.showUnit.queue := by
  unfold State.markRow; simp

@[simp] theorem queue_enterDraining (k : Fin 4) : (s.enterDraining k).showUnit.queue = s.showUnit.queue := rfl

@[simp] theorem queue_motifEnd (k : Fin 4) (f : StackFrame) (fs : List StackFrame) :
    (s.motifEnd k f fs).showUnit.queue = s.showUnit.queue := by
  unfold State.motifEnd; repeat' split
  all_goals simp

@[simp] theorem queue_stepRun (k : Fin 4) : (s.stepRun k).showUnit.queue = s.showUnit.queue := by
  unfold State.stepRun; repeat' split
  all_goals simp

@[simp] theorem queue_expand (k : Fin 4) : (s.expand k).showUnit.queue = s.showUnit.queue := by
  unfold State.expand; split <;> simp

/-- A run that begins leaves the show queue alone (R82). -/
@[simp] theorem queue_beginRun (k : Fin 4) : (s.beginRun k).showUnit.queue = s.showUnit.queue := by
  unfold State.beginRun; simp

@[simp] theorem queue_ownFigures (w : Fin 32) (k : Fin 4) : (s.ownFigures w k).showUnit.queue = s.showUnit.queue :=
  queue_foldl _ (fun u m => by split <;> simp) _ _

/-- An admission takes the head from the queue and leaves the rest (R146). -/
@[simp] theorem queue_admitTo (q : ShowRequest) (k : Fin 4) : (s.admitTo q k).showUnit.queue =
    s.showUnit.queue.drop 1 := by
  unfold State.admitTo; simp [State.createRun, State.modShowUnit]

/-! The judgement of the head. -/

theorem judgeHead_of_empty (e : s.showUnit.queue = []) : s.judgeHead = s := by unfold State.judgeHead; rw [e]; rfl

/-- A head that is not admissible stays, and nothing changes (R145). -/
theorem judgeHead_of_blocked (q : ShowRequest) (rest : List ShowRequest) (e : s.showUnit.queue = q :: rest)
    (no : s.admissible q = false) : s.judgeHead = s := by
  unfold State.judgeHead
  rw [e]
  show s.judgeHeads (rest.length + 1) = s
  unfold State.judgeHeads
  rw [e]
  simp [no]

/-- A head that is admissible is admitted to the lowest FREE slot, and then the new head is judged (R144, R146). -/
theorem judgeHead_of_admissible (q : ShowRequest) (rest : List ShowRequest) (k : Fin 4)
    (e : s.showUnit.queue = q :: rest) (yes : s.admissible q = true) (slot : s.freeSlot = some k) :
    s.judgeHead = (s.admitTo q k).judgeHead := by
  have len : (s.admitTo q k).showUnit.queue.length = rest.length := by rw [queue_admitTo, e]; rfl
  unfold State.judgeHead
  rw [len, e]
  show s.judgeHeads (rest.length + 1) = _
  rw [State.judgeHeads.eq_2]
  rw [e]
  simp [yes, slot]

@[simp] theorem headEvent_self : s.headEvent s = false := by
  have figs : (indices 16).any (s.figureFreed s) = false := by
    rw [List.any_eq_false]
    intro f _
    unfold State.figureFreed
    cases s.figs[f].owner <;> cases s.figRecs[f].enabled <;> simp
  have runs : (indices 4).any (fun k => decide (s.runs[k].state = .free) && s.runs[k].state != .free) = false := by
    rw [List.any_eq_false]
    intro k _
    cases s.runs[k].state <;> simp
  unfold State.headEvent
  rw [figs, runs]
  simp

/-- A row that changes nothing has the head judged at nothing (R145). -/
@[simp] theorem judgeAfter_self : s.judgeAfter s = s := by unfold State.judgeAfter; simp

/-- With an empty queue there is no head to judge (R145). -/
theorem judgeAfter_of_empty (t : State) (e : t.showUnit.queue = []) : s.judgeAfter t = t := by
  unfold State.judgeAfter; split
  · exact judgeHead_of_empty t e
  · rfl

/-- Without an event of R145 the head is not judged. -/
theorem judgeAfter_of_none (t : State) (e : s.headEvent t = false) : s.judgeAfter t = t := by
  unfold State.judgeAfter; rw [e]; simp

/-- A row that leaves the queue's heads, the run states, the owners and states of figures, their records and the
effective gates alone brings no event of R145. -/
theorem judgeAfter_of_unchanged (t : State) (head : t.showUnit.queue.head? = s.showUnit.queue.head?)
    (runs : ∀ k : Fin 4, t.runs[k].state = s.runs[k].state) (owner : ∀ x : Fin 16, t.figs[x].owner = s.figs[x].owner)
    (figs : ∀ x : Fin 16, t.figs[x].state = s.figs[x].state) (recs : t.figRecs = s.figRecs)
    (bells : t.calendar.bellsOpen = s.calendar.bellsOpen) (gates : t.calendar.figuresOpen = s.calendar.figuresOpen) :
    s.judgeAfter t = t := by
  apply judgeAfter_of_none
  unfold State.headEvent State.figureFreed
  simp only [head, runs, owner, figs, recs, bells, gates]
  rw [← headEvent_self s]
  rfl

/-- What the judgement after an event comes to (R145). -/
theorem judgeAfter_eq (t : State) : s.judgeAfter t = if s.headEvent t = true then t.judgeHead else t := rfl

/-! The events and the checks of the head, said without their computation. -/

/-- A slot is FREE (R144). -/
theorem freeSlot_isSome_iff : s.freeSlot.isSome = true ↔ ∃ k : Fin 4, s.runs[k].state = .free := by
  unfold State.freeSlot; rw [List.find?_isSome]
  exact ⟨fun ⟨k, _, h⟩ => ⟨k, by simpa using h⟩, fun ⟨k, h⟩ => ⟨k, List.mem_finRange k, by simpa using h⟩⟩

/-- No healthy figure of the show's moves is owned (R144). -/
theorem figuresReady_iff (w : Fin 32) : s.figuresReady w = true ↔
    ∀ m ∈ s.movesOf s.shows[w], s.healthy m.figure = true → s.figs[m.figure].owner = none := by
  unfold State.figuresReady
  simp only [List.all_eq_true, Bool.or_eq_true, Bool.not_eq_true', Option.isNone_iff_eq_none]
  exact forall₂_congr fun m _ => by cases s.healthy m.figure <;> simp

/-- The four checks of R144. -/
theorem admissible_iff (q : ShowRequest) : s.admissible q = true ↔
    s.mgmt.engine = .run ∧ s.freeSlot.isSome = true ∧ s.figuresReady q.showId = true ∧ s.gatesReady q.showId = true ∧
    s.calendar.openOver s.shows[q.showId].need (startOf s.now q.anchor) (scaledLength s.shows[q.showId] q.tempo) =
      true := by
  unfold State.admissible State.running; simp only [Bool.and_eq_true, decide_eq_true_eq, and_assoc]

/-- The list gates are open at the start and at every entry time within the length (R144, R157). -/
theorem openOver_iff (n : GateNeed) (start : Int) (len : Nat) : s.calendar.openOver n start len = true ↔
    (∀ e, entryAt s.calendar.activeBank.used (if start < s.calendar.cycleStart then start - s.calendar.cycleStart
      else (start - s.calendar.cycleStart) % s.calendar.activeBank.cycle) = some e → e.opens n = true) ∧
    ∀ (k : Nat) (e : SchedEntry), e ∈ s.calendar.activeBank.used →
      start < s.calendar.cycleStart + k * s.calendar.activeBank.cycle + e.offset →
      s.calendar.cycleStart + k * s.calendar.activeBank.cycle + e.offset < start + len → e.opens n = true := by
  have gate : ∀ o : Option SchedEntry,
      n.met ((match o with | some e => (e.bellGate, e.figureGate) | none => (.opened, .opened) : Gate × Gate).1 = .opened)
        ((match o with | some e => (e.bellGate, e.figureGate) | none => (.opened, .opened) : Gate × Gate).2 = .opened) =
        true ↔ ∀ e, o = some e → e.opens n = true := by
    intro o
    cases o with
    | none => cases n <;> simp [GateNeed.met]
    | some e => simp [SchedEntry.opens]
  have span : (List.range ((start + len - s.calendar.cycleStart).toNat / s.calendar.activeBank.cycle + 1)).all
      (fun k => !s.calendar.closesInCycle n start len k) = true ↔
      ∀ (k : Nat) (e : SchedEntry), e ∈ s.calendar.activeBank.used →
        start < s.calendar.cycleStart + k * s.calendar.activeBank.cycle + e.offset →
        s.calendar.cycleStart + k * s.calendar.activeBank.cycle + e.offset < start + len → e.opens n = true := by
    simp only [List.all_eq_true, List.mem_range, Calendar.closesInCycle, Bool.not_eq_true', List.any_eq_false,
      Bool.and_eq_true, decide_eq_true_eq, not_and]
    constructor
    · intro h k e m a b
      by_cases z : s.calendar.activeBank.cycle = 0
      · have := h 0 (Nat.succ_pos _) e m
        rw [z] at a b this
        simp at a b this
        exact this a b
      · have within : ((k * s.calendar.activeBank.cycle : Nat) : Int) ≤ start + len - s.calendar.cycleStart := by
          push_cast; linarith [Int.natCast_nonneg e.offset]
        have cycles : k < (start + len - s.calendar.cycleStart).toNat / s.calendar.activeBank.cycle + 1 := by
          rw [Nat.lt_succ_iff, Nat.le_div_iff_mul_le (Nat.pos_of_ne_zero z)]
          exact Int.ofNat_le.1 (within.trans (Int.self_le_toNat _))
        have := h k cycles e m ⟨a, b⟩
        simpa using this
    · intro h k _ e m ⟨a, b⟩
      simpa using h k e m a b
  unfold Calendar.openOver Calendar.gatesAtTime gatesAt
  dsimp only
  rw [Bool.and_eq_true]
  exact and_congr (gate _) span

/-- The events of R145. -/
theorem headEvent_iff (t : State) : s.headEvent t = true ↔
    t.showUnit.queue.head?.map (fun q => q.showId) ≠ s.showUnit.queue.head?.map (fun q => q.showId) ∨
    (∃ k : Fin 4, s.runs[k].state ≠ .free ∧ t.runs[k].state = .free) ∨
    (∃ x : Fin 16, (s.figs[x].owner ≠ none ∧ t.figs[x].owner = none) ∨
      ((t.figs[x].state = .fault ∨ t.figs[x].state = .unhomed) ∧ t.figs[x].state ≠ s.figs[x].state) ∨
      (s.figRecs[x].enabled = true ∧ t.figRecs[x].enabled = false)) ∨
    t.calendar.bellsOpen ≠ s.calendar.bellsOpen ∨ t.calendar.figuresOpen ≠ s.calendar.figuresOpen := by
  unfold State.headEvent State.figureFreed
  simp only [Bool.or_eq_true, decide_eq_true_eq, List.any_eq_true, Bool.and_eq_true, bne_iff_ne, ne_eq,
    Option.isSome_iff_ne_none, Option.isNone_iff_eq_none, Bool.not_eq_true']
  constructor
  · rintro ((((k | ⟨i, _, a, b⟩) | ⟨x, _, ((k | ⟨a, b⟩) | k)⟩) | k) | k)
    · exact .inl k
    · exact .inr (.inl ⟨i, b, a⟩)
    · exact .inr (.inr (.inl ⟨x, .inl k⟩))
    · exact .inr (.inr (.inl ⟨x, .inr (.inl ⟨a, Ne.symm b⟩)⟩))
    · exact .inr (.inr (.inl ⟨x, .inr (.inr k)⟩))
    · exact .inr (.inr (.inr (.inl k)))
    · exact .inr (.inr (.inr (.inr k)))
  · rintro (k | ⟨i, a, b⟩ | ⟨x, (k | ⟨a, b⟩ | k)⟩ | k | k)
    · exact .inl (.inl (.inl (.inl k)))
    · exact .inl (.inl (.inl (.inr ⟨i, List.mem_finRange i, b, a⟩)))
    · exact .inl (.inl (.inr ⟨x, List.mem_finRange x, .inl (.inl k)⟩))
    · exact .inl (.inl (.inr ⟨x, List.mem_finRange x, .inl (.inr ⟨a, Ne.symm b⟩)⟩))
    · exact .inl (.inl (.inr ⟨x, List.mem_finRange x, .inr k⟩))
    · exact .inl (.inr k)
    · exact .inr k

/-! What fits a bank (R143). -/

/-- The length of a stretch of spans. -/
abbrev stretchLength (l : List (Nat × Bool)) : Nat := (l.map (fun x => x.1)).sum

/-- The longest run is at least the best so far and the run in hand. -/
theorem le_longestRun (l) : ∀ r b, b ≤ longestRun l r b ∧ r ≤ longestRun l r b := by
  induction l with
  | nil => intro r b; unfold longestRun; omega
  | cons x l ih =>
    intro r b
    obtain ⟨n, o⟩ := x
    cases o <;> unfold longestRun
    · have := (ih 0 (max r b)).1; omega
    · have := (ih (r + n) b); omega

/-- A stretch of open spans at the front lengthens the run in hand. -/
theorem openStretch_le_longestRun (st : List (Nat × Bool)) (h : ∀ x ∈ st, x.2 = true) : ∀ rest r b,
    r + stretchLength st ≤ longestRun (st ++ rest) r b := by
  induction st with
  | nil => intro rest r b; exact (le_longestRun rest r b).2
  | cons x st ih =>
    intro rest r b
    obtain ⟨n, o⟩ := x
    cases h (n, o) List.mem_cons_self
    show _ ≤ longestRun (st ++ rest) (r + n) b
    have := ih (fun y m => h y (List.mem_cons_of_mem _ m)) rest (r + n) b
    simp [stretchLength] at this ⊢; omega

/-- Spans passed over leave a run in hand and a best so far. -/
theorem longestRun_append (pre : List (Nat × Bool)) : ∀ l r b, ∃ r' b', longestRun (pre ++ l) r b =
    longestRun l r' b' := by
  induction pre with
  | nil => intro l r b; exact ⟨r, b, rfl⟩
  | cons x pre ih =>
    intro l r b
    obtain ⟨n, o⟩ := x
    cases o
    · exact ih l 0 (max r b)
    · exact ih l (r + n) b

/-- The longest run is the best so far, the run in hand with the open spans that follow it, or a stretch of open
spans further on. -/
theorem longestRun_cases (l) : ∀ r b, longestRun l r b = b ∨
    (∃ st rest, l = st ++ rest ∧ (∀ x ∈ st, x.2 = true) ∧ longestRun l r b = r + stretchLength st) ∨
    ∃ pre st rest, l = pre ++ st ++ rest ∧ (∀ x ∈ st, x.2 = true) ∧ longestRun l r b = stretchLength st := by
  induction l with
  | nil => intro r b; unfold longestRun; by_cases h : r ≤ b
           · left; omega
           · right; left; exact ⟨[], [], rfl, by simp, by simp [stretchLength]; omega⟩
  | cons x l ih =>
    intro r b
    obtain ⟨n, o⟩ := x
    cases o <;> unfold longestRun
    · rcases ih 0 (max r b) with h | ⟨st, rest, e, a, h⟩ | ⟨pre, st, rest, e, a, h⟩
      · rw [h]
        by_cases k : r ≤ b
        · left; omega
        · right; left; exact ⟨[], _, rfl, by simp, by simp [stretchLength]; omega⟩
      · right; right; exact ⟨[(n, false)], st, rest, by rw [e]; rfl, a, by rw [h]; simp⟩
      · right; right; exact ⟨(n, false) :: pre, st, rest, by rw [e]; rfl, a, h⟩
    · rcases ih (r + n) b with h | ⟨st, rest, e, a, h⟩ | ⟨pre, st, rest, e, a, h⟩
      · left; exact h
      · right; left; exact ⟨(n, true) :: st, rest, by rw [e]; rfl, by simpa using a,
          by rw [h]; simp [stretchLength]; omega⟩
      · right; right; exact ⟨(n, true) :: pre, st, rest, by rw [e]; rfl, a, h⟩

/-- A length lies in the longest stretch of a ring that holds a closed span exactly when it lies in a stretch of open
spans of the ring, cut at some place (R143). -/
theorem le_longestStretch_iff (spans : List (Nat × Bool)) (bad : ∃ x ∈ spans, x.2 = false) (len : Nat) :
   len ≤ longestStretch spans ↔ ∃ front back stretch rest, spans = front ++ back ∧ back ++ front = stretch ++ rest ∧
        (∀ x ∈ stretch, x.2 = true) ∧ len ≤ stretchLength stretch := by
  unfold longestStretch
  constructor
  · intro h
    have main : ∃ pre st rest, spans ++ spans = pre ++ st ++ rest ∧ (∀ x ∈ st, x.2 = true) ∧ len ≤ stretchLength st := by
      rcases longestRun_cases (spans ++ spans) 0 0 with e | ⟨st, rest, e, a, k⟩ | ⟨pre, st, rest, e, a, k⟩
      · exact ⟨[], [], _, rfl, by simp, by omega⟩
      · exact ⟨[], st, rest, e, a, by omega⟩
      · exact ⟨pre, st, rest, e, a, by omega⟩
    obtain ⟨pre, st, rest, e, a, k⟩ := main
    have short : ∀ front back x y, spans = front ++ back → back ++ front ++ y = st ++ x → ∃ r, back ++ front = st ++
        r := by
      intro front back x y e1 e2
      rcases List.append_eq_append_iff.1 e2 with ⟨m, e3, _⟩ | ⟨m, e3, _⟩
      · exfalso
        obtain ⟨z, mz, hz⟩ := bad
        have : z ∈ st := by rw [e3]; rw [e1] at mz; simp at mz ⊢; tauto
        rw [a z this] at hz; exact nomatch hz
      · exact ⟨m, e3⟩
    rw [List.append_assoc] at e
    rcases List.append_eq_append_iff.1 e with ⟨m, e1, e2⟩ | ⟨m, e1, e2⟩
    · refine ⟨m, st ++ rest, st, rest ++ m, e2, by simp, a, k⟩
    · have : m ++ pre ++ m = st ++ rest := by rw [e2, e1]; simp
      obtain ⟨r, hr⟩ := short pre m rest m e1 this
      exact ⟨pre, m, st, r, e1, hr, a, k⟩
  · rintro ⟨front, back, st, rest, e1, e2, a, k⟩
    have : spans ++ spans = front ++ (st ++ (rest ++ back)) := by
      rw [e1, List.append_assoc, ← List.append_assoc back front, e2]; simp
    rw [this]
    obtain ⟨r, b, h⟩ := longestRun_append front (st ++ (rest ++ back)) 0 0
    rw [h]
    have := openStretch_le_longestRun st a (rest ++ back) r b
    omega

/-- The spans of a bank are its entries, each up to the next one's offset (R143). -/
theorem spansFrom_eq_zipWith (cycle first : Nat) (n : GateNeed) : ∀ es : List SchedEntry, ∀ l, es ≠ [] →
    l = (es.drop 1).map (fun e => e.offset) ++ [first + cycle] →
    spansFrom cycle first n es = List.zipWith (fun e next => (next - e.offset, e.opens n)) es l := by
  intro es
  induction es with
  | nil => intro l h; exact absurd rfl h
  | cons e es ih =>
    rintro l - rfl
    cases es with
    | nil => rfl
    | cons e' es =>
      unfold spansFrom
      rw [ih _ (by simp) rfl]; rfl

/-- Every span is open exactly when every entry opens the gates. -/
theorem spans_all_open (n : GateNeed) : ∀ (es : List SchedEntry) (l : List Nat), es.length ≤ l.length →
    (List.zipWith (fun (e : SchedEntry) next => (next - e.offset, e.opens n)) es l).all (fun p => p.2) = es.all
    (fun e => e.opens n) := by
  intro es
  induction es with
  | nil => intro l _; rfl
  | cons e es ih =>
    intro l h
    cases l with
    | nil => simp at h
    | cons x l => simp only [List.zipWith_cons_cons, List.all_cons]; rw [ih l (by simpa using h)]

/-- What a length must be to fit a bank (R143). -/
theorem Bank.fits_iff (b : Bank) (n : GateNeed) (len : Nat) : b.fits n len = true ↔
    b.used = [] ∨ (∀ e ∈ b.used, e.opens n = true) ∨ ∃ front back stretch rest,
      List.zipWith (fun e next => (next - e.offset, e.opens n)) b.used
        ((b.used.drop 1).map (fun e => e.offset) ++ (b.used.take 1).map (fun e => e.offset + b.cycle)) = front ++ back ∧
      back ++ front = stretch ++ rest ∧ (∀ x ∈ stretch, x.2 = true) ∧ len ≤ (stretch.map (fun x => x.1)).sum := by
  unfold Bank.fits Bank.spans
  show _ ↔ b.used = [] ∨ _
  cases hu : b.used with
  | nil => simp
  | cons e es =>
    have e1 := spansFrom_eq_zipWith b.cycle e.offset n (e :: es) _ (by simp) rfl
    dsimp only
    rw [e1]
    change _ ↔ _ ∨ _ ∨ ∃ front back stretch rest, List.zipWith _ (e :: es) (es.map _ ++ [e.offset + b.cycle]) = _ ∧ _
    have all2 : (List.zipWith (fun (e : SchedEntry) next => (next - e.offset, e.opens n)) (e :: es)
        (((e :: es).drop 1).map (fun e => e.offset) ++ [e.offset + b.cycle])).all (fun p => p.2) = true ↔
        ∀ x ∈ e :: es, x.opens n = true := by
      rw [spans_all_open _ _ _ (by simp)]; simp
    by_cases h : ∀ x ∈ e :: es, x.opens n = true
    · simp only [all2.2 h, Bool.or_true, Bool.true_or, true_iff]; exact .inr (.inl h)
    · have h2 := mt all2.1 h
      rw [Bool.not_eq_true] at h2
      rw [h2]
      simp only [List.isEmpty_cons, Bool.false_or, decide_eq_true_eq]
      rw [le_longestStretch_iff]
      · constructor
        · exact fun x => .inr (.inr x)
        · rintro (x | x | x)
          · exact nomatch x
          · exact absurd x h
          · exact x
      · rw [List.all_eq_false] at h2
        obtain ⟨x, m, k⟩ := h2
        exact ⟨x, m, by simpa using k⟩
  

end Sys2Proof.Machine
end

