-- ==== Sys2Proof/Tests/Slice0.lean ====
section
/-! SUPPORT. Small tests of the model: the check of well-formed commands, the worked values of the spec, one step of each
kind of command, and for every statement of Certificates/Slice0/Obligations.lean a state and operands that meet its
hypotheses, clause by clause. -/

namespace Sys2Proof.Tests

open Sys2Proof Sys2Proof.Machine

/-! One theorem at a time: tests elaborated side by side would each wait on the kernel in a thread of its own. -/

set_option Elab.async false

/-! Helpers. -/

/-- Bytes from numbers. -/
def bytes (ns : List Nat) : List Byte := ns.map byteOf

/-- A frame of the kind from node 7 to the engine at node 0. -/
def frame (kind : Nat) (ns : List Nat) : List Byte := formFrame 0 7 kind (bytes ns)

/-- A request with tag 9 and its parameters. -/
def request (code : Nat) (ns : List Nat) : List Byte := frame 0x30 (9 :: code :: ns)

/-- A cue. -/
def cue (ns : List Nat) : List Byte := frame 0x21 ns

/-- A beacon of day 0. -/
def beaconAt (ms : Nat) : List Byte := formFrame 0 7 0x22 (leBytes 2 0 ++ leBytes 4 ms)

/-- A QUIET frame. -/
def quietOf (level hold : Nat) : List Byte := formFrame 0 7 0x23 (byteOf level :: leBytes 4 hold)

/-- A frame from the board at a node. -/
def fromBoard (node kind : Nat) (ns : List Nat) : List Byte := formFrame 0 (byteOf node) kind (bytes ns)

/-- A frame for another node. -/
def passing : List Byte := formFrame 9 7 0x41 (bytes [1, 2, 3])

/-- A write of a record. -/
def write (table selector index : Nat) (d : List Nat) : List Byte := request 2 ([table, selector, index % 256, index / 256] ++ d)

/-- The state a command answers. -/
def after (c : Instr) (s : State) : State :=
  match exec c s with
  | .next t => t
  | .fault _ => s
  | .refused _ => s

/-- The engine in RUN with a clock set to `t`. -/
def runAt (t : Int) : State :=
  { State.reset with
    clock := { Clock.initial with time := t, state := .set, lossDeadline := some (t + 5000) },
    mgmt := { Management.initial with engine := .run } }

/-- The engine in CONFIG with a clock set to `t`. -/
def configAt (t : Int) : State := { runAt t with mgmt := Management.initial }

def withSettings (s : State) (x : Settings) : State := { s with mgmt := { s.mgmt with settings := x } }

/-- A bell of board 1 at node 20. -/
def bellRec : BellRec :=
  { enabled := true, board := 1, channel := 2, curve := .linear, pulseMin := 1000, pulseMax := 4000,
    pulseCeiling := 5000, flightSoft := 40, flightLoud := 20, recovery := 100, coilCurrent := 600, heatLimit := 9000,
    coolRate := 100 }

/-- A state with bells 0 and 1 on a PRESENT board. -/
def belfry (t : Int) : State :=
  { runAt t with
    bellRecs := (State.reset.bellRecs.set 0 bellRec).set 1 { bellRec with channel := 3 },
    boardRecs := State.reset.boardRecs.set 1 { enabled := true, address := 20, kind := .bell, group := 0 },
    boards := State.reset.boards.set 1 { BoardState.initial with presence := .present, statusDeadline := some (t + 250) } }

/-- A waiting strike of bell 0. -/
def strikeAt (fire : Int) (o : StrikeOrigin) : LaunchEntry :=
  { bell := 0, shaped := 64, sound := fire + 30, fire := fire, fire0 := fire, origin := o, deferred := 0 }

def withWaiting (s : State) (es : List LaunchEntry) : State := { s with launch := { s.launch with waiting := es } }

/-- A figure on a rail of 1000 positions, channel 0 of board 2. -/
def figRec : FigRec :=
  { enabled := true, board := 2, channel := 0, kind := .linear, span := 1000, softLo := 0, softHi := 1000, home := 0,
    maxSpeed := 200, runCurrent := 300, priority := 5, tolerance := 2,
    spans := [{ zone := 3, lo := 0, hi := 500 }, { zone := 4, lo := 500, hi := 1000 }] }

/-- A state with figures 0 and 1 on a PRESENT motion board at node 30. -/
def stage (t : Int) : State :=
  { runAt t with
    figRecs := (State.reset.figRecs.set 0 figRec).set 1 { figRec with channel := 1 },
    boardRecs := State.reset.boardRecs.set 2 { enabled := true, address := 30, kind := .motion, group := 0 },
    boards := State.reset.boards.set 2 { BoardState.initial with presence := .present, statusDeadline := some (t + 250) } }

def withFig (s : State) (f : Fin 16) (x : Figure) : State := { s with figs := s.figs.set f.val x }

def withRun (s : State) (k : Fin 4) (x : Run) : State := { s with runs := s.runs.set k.val x }

def withBoard (s : State) (b : Fin 32) (x : BoardState) : State := { s with boards := s.boards.set b.val x }

def withShowQueue (s : State) (q : List ShowRequest) : State := { s with showUnit := { s.showUnit with queue := q } }

/-- A figure at rest at a position. -/
def resting (p : Nat) : Figure := { Figure.initial with state := .idle, position := some p }

/-- A move to a target asked by a cue. -/
def goTo (target : Nat) (r : Requester) : Move := { goal := .go target 100 .shorter, requester := r, withdrawn := false }

/-- A command in a board's list. -/
def command (id : Nat) (op : CommandOp) (c : CommandCondition) (owners : List (Fin 16)) : Command :=
  { id := id, op := op, channel := some 0, condition := c, tag := some 5, rejects := 0, resendUsed := false,
    owners := owners }

/-! Well-formed commands. -/

/-- Each frame row with a frame that is not its own. -/
def illFormed : List Instr :=
  [.malformed .head (beaconAt 5), .crcError .tail (beaconAt 5), .unknownKind .head (beaconAt 5), .classifierWalk .head [],
   .beacon (quietOf 1 5), .quiet (beaconAt 5), .strikeCue (cue [6]), .motifPlay (cue [6]), .showStart (cue [6]),
   .showStop (cue [6]), .figureGo (cue [6]), .allStop (cue [4, 0]), .unknownCueType (cue [6]),
   .readRecord (request 5 []), .writeParse (request 5 []), .writeBell (request 5 []), .writeMotifDir (request 5 []),
   .writeMotifRow (request 5 []), .writeShow (request 5 []), .writeMove (request 5 []), .writeVector (request 5 []),
   .writeSchedule (request 5 []), .writeFigure (request 5 []), .writeBoard (request 5 []), .writeGroup (request 5 []),
   .writeSettings (request 5 []), .readState (request 5 []), .clearCounters (request 5 []), .engineRun (request 4 []),
   .engineStop (request 5 []), .engineReset (request 5 []), .seasonSwitch (request 5 []), .seasonCancel (request 5 []),
   .figureHome (request 5 []), .faultClear (request 5 []), .setEventMask (request 5 []), .unknownRequest (request 5 []),
   .boardAnswer (beaconAt 5), .boardStatus (fromBoard 20 0x42 [5, 0])]

theorem test_wellFormed_refuses : illFormed.all (fun c => !c.wellFormed) = true := by decide +kernel

theorem test_wellFormed_takes : ([.malformed .head [], .unknownKind .tail (beaconAt 5), .classifierWalk .tail passing,
    .beacon (beaconAt 5), .quiet (quietOf 0 0), .allStop (cue [6]), .unknownCueType (cue [7]), .engineRun (request 5 []),
    .unknownRequest (request 99 []), .boardAnswer (fromBoard 20 0x42 [5, 0]), .beaconLost] : List Instr).all
    Instr.wellFormed = true := by decide +kernel

/-! The queue, the invariants and power-on. -/

theorem test_witness_StepTakesTheFront :
    ({ State.reset with pending := [.beaconLost, .zoneGrant] } : State).pending = .beaconLost :: [.zoneGrant] := rfl

theorem test_step_takes_the_front :
    step ({ State.reset with pending := [.localMillisecond, .zoneGrant] } : State) =
      exec .localMillisecond { State.reset with pending := [.zoneGrant] } := rfl

theorem test_step_idles : step State.reset = .next State.reset := rfl

theorem test_witness_TablesChangeByWrites :
    (∃ t, exec .zoneGrant State.reset = .next t) ∧ writes .zoneGrant = false ∧ movesClock .zoneGrant = false :=
  ⟨⟨_, rfl⟩, rfl, rfl⟩

/-- A state with a strike waiting, a figure that holds its path, and the firing next. -/
def lively : State :=
  { withWaiting (withFig (belfry 1000) 0 { resting 0 with state := .waitSupply, needed := [3] }) [strikeAt 1000 .cue] with
    zones := State.reset.zones.set 3 (some 0), pending := [.fireHeadEntry] }

theorem test_witness_CapacityKept : lively.withinCapacity ∧ ∃ t, step lively = .next t :=
  ⟨by unfold State.withinCapacity; decide +kernel, _, rfl⟩

theorem test_witness_ClockKept : lively.clockLegal ∧ ∃ t, step lively = .next t :=
  ⟨by unfold State.clockLegal; decide +kernel, _, rfl⟩

theorem test_witness_FireOrderKept : lively.inFireOrder ∧ ∃ t, step lively = .next t :=
  ⟨by unfold State.inFireOrder; decide +kernel, _, rfl⟩

theorem test_witness_SupplyKept : lively.withinSupply ∧ ∃ t, step lively = .next t :=
  ⟨by unfold State.withinSupply; decide +kernel, _, rfl⟩

theorem test_witness_PathsKept : lively.pathsHeld ∧ ∃ t, step lively = .next t :=
  ⟨by unfold State.pathsHeld; decide +kernel, _, rfl⟩

/-- The same with the accepted strike counted. -/
def counted : State :=
  { lively with launch := { lively.launch with counters := { StrikeCounters.zero with accepted := 1 } } }

theorem test_witness_BalanceKept : counted.balanced ∧ ∃ t, step counted = .next t :=
  ⟨by unfold State.balanced; decide +kernel, _, rfl⟩

theorem test_fire_moves_the_entry_to_a_counter :
    (after .fireHeadEntry counted).launch.waiting = [] ∧ (after .fireHeadEntry counted).launch.counters.emitted = 1 ∧
    (after .fireHeadEntry counted).bells[0].heat = 1000 + (3000 * 63 + 63) / 126 ∧
    (after .fireHeadEntry counted).strikeAccount.length = 1 := by decide +kernel

theorem test_power_on : (after (.powerOn 255) lively).node = 254 ∧ (after (.powerOn 3) lively).node = 3 ∧
    (after (.powerOn 3) lively).launch.waiting = [] ∧ (after (.powerOn 3) lively).clock = Clock.initial := by
  decide +kernel

/-! Show time. -/

/-- A clock frozen for 2 ms. -/
def frozen : State := { runAt 7 with clock := { (runAt 7).clock with freeze := 2 } }

/-- A clock at the top of its 48 bits. -/
def atTop : State := runAt (timeTop - 1)

theorem test_witness_MillisecondCounts : 0 < frozen.clock.freeze ∧ (runAt 7).clock.freeze = 0 ∧
    (runAt 7).clock.time + 1 < timeTop ∧ (runAt (timeTop - 2)).clock.time + 1 < timeTop ∧
    timeTop ≤ atTop.clock.time + 1 := by decide +kernel

theorem test_millisecond : (after .localMillisecond frozen).clock.time = 7 ∧
    (after .localMillisecond frozen).clock.freeze = 1 ∧ (after .localMillisecond (runAt 7)).clock.time = 8 := by
  decide +kernel

theorem test_witness_BeaconSlews : ∀ ms ∈ [99980, 99999, 100000, 100001, 100002, 100020],
    (runAt 100000).fixedPath .head (beaconAt ms) .clock = true ∧
    readBeacon (framePayload (beaconAt ms)) = some (0, ms) ∧ ms < 86400000 ∧ (runAt 100000).clock.state ≠ .unset ∧
    (((0 * 86400000 + ms : Nat) : Int) - (runAt 100000).clock.time).natAbs ≤ 20 := by decide +kernel

theorem test_beacon_slews : (after (.beacon (beaconAt 99980)) (runAt 100000)).clock.freeze = 2 ∧
    (after (.beacon (beaconAt 99999)) (runAt 100000)).clock.freeze = 1 ∧
    (after (.beacon (beaconAt 100001)) (runAt 100000)).clock.time = 100001 ∧
    (after (.beacon (beaconAt 100020)) (runAt 100000)).clock.time = 100002 := by decide +kernel

/-- A launch entry that a slew of 2 ms passes. -/
def nearly : State := withWaiting (runAt 100000) [strikeAt 100002 .cue]

theorem test_witness_ForwardSlew : ∀ ms ∈ [100001, 100002, 100020],
    nearly.fixedPath .head (beaconAt ms) .clock = true ∧ readBeacon (framePayload (beaconAt ms)) = some (0, ms) ∧
    nearly.clock.state ≠ .unset ∧ (1 : Int) ≤ (ms : Int) - nearly.clock.time ∧ (ms : Int) - nearly.clock.time ≤ 20 ∧
    nearly.launch.waiting = [strikeAt 100002 .cue] ∧ nearly.clock.time < (strikeAt 100002 .cue).fire ∧
    (strikeAt 100002 .cue).fire ≤ nearly.clock.time + 2 := by decide +kernel

theorem test_witness_BeaconSteps :
    (∀ ms ∈ [99979, 100021], (runAt 100000).fixedPath .head (beaconAt ms) .clock = true ∧
      readBeacon (framePayload (beaconAt ms)) = some (0, ms) ∧ 20 < ((ms : Int) - (runAt 100000).clock.time).natAbs) ∧
    State.reset.fixedPath .head (beaconAt 5) .clock = true ∧ State.reset.clock.state = .unset := by decide +kernel

theorem test_beacon_steps : (after (.beacon (beaconAt 100021)) (runAt 100000)).clock.time = 100021 ∧
    (after (.beacon (beaconAt 100021)) (runAt 100000)).clock.steps = 1 ∧
    (after (.beacon (beaconAt 5)) State.reset).clock.state = .set := by decide +kernel

theorem test_witness_BadAndLostBeacons :
    (runAt 9).fixedPath .head (frame 0x22 [1, 2, 3, 4, 5]) .clock = true ∧
    (framePayload (frame 0x22 [1, 2, 3, 4, 5])).length < 6 ∧
    (runAt 9).fixedPath .head (beaconAt 86400000) .clock = true ∧
    readBeacon (framePayload (beaconAt 86400000)) = some (0, 86400000) ∧
    (∀ now ∈ [(5009 : Int), 5008], ∃ d ∈ [(5009 : Int)],
      ({ runAt 9 with clock := { (runAt 9).clock with time := now } } : State).clock.lossDeadline = some d) ∧
    (runAt 9).clock.state = .set ∧ State.reset.clock.state ≠ .set := by decide +kernel

theorem test_beacon_lost :
    (after .beaconLost { runAt 9 with clock := { (runAt 9).clock with time := 5009 } }).clock.state = .freeRunning ∧
    (after .beaconLost { runAt 9 with clock := { (runAt 9).clock with time := 5008 } }).clock.state = .set := by
  decide +kernel

/-! The link. -/

theorem test_witness_FormedFramesArrive :
    (List.replicate 56 (0 : Byte)).length ≤ 56 ∧ 255 < 256 ∧ reception (formFrame 0 7 255 []) = .arrived ∧
    reception (formFrame 3 7 0 (bytes [1, 2])) = .arrived ∧ frameKind (formFrame 3 7 0x41 (bytes [1, 2])) = 0x41 := by
  decide +kernel

/-- A frame with its last byte changed. -/
def spoiled : List Byte := (beaconAt 5).dropLast ++ [((beaconAt 5).getLastD 0) + 1]

theorem test_witness_DroppedFramesCounted :
    reception (List.replicate 5 0) = .malformed ∧ reception (List.replicate 63 0) = .malformed ∧
    reception spoiled = .crcError ∧ reception (beaconAt 5) = .arrived ∧ frameDest (beaconAt 5) = State.reset.node ∧
    fixedBlock .tail (frameKind (beaconAt 5)) = none ∧ fixedBlock .head (frameKind (fromBoard 20 0x42 [1, 0])) = none := by
  decide +kernel

theorem test_dropped_frames :
    (after (.malformed .tail [0]) State.reset).tail.counters.malformed = 1 ∧
    (after (.crcError .head spoiled) State.reset).head.counters.crcError = 1 ∧
    (after (.unknownKind .tail (beaconAt 5)) State.reset).classifier.unknownKind = 1 := by decide +kernel

/-- Frame D of section 2.9, with the DEST of log entry 27: the low byte of its CRC is 0x9A. -/
theorem test_frame_d : (formFrame 18 40 0x60 [])[4]? = some 0x9A ∧ (formFrame 18 40 0x60 []).length = 6 := by
  decide +kernel

/-- A parse entry on KIND. -/
def kindIs (n : Nat) (t f : ParseOutcome) : ParseEntry :=
  { filter := .both, rightmost := 16, width := 8, mask := 0xFF, matchValue := BitVec.ofNat 16 n, comparison := .equal,
    onTrue := t, onFalse := f }

/-- An engine whose entry 0 gives the outcome to a frame of kind 0x41. -/
def parsing (live step : Nat) (t : ParseOutcome) : State :=
  { withSettings (runAt 100) { Settings.initial with liveEntries := live, stepLimit := step } with
    parse := State.reset.parse.set 0 (kindIs 0x41 t (.verdict Verdict.pass)) }

theorem test_witness_WalkEndsInAVerdict :
    State.reset.settings.liveEntries = 0 ∧
    (examine (parsing 1 1 (.verdict Verdict.pass)).parse[0] .head passing).1 = .verdict Verdict.pass ∧
    (examine (parsing 1 1 (.next 1)).parse[0] .head passing).1 = .next 1 ∧
    (parsing 1 1 (.next 1)).settings.liveEntries ≤ 1 ∧ 1 < (parsing 2 1 (.next 1)).settings.liveEntries ∧
    (examine (parsing 2 1 (.next 1)).parse[0] .head passing).1 = .next 1 ∧
    (parsing 2 1 (.next 1)).settings.stepLimit = 1 := by decide +kernel

/-- An engine with a verdict for every frame of kind 0x41, and pass queues of `n` frames. -/
def judging (a : Action) (forward : Bool) (n : Nat) : State :=
  let s := parsing 1 48 (.verdict { action := a, forward := forward })
  { s with head := { s.head with passQueue := List.replicate n [] }, tail := { s.tail with passQueue := List.replicate n [] } }

/-- A frame of kind 0x41 that the tables of these tests act on. -/
def carrying (ns : List Nat) : List Byte := formFrame 9 7 0x41 (bytes ns)

/-- An engine whose first entry sends every frame to BOARD. -/
def boarding : State :=
  { parsing 1 48 (.next 1) with
    parse := State.reset.parse.set 0 { kindIs 0 (.verdict Verdict.pass) (.verdict { action := .board, forward := true }) with
      comparison := .equal } }

theorem test_witness_VerdictsDropOrForward :
    reception passing = .arrived ∧ frameDest passing ≠ (judging .none false 0).node ∧
    (∀ p ∈ [Port.head, .tail], ∀ fw ∈ [true, false], ∀ n ∈ [7, 8], ∀ a ∈ [Action.none, .cue, .beacon, .quiet .all 5, .board],
      ((judging a fw n).walk p passing).1 = { action := a, forward := fw }) ∧
    (judging .none true 7).tail.passQueue.length < 8 ∧ 8 ≤ (judging .none true 8).tail.passQueue.length ∧
    (judging .none true 7).head.passQueue.length < 8 ∧ 8 ≤ (judging .none true 8).head.passQueue.length ∧
    (∀ f ∈ [formFrame 9 20 kindBoardAnswer [], formFrame 9 20 kindBoardStatus [], formFrame 9 20 0x50 []],
      reception f = .arrived ∧ (boarding.walk .tail f).1.action = .board) ∧
    frameKind (formFrame 9 20 0x50 []) ≠ kindBoardAnswer ∧ frameKind (formFrame 9 20 0x50 []) ≠ kindBoardStatus := by
  decide +kernel

theorem test_verdicts :
    (after (.classifierWalk .head passing) (judging .none false 0)).classifier.dropped = 1 ∧
    (after (.classifierWalk .head passing) (judging .none true 7)).tail.passQueue.length = 8 ∧
    (after (.classifierWalk .head passing) (judging .none true 8)).tail.counters.passOverrun = 1 ∧
    (after (.classifierWalk .head passing) (judging (.quiet .all 5) true 0)).calendar.override =
      some { level := .all, expiry := 105 } := by decide +kernel

theorem test_witness_MisdirectedAction : reception passing = .arrived ∧ frameDest passing ≠ State.reset.node ∧
    (∀ fw ∈ [true, false], ((judging .board fw 0).walk .head passing).1 = { action := .board, forward := fw } ∧
      ∀ a ∈ [Action.cue, .beacon, .quiet .bells 1], ((judging a fw 0).walk .tail passing).1 = { action := a, forward := fw }) ∧
    (after (.classifierWalk .tail passing) (judging .cue false 0)).classifier.actionMisdirected = 1 ∧
    (after (.classifierWalk .tail passing) (judging .cue false 0)).classifier.dropped = 0 := by decide +kernel

/-- A tail port with frames in its queues. -/
def tailWith (s : State) (strikes : List (List Byte)) (cs : List CommandFrame) (ps : List (List Byte)) : State :=
  { s with tail := { s.tail with strikeQueue := strikes, commandQueue := cs, passQueue := ps } }

/-- A board with one waiting command. -/
def commanded (t : Int) : State :=
  withBoard (stage t) 2 { BoardState.initial with presence := .present, commands := [command 1 .home .waiting [0]] }

def frameOf1 : CommandFrame := { board := 2, id := 1, dest := 30 }

/-- A strike is due within the guard. -/
def guarded : State := withWaiting (tailWith (commanded 100) [] [frameOf1] [passing]) [strikeAt 101 .cue]

theorem test_witness_TailPortChooses :
    (tailWith guarded [passing] [frameOf1] [passing]).tail.strikeQueue = [passing] ∧
    guarded.tail.strikeQueue = [] ∧ guarded.guardHolds = true ∧
    (withWaiting guarded [strikeAt 102 .cue]).guardHolds = false ∧
    (withWaiting guarded []).readyCommand = some (frameOf1, command 1 .home .waiting [0]) ∧
    (tailWith guarded [] [] [passing]).readyCommand = none ∧ (tailWith guarded [] [] []).tail.passQueue = [] := by
  decide +kernel

theorem test_tail_port :
    (after .tailPortFree guarded).tail.sending = none ∧
    (after .tailPortFree (withWaiting guarded [])).tail.commandQueue = [] ∧
    (after .tailPortFree (withWaiting guarded [])).boards[2].nextTag = 1 ∧
    (after .tailPortFree (tailWith (runAt 5) [] [] [passing])).tail.sending = some passing := by decide +kernel

/-- A head port with reports and pass frames, and events queued. -/
def headWith (rs : List ReportFrame) (ps : List (List Byte)) (t : Turn) (pending : Option (List Byte)) (events : Nat) : State :=
  let s := runAt 5
  { s with head := { s.head with reportQueue := rs, passQueue := ps, turn := t, pendingResponse := pending },
           mgmt := { s.mgmt with events := List.replicate events { kind := .beaconLost, time := 0, arg1 := 0, arg2 := 0 } } }

def response : ReportFrame := { isEvent := false, bytes := passing }
def eventReport : ReportFrame := { isEvent := true, bytes := passing }

theorem test_witness_HeadPortAndItsReports :
    (headWith [eventReport, response] [] .pass none 0).head.reportQueue.filter (fun r => !r.isEvent) = [response] ∧
    (headWith [eventReport] [passing] .events none 0).head.turn = .events ∧
    (headWith [eventReport] [] .pass none 0).head.passQueue = [] ∧
    (headWith [eventReport] [passing] .pass none 0).head.turn = .pass ∧
    (headWith [] [passing] .events none 0).head.reportQueue.filter (fun r => r.isEvent) = [] ∧
    (headWith (List.replicate 7 response) [] .pass (some passing) 0).head.reportQueue.length < 8 ∧
    (headWith (List.replicate 7 response) [] .pass (some passing) 0).head.pendingResponse = some passing ∧
    8 ≤ (headWith (List.replicate 8 response) [] .pass (some passing) 1).head.reportQueue.length ∧
    (headWith (List.replicate 7 response) [] .pass none 5).mgmt.events ≠ [] ∧
    (∀ r ∈ (headWith (List.replicate 7 response) [] .pass none 5).head.reportQueue, r.isEvent = false) ∧
    (∃ r ∈ (headWith [eventReport] [] .pass none 1).head.reportQueue, r.isEvent = true) := by decide +kernel

theorem test_head_port :
    (after .headPortFree (headWith [eventReport, response] [passing] .pass none 0)).head.reportQueue = [eventReport] ∧
    (after .headPortFree (headWith [eventReport] [passing] .pass none 0)).head.turn = .events ∧
    (after .pendingResponsePlace (headWith [] [] .pass (some passing) 0)).head.reportQueue = [response] ∧
    (after .eventReportForm (headWith [] [] .pass none 5)).mgmt.events.length = 1 := by decide +kernel

/-! Strikes and the launch queue. -/

/-- A request of the loudest strike of bell 0 for a sound time; its flight is 20 ms. -/
def loudAt (sound : Int) : StrikeRequest := { bell := 0, velocity := 127, time := .soundAt sound, origin := .run 1 }

/-- A launch queue that holds `n` entries. -/
def holding (n : Nat) : State := withWaiting (belfry 100000) (List.replicate n (strikeAt 100500 .cue))

theorem test_witness_StrikePlanning :
    47 < ({ loudAt 0 with bell := 48 } : StrikeRequest).bell ∧ (belfry 5).bellRecs[5].enabled = false ∧
    (belfry 5).bellRecs[0].enabled = true ∧
    (planStrike (belfry 100000) { loudAt 0 with origin := .cue, velocity := 0 }).1 = .ignored ∧
    (planStrike (belfry 5) (loudAt 19)).1 = .refused .late ∧
    (planStrike (belfry 100000) (loudAt 100009)).1 = .refused .late ∧
    (planStrike (belfry 100000) (loudAt 100010)).1 = .accepted ∧
    (planStrike (belfry 100000) (loudAt 110020)).1 = .accepted ∧
    (planStrike (belfry 100000) (loudAt 110021)).1 = .refused .beyondHorizon ∧
    (holding 255).held < 256 ∧ 256 ≤ (holding 256).held ∧
    (planStrike (holding 256) (loudAt 100100)).1 = .refused .queueFull := by decide +kernel

/-- A STRIKE cue of two entries as soon as possible: bell 0, and bell 5, which is not enabled. -/
def strikeCueOf : List Byte := cue [1, 0, 0, 0, 0, 0, 0, 2, 0, 100, 0, 0, 5, 100, 0, 0]

theorem test_witness_StrikeCue : (belfry 100000).cued strikeCueOf .strike = true ∧
    readCue (framePayload strikeCueOf) = some (.strike 0 [{ bell := 0, velocity := 100, offset := 0 },
      { bell := 5, velocity := 100, offset := 0 }]) ∧ (belfry 100000).mgmt.engine = .run ∧
    (after (.strikeCue strikeCueOf) (belfry 100000)).launch.waiting.length = 1 ∧
    (after (.strikeCue strikeCueOf) (belfry 100000)).mgmt.events.map (fun e => (e.arg1, e.arg2)) = [(4, 257)] := by
  decide +kernel

/-- The record of bell 17 in the case of spec/03, 3.5: s 79, flight 38, p1 4449, trimmed to 2000. -/
def bellRec17 : BellRec :=
  { enabled := true, board := 3, channel := 6, curve := .square, pulseMin := 1200, pulseMax := 6000,
    pulseCeiling := 8000, flightSoft := 60, flightLoud := 24, recovery := 150, coilCurrent := 2500, heatLimit := 30000,
    coolRate := 5000 }

/-- The state of that case at the firing. -/
def bell17 : State :=
  { runAt 1000462 with
    bellRecs := State.reset.bellRecs.set 17 bellRec17,
    bells := State.reset.bells.set 17 { heat := 30000, heatAt := 1000062, lastFire := some 1000062, unavailable := false },
    boardRecs := State.reset.boardRecs.set 3 { enabled := true, address := 67, kind := .bell, group := 1 },
    boards := State.reset.boards.set 3 { BoardState.initial with presence := .present, rail := some 22500 },
    groups := State.reset.groups.set 1 { limit := 8000, reserve := 0 },
    figs := State.reset.figs.set 0 { resting 0 with state := .moving, admitted := some (1500, 1) } }

theorem test_bell17_planned :
    let s := { bell17 with clock := { bell17.clock with time := 999000 } }
    (planStrike s { bell := 17, velocity := 100, time := .soundAt 1000500, origin := .run 0 }).2.launch.waiting =
      [{ bell := 17, shaped := 79, sound := 1000500, fire := 1000462, fire0 := 1000462, origin := .run 0, deferred := 0 }] := by
  decide +kernel

theorem test_bell17_fired :
    let s := withWaiting bell17 [{ bell := 17, shaped := 79, sound := 1000500, fire := 1000462, fire0 := 1000462,
                                   origin := .run 0, deferred := 0 }]
    let t := after .fireHeadEntry s
    t.bells[17] = { heat := 30000, heatAt := 1000462, lastFire := some 1000462, unavailable := false } ∧
    t.strikeAccount = [{ group := 1, bell := 17, current := 2500, windowEnd := 1000464 }] ∧
    t.launch.counters.heatTrimmed = 1 ∧ t.launch.counters.emitted = 1 := by decide +kernel

/-- A due strike of bell 0, over bell states and admitted currents. -/
def firing (x : BellState) (motor : Nat) (account : List StrikeAdmission) : State :=
  let s := withWaiting (withFig (belfry 1000) 0 { resting 0 with admitted := some (motor, 0) }) [strikeAt 1000 .cue]
  { s with bells := s.bells.set 0 x, strikeAccount := account }

def coldBell : BellState := BellState.initial 1000
def windowTo (e : Int) : StrikeAdmission := { group := 0, bell := 1, current := 500, windowEnd := e }
def quieted (s : State) : State :=
  { s with calendar := { s.calendar with override := some { level := .bells, expiry := 2000 } } }

theorem test_witness_FiringOutcomes :
    let s := firing coldBell 0 []
    s.launch.waiting = [strikeAt 1000 .cue] ∧ (strikeAt 1000 .cue).fire ≤ s.clock.time ∧
    (after .fireHeadEntry (quieted s)).launch.counters.gated = 1 ∧
    (after .fireHeadEntry (withBoard s 1 BoardState.initial)).launch.counters.skipBoardAbsent = 1 ∧
    (after .fireHeadEntry (firing { coldBell with lastFire := some 901 } 0 [])).launch.counters.skipRecovery = 1 ∧
    (after .fireHeadEntry (firing { coldBell with lastFire := some 900 } 0 [])).launch.counters.skipped = 0 ∧
    (after .fireHeadEntry (firing { coldBell with heat := 8001 } 0 [])).launch.counters.skipHeat = 1 ∧
    (after .fireHeadEntry (firing { coldBell with heat := 8000 } 0 [])).launch.counters.heatTrimmed = 1 ∧
    (after .fireHeadEntry (firing coldBell 401 [])).launch.counters.skipBudget = 1 ∧
    (after .fireHeadEntry (firing coldBell 0 [windowTo 1011])).launch.counters.skipBudget = 1 ∧
    (after .fireHeadEntry (firing coldBell 0 [windowTo 1010])).launch.counters.deferrals = 1 ∧
    (after .fireHeadEntry (firing coldBell 400 [])).launch.counters.emitted = 1 := by decide +kernel

theorem test_deferred_entry :
    (after .fireHeadEntry (firing coldBell 0 [windowTo 1010])).launch.waiting =
      [{ strikeAt 1000 .cue with fire := 1010, deferred := 1 }] := by decide +kernel

theorem test_window_end :
    (after .strikeWindowEnd (firing coldBell 0 [windowTo 1000, windowTo 1001])).strikeAccount = [windowTo 1001] ∧
    (after .strikeWindowEnd (firing coldBell 0 [windowTo 1001])).strikeAccount = [windowTo 1001] := by decide +kernel

theorem test_witness_StepsMoveRuns :
    let s := withWaiting (runAt 5000) [strikeAt 4989 .cue, strikeAt 4990 .cue, strikeAt 5500 (.run 2)]
    ((s.launchStep 100).launch.waiting.map (fun e => e.fire)) = [4990, 5600] ∧
    (s.launchStep 100).launch.counters.stepPurged = 1 ∧
    (runAt 5).runs[2].state = .free ∧ ((withRun (runAt 5) 2 { Run.initial with state := .draining }).runStep (-7)).runs[2].anchor = -7 := by
  decide +kernel

/-! Runs. -/

/-- A MOTIF_PLAY cue: motif 0, no anchor, tempo 49, transpose -25, scale 0, count 3. -/
def motifPlayOf : List Byte := cue [2, 0, 0, 0, 0, 0, 0, 0, 49, 231, 0, 3]

/-- Every slot taken. -/
def crowded (s : State) : State := { s with runs := Vector.replicate 4 { Run.initial with state := .draining } }

theorem test_witness_MotifPlayCreatesARun : (belfry 1000).cued motifPlayOf .motifPlay = true ∧
    readCue (framePayload motifPlayOf) = some (.motifPlay 0 0 49 (-25) 0 3) ∧ (belfry 1000).mgmt.engine = .run ∧
    (∀ k : Fin 4, (crowded (belfry 1000)).runs[k].state ≠ .free) ∧
    (withRun (crowded (belfry 1000)) 3 Run.initial).runs[3].state = .free ∧
    (∀ j : Fin 4, j < 3 → (withRun (crowded (belfry 1000)) 3 Run.initial).runs[j].state ≠ .free) := by decide +kernel

theorem test_motif_play :
    (after (.motifPlay motifPlayOf) (belfry 1000)).runs[0].tempo = 50 ∧
    (after (.motifPlay motifPlayOf) (belfry 1000)).runs[0].anchor = 1300 ∧
    (after (.motifPlay motifPlayOf) (belfry 1000)).runs[0].state = .draining ∧
    (after (.motifPlay motifPlayOf) (crowded (belfry 1000))).mgmt.events.map (fun e => (e.arg1, e.arg2)) = [(9, 512)] := by
  decide +kernel

def topFrame : StackFrame := { motif := 0, nextRow := 0, repeatsLeft := 1, transpose := 0, scale := 64 }

/-- A run at row 0 of motif 0. -/
def playingRun : Run := { Run.initial with state := .playing, anchor := 1100, stack := [topFrame] }

/-- The run in slot 0 before a row of motif 0. -/
def atRow (row : Row) (r : Run) : State :=
  { withRun (belfry 1000) 0 r with motifDirs := State.reset.motifDirs.set 0 { firstRow := 0, rowCount := 1 },
                                   rows := State.reset.rows.set 0 row }

/-- A run whose position is near its top. -/
def farRun : Run := { playingRun with position := 4294967290, anchor := -4294967290 }

theorem test_witness_RestRow :
    (∀ r ∈ [playingRun, farRun, { playingRun with zeroCount := 254 }, { playingRun with zeroCount := 255 }],
      (atRow (.rest 5) r).expands 0 = true ∧ r.stack = [topFrame]) ∧
    topFrame.nextRow < (atRow (.rest 5) playingRun).motifDirs[topFrame.motif].firstRow +
      (atRow (.rest 5) playingRun).motifDirs[topFrame.motif].rowCount ∧
    (atRow (.rest 5) playingRun).rows[topFrame.nextRow]? = some (.rest 5) ∧
    farRun.position + 5 ≤ 4294967295 ∧ ¬(farRun.position + 6 ≤ 4294967295) := by decide +kernel

theorem test_rest_row :
    (after (.expansionStep 0) (atRow (.rest 5) farRun)).runs[0].position = 4294967295 ∧
    (after (.expansionStep 0) (atRow (.rest 6) farRun)).runs[0].zeroCount = 1 ∧
    (after (.expansionStep 0) (atRow (.rest 0) { playingRun with zeroCount := 254 })).runs[0].zeroCount = 255 ∧
    (after (.expansionStep 0) (atRow (.rest 0) { playingRun with zeroCount := 255 })).runs[0].state = .free := by
  decide +kernel

/-- The NOTE row's outcome of the strike planner, over a state and a bell. -/
def noteOutcome (s : State) (bell : Nat) (sound : Int) : PlanOutcome :=
  (planStrike s { bell := bell, velocity := 100, time := .soundAt sound, origin := .run 0 }).1

theorem test_witness_NoteRow :
    let s := atRow (.note 0 100 5) playingRun
    s.expands 0 = true ∧ s.rows[topFrame.nextRow]? = some (.note 0 100 5) ∧
    (0 : Int) + ({ topFrame with transpose := -1 } : StackFrame).transpose < 0 ∧
    47 < (47 : Int) + ({ topFrame with transpose := 1 } : StackFrame).transpose ∧
    noteOutcome s 0 1100 = .accepted ∧ noteOutcome s 5 1100 = .refused .bellInvalid ∧
    noteOutcome s 0 19 = .refused .late ∧ noteOutcome s 0 12000 = .refused .beyondHorizon ∧
    noteOutcome (withWaiting s (List.replicate 256 (strikeAt 1050 .cue))) 0 1100 = .refused .queueFull := by decide +kernel

theorem test_note_row :
    (after (.expansionStep 0) (atRow (.note 0 100 5) playingRun)).runs[0].planned = 1 ∧
    (after (.expansionStep 0) (atRow (.note 0 100 5) playingRun)).runs[0].position = 5 ∧
    (after (.expansionStep 0) (atRow (.note 5 100 5) playingRun)).runs[0].lost = 1 ∧
    (after (.expansionStep 0) (withWaiting (atRow (.note 0 100 5) playingRun)
      (List.replicate 256 (strikeAt 1050 .cue)))).runs[0].paused = true := by decide +kernel

theorem test_witness_NestRow :
    (∀ times ∈ [0, 2], ∀ n ∈ [1, 3, 4],
      (atRow (.nest 7 times 3 32) { playingRun with stack := List.replicate n topFrame }).expands 0 = true) ∧
    (atRow (.nest 7 2 3 32) playingRun).rows[topFrame.nextRow]? = some (.nest 7 2 3 32) ∧
    playingRun.position ≤ 4294967295 ∧ farRun.position ≤ 4294967295 ∧ playingRun.count = 0 ∧
    (after (.expansionStep 0) (atRow (.nest 7 2 3 32) playingRun)).runs[0].stack =
      [{ motif := 7, nextRow := 0, repeatsLeft := 2, transpose := 3, scale := 32 }, { topFrame with nextRow := 1 }] ∧
    (after (.expansionStep 0) (atRow (.nest 7 2 3 32) { playingRun with stack := List.replicate 4 topFrame })).runs[0].nestTooDeep = 1 ∧
    (after (.expansionStep 0) (atRow (.nest 7 0 3 32) playingRun)).runs[0].stack = [{ topFrame with nextRow := 1 }] := by
  decide +kernel

/-- A show run of show 3, whose one move arrives at mark 2. -/
def moveOf : MoveEntry :=
  { figure := 0, target := 400, speedPercent := 50, way := .shorter, startMark := 1, startDelay := 10, arriveMark := some 2 }
def showRun (p : Progress) : Run := { playingRun with kind := .show, showId := some 3, progress := [p] }
def withShow (s : State) : State :=
  { s with shows := State.reset.shows.set 3 { ShowRec.initial with enabled := true, moveCount := 1, grace := 500, need := .bells },
           moves := State.reset.moves.set 0 moveOf }

theorem test_witness_MarkAndMotifEnd :
    let s := withShow (atRow (.mark 2) (showRun .issued))
    s.expands 0 = true ∧ s.rows[topFrame.nextRow]? = some (.mark 2) ∧
    (∃ x ∈ (s.runMoves s.runs[0]).zip s.runs[0].progress, x.1.arriveMark = some 2 ∧
      (x.2 = .notIssued ∨ x.2 = .issued)) ∧
    (after (.expansionStep 0) s).runs[0].barrier = some { mark := 2, time := 1100 } ∧
    (after (.expansionStep 0) (withShow (atRow (.mark 2) (showRun .arrived)))).runs[0].barrier = none ∧
    (∀ st ∈ [[{ topFrame with nextRow := 1, repeatsLeft := 2 }], [{ topFrame with nextRow := 1 }, topFrame],
        [{ topFrame with nextRow := 1 }]],
      (atRow (.mark 2) { playingRun with stack := st }).expands 0 = true) := by decide +kernel

theorem test_motif_end :
    let at_ (st : List StackFrame) := after (.expansionStep 0) (withShow (atRow (.mark 2) { showRun .notIssued with stack := st }))
    (at_ [{ topFrame with nextRow := 1, repeatsLeft := 2 }]).runs[0].stack = [topFrame] ∧
    (at_ [{ topFrame with nextRow := 1 }, topFrame]).runs[0].stack = [topFrame] ∧
    (at_ [{ topFrame with nextRow := 1 }]).runs[0].state = .draining ∧
    (at_ [{ topFrame with nextRow := 1 }]).runs[0].progress = [.unreached] ∧
    (at_ [{ topFrame with nextRow := 1 }]).showUnit.counters.moveUnreached = 1 := by decide +kernel

def drained (p : Progress) : Run := { showRun p with state := .draining, stack := [] }

theorem test_witness_RunsResumeAndComplete :
    ({ playingRun with paused := true, roomNotice := true } : Run).paused = true ∧
    playingRun.paused = false ∧
    (after (.runPauseResume 0) (atRow (.note 0 100 5) { playingRun with paused := true, roomNotice := true })).runs[0].planned = 1 ∧
    (withRun (belfry 1000) 0 (drained .arrived)).runs[0].state = .draining ∧
    (∀ e ∈ (withRun (belfry 1000) 0 (drained .arrived)).launch.waiting, e.origin ≠ .run 0) ∧
    (∀ p ∈ (drained .unreached).progress, p = .arrived ∨ p = .failed ∨ p = .unreached) ∧
    (∃ e ∈ (withWaiting (runAt 5) [strikeAt 9 (.run 0)]).launch.waiting, e.origin = .run 0) ∧
    (∃ p ∈ (drained .issued).progress, p = .notIssued ∨ p = .issued) := by decide +kernel

theorem test_run_complete :
    let s := withFig (withRun (belfry 1000) 0 (drained .arrived)) 5 { resting 9 with owner := some 0 }
    (after (.runComplete 0) s).runs[0].state = .free ∧ (after (.runComplete 0) s).figs[5].owner = none ∧
    (after (.runComplete 0) s).mgmt.events.map (fun e => (e.kind, e.arg1, e.arg2)) = [(.showDone, 0, 3)] ∧
    (after (.runComplete 0) (withRun (belfry 1000) 0 (drained .issued))).runs[0].state = .draining := by decide +kernel

/-! Shows. -/

/-- A SHOW_START cue for show 3 at its own tempo, with no anchor. -/
def showStartOf : List Byte := cue [3, 3, 0, 0, 0, 0, 0, 0, 0, 2]
def requestOf (w : Fin 32) : ShowRequest :=
  { showId := w, count := 2, tempo := 100, anchor := none, origin := .cue, cyclesWaited := 0 }

/-- A bank whose one entry keeps the bell gate closed. -/
def closedBank : Bank :=
  { Bank.initial with count := 1,
                      entries := Bank.initial.entries.set 0 { SchedEntry.initial with bellGate := .closed } }
def closedAlways (s : State) : State := { s with calendar := { s.calendar with bankA := closedBank } }
def open3 : State := withShow (runAt 1000)

theorem test_witness_ShowStartQueues : open3.cued showStartOf .showStart = true ∧ open3.mgmt.engine = .run ∧
    readCue (framePayload showStartOf) = some (.showStart 3 0 0 2) ∧ (runAt 1000).shows[3].enabled = false ∧
    open3.shows[3].enabled = true ∧ open3.fitsActive 3 100 = true ∧ (closedAlways open3).fitsActive 3 100 = false ∧
    (∃ q ∈ (withShowQueue open3 [requestOf 3]).showUnit.queue, q.showId = 3) ∧
    (∃ k : Fin 4, (withRun open3 2 (showRun .issued)).runs[k].state ≠ .free ∧
      (withRun open3 2 (showRun .issued)).runs[k].showId = some 3) ∧
    (withShowQueue open3 (List.replicate 7 (requestOf 4))).showUnit.queue.length < 8 ∧
    8 ≤ (withShowQueue open3 (List.replicate 8 (requestOf 4))).showUnit.queue.length := by decide +kernel

theorem test_show_start :
    (after (.showStart showStartOf) open3).showUnit.queue = [] ∧
    (after (.showStart showStartOf) open3).runs[0].showId = some 3 ∧
    (after (.showStart showStartOf) (crowded open3)).showUnit.queue = [requestOf 3] ∧
    (after (.showStart showStartOf) (closedAlways open3)).showUnit.capture = some (3, 1000) ∧
    (after (.showStart showStartOf) (withShowQueue open3 (List.replicate 8 (requestOf 4)))).showUnit.counters.queueFull = 1 ∧
    (after (.showStart showStartOf) (withShowQueue open3 [requestOf 3])).showUnit.counters.duplicate = 1 := by decide +kernel

/-- A SHOW_STOP cue for show 3. -/
def showStopOf : List Byte := cue [4, 3]

theorem test_witness_ShowStopEndsTheShow : open3.cued showStopOf .showStop = true ∧
    readCue (framePayload showStopOf) = some (.showStop 3) ∧
    (¬∃ k : Fin 4, open3.runs[k].state ≠ .free ∧ open3.runs[k].showId = some 3) ∧
    (∃ q ∈ (withShowQueue open3 [requestOf 3]).showUnit.queue, q.showId = 3) ∧
    (withRun open3 2 (showRun .issued)).runs[2].state ≠ .free ∧
    (∀ j : Fin 4, j ≠ 2 → (withRun open3 2 (showRun .issued)).runs[j].state = .free) := by decide +kernel

theorem test_show_stop :
    (after (.showStop showStopOf) (withShowQueue open3 [requestOf 4, requestOf 3])).showUnit.queue = [requestOf 4] ∧
    (after (.showStop showStopOf) (withWaiting (withRun open3 2 (showRun .issued)) [strikeAt 9 (.run 2)])).launch.waiting = [] ∧
    (after (.showStop showStopOf) open3).mgmt.events.map (fun e => (e.arg1, e.arg2)) = [(14, 1024)] := by decide +kernel

/-- A state with a show queued, a run, a strike and an owned figure. -/
def busy : State :=
  withShowQueue (withFig (withWaiting (withRun open3 2 (showRun .issued)) [strikeAt 2000 (.run 2), strikeAt 3000 .cue]) 5
    { resting 9 with owner := some 2 }) [requestOf 4]

theorem test_witness_AllStopStopsEverything : busy.cued (cue [6]) .allStop = true ∧ busy.mgmt.engine = .run ∧
    busy.figs[5].owner = some 2 ∧ busy.runs[2].state ≠ .free ∧
    (after (.allStop (cue [6])) busy).launch.waiting = [] ∧ (after (.allStop (cue [6])) busy).showUnit.queue = [] ∧
    (after (.allStop (cue [6])) busy).figs[5].owner = none := by decide +kernel

/-- An engine at 1000 whose next entry time is 1300. -/
def leading : State :=
  let b : Bank := { Bank.initial with count := 1, entries := Bank.initial.entries.set 0 { SchedEntry.initial with offset := 1300 } }
  { open3 with calendar := { open3.calendar with bankA := b } }

theorem test_witness_HeadsAreAdmitted :
    let s := withShowQueue open3 [requestOf 3]
    s.showUnit.queue = [requestOf 3] ∧ s.admissible (requestOf 3) = true ∧ s.runs[0].state = .free ∧
    (crowded s).admissible (requestOf 3) = false ∧
    (withRun (crowded s) 3 Run.initial).admissible (requestOf 3) = true ∧
    (∀ j : Fin 4, j < 3 → (withRun (crowded s) 3 Run.initial).runs[j].state ≠ .free) ∧
    leading.leadReached = true ∧ open3.leadReached = false ∧
    (after .showAdmission s).showUnit.queue = [] ∧ (after .showAdmission s).runs[0].anchor = 1300 ∧
    (after .entryLeadJudge (withShowQueue leading [requestOf 3])).runs[0].showId = some 3 := by decide +kernel

/-- A run of show 3 at a barrier on mark 2. -/
def barredRun (st : RunState) (time : Int) (p : Progress) : Run :=
  { showRun p with state := st, barrier := some { mark := 2, time := time } }
def barred (st : RunState) (time : Int) (p : Progress) : State := withRun open3 0 (barredRun st time p)

theorem test_witness_BarriersHoldAndClear :
    (barred .playing 1000 .issued).runs[0].barrier = some { mark := 2, time := 1000 } ∧
    (barred .playing 1000 .issued).runs[0].state = .playing ∧ (1000 : Int) ≤ (barred .playing 1000 .issued).clock.time ∧
    (barred .playing 1001 .issued).clock.time < 1001 ∧
    (∀ x ∈ ((barred .holding 900 .failed).runMoves (barred .holding 900 .failed).runs[0]).zip [Progress.failed],
      x.1.arriveMark = some 2 → x.2 = .arrived ∨ x.2 = .failed ∨ x.2 = .unreached) ∧
    (¬∀ x ∈ ((barred .holding 900 .issued).runMoves (barred .holding 900 .issued).runs[0]).zip [Progress.issued],
      x.1.arriveMark = some 2 → x.2 = .arrived ∨ x.2 = .failed ∨ x.2 = .unreached) ∧
    (barred .holding 500 .issued).shows[3].grace = 500 ∧ (barred .holding 501 .issued).clock.time < 501 + 500 := by
  decide +kernel

theorem test_barriers :
    (after (.barrierMarkTime 0) (barred .playing 1000 .issued)).runs[0].state = .holding ∧
    (after (.barrierMarkTime 0) (barred .playing 1001 .issued)).runs[0].state = .playing ∧
    (after (.barrierClear 0) (barred .holding 900 .failed)).runs[0].anchor = 1200 ∧
    (after (.barrierClear 0) (barred .holding 900 .failed)).runs[0].holdTotal = 100 ∧
    (after (.holdDeadline 0) (barred .holding 500 .issued)).showUnit.counters.lateFigure = 1 ∧
    (after (.holdDeadline 0) (barred .holding 501 .issued)).runs[0].state = .holding := by decide +kernel

/-- A show run at its first move, with mark 1 set. -/
def cursorAt (mark : Option Int) (b : Option Barrier) (p : Progress) : State :=
  withFig (withRun (withShow (stage 1000)) 0 { showRun p with marks := (showRun p).marks.set 1 mark, barrier := b }) 0
    { resting 0 with owner := some 0 }

theorem test_witness_CursorIssuesMoves :
    let s := cursorAt (some 990) none .notIssued
    (runAt 5).runs[0].state = .free ∧ (s.runMoves s.runs[0]).drop 1 = [] ∧ s.runs[0].state ≠ .free ∧
    (s.runMoves s.runs[0]).drop s.runs[0].cursor = [moveOf] ∧ s.runs[0].progress[s.runs[0].cursor]? = some .notIssued ∧
    (cursorAt none none .failed).runs[0].progress[s.runs[0].cursor]? ≠ some .notIssued ∧
    (cursorAt none none .notIssued).runs[0].marks[moveOf.startMark] = none ∧
    s.runs[0].marks[moveOf.startMark] = some 990 ∧ (990 : Int) + moveOf.startDelay ≤ s.clock.time ∧
    (cursorAt (some 991) none .notIssued).clock.time < 991 + moveOf.startDelay ∧
    (∃ b ∈ (cursorAt (some 990) (some { mark := 1, time := 990 }) .notIssued).runs[0].barrier, b.mark = moveOf.startMark) ∧
    s.figs[moveOf.figure].owner = some 0 ∧ (withFig s 0 (resting 0)).figs[moveOf.figure].owner ≠ some 0 := by decide +kernel

theorem test_cursor :
    (after (.moveStartTime 0) (cursorAt (some 990) none .notIssued)).figs[0].state = .waitZone ∧
    (after (.moveStartTime 0) (cursorAt (some 990) none .notIssued)).runs[0].progress = [.issued] ∧
    (after (.moveStartTime 0) (cursorAt (some 991) none .notIssued)).runs[0].progress = [.notIssued] ∧
    (after (.moveStartTime 0) (withFig (cursorAt (some 990) none .notIssued) 0 (resting 0))).runs[0].progress = [.failed] := by
  decide +kernel

/-! Figures and zones. -/

/-- A FIGURE_GO cue. -/
def goOf (f target : Nat) : List Byte := cue [5, f, target % 256, target / 256, 100, 2]

/-- Figure 0 on the stage in a state, with the zone of its place held. -/
def stageWith (x : Figure) : State := { withFig (stage 1000) 0 x with zones := State.reset.zones.set 3 (some 0) }

/-- The gates closed by an override ALL. -/
def silenced (s : State) : State :=
  { s with calendar := { s.calendar with override := some { level := .all, expiry := 90000 } } }

def goal400 : MoveGoal := .go 400 100 .shorter

theorem test_witness_LiveMovesAreTaken :
    let s := stageWith (resting 0)
    s.cued (goOf 0 400) .figureGo = true ∧ s.cued (goOf 15 65535) .figureGo = true ∧ s.mgmt.engine = .run ∧
    readCue (framePayload (goOf 0 400)) = some (.figureGo 0 400 100 .shorter) ∧
    readCue (framePayload (goOf 15 65535)) = some (.figureGo 15 65535 100 .shorter) ∧ s.figRecs[15].enabled = false ∧
    s.figRecs[0].enabled = true ∧ (stageWith { resting 0 with owner := some 1 }).figs[0].owner ≠ none ∧
    s.figs[0].owner = none ∧ s.figs[0].state = .idle ∧ s.boardRecs[2].enabled = true ∧ s.boardRecs[2].kind = .motion ∧
    ({ s with boardRecs := State.reset.boardRecs } : State).boardRecs[2].enabled = false ∧
    atTarget figRec goal400 (some 0) = false ∧ atTarget figRec goal400 (some 400) = true ∧
    s.calendar.figuresOpen = true ∧ (silenced s).calendar.figuresOpen = false ∧
    (stageWith { resting 0 with state := .moving, nextMove := some (goTo 9 .cue) }).figs[0].nextMove = some (goTo 9 .cue) ∧
    (goTo 9 .cue).requester = .cue := by decide +kernel

theorem test_figure_go :
    (after (.figureGo (goOf 0 600)) (stageWith (resting 0))).figs[0].needed = [3, 4] ∧
    (after (.figureGo (goOf 0 400)) (silenced (stageWith (resting 0)))).figs[0].state = .held ∧
    (after (.figureGo (goOf 0 400)) (stageWith (resting 400))).figs[0].movesArrived = 1 ∧
    (after (.figureGo (goOf 0 400)) (stageWith { resting 0 with state := .moving, nextMove := some (goTo 9 .cue) })).figs[0].moveReplaced = 1 := by
  decide +kernel

/-- Two figures in FAULT, one of them with current. -/
def faulted (first second : Option (Nat × Fin 4)) : State :=
  withFig (stageWith { resting 7 with state := .fault, faultCause := some .stall, admitted := first }) 1
    { resting 7 with state := .fault, faultCause := some .limit, admitted := second }

def homeOf (f : Nat) : List Byte := request 10 [f]
def clearOf (scope index : Nat) : List Byte := request 11 [scope, index]

theorem test_witness_HomingsAndFaultsAreManaged :
    let s := stageWith Figure.initial
    s.reaches (homeOf 0) .figureHome = true ∧ readRequest (framePayload (homeOf 0)) = some (.figureHome 0) ∧
    readRequest (framePayload (homeOf 15)) = some (.figureHome 15) ∧ (configAt 5).mgmt.engine = .config ∧
    (configAt 5).reaches (homeOf 0) .figureHome = true ∧
    s.mgmt.engine = .run ∧ s.figs[0].state = .unhomed ∧ s.figRecs[0].enabled = true ∧ s.figRecs[15].enabled = false ∧
    (stageWith { Figure.initial with owner := some 3 }).figs[0].owner ≠ none ∧
    (faulted none none).reaches (clearOf 0 0) .faultClear = true ∧
    readRequest (framePayload (clearOf 0 0)) = some (.faultClear 0 0) ∧
    readRequest (framePayload (clearOf 1 2)) = some (.faultClear 1 2) ∧
    (faulted none none).figs[0].state = .fault ∧ (faulted none none).figs[0].admitted = none ∧
    (faulted (some (300, 0)) none).figs[0].admitted ≠ none ∧ (faulted none none).boards[2].presence ≠ .absent ∧
    (withBoard (faulted none none) 2 { BoardState.initial with presence := .absent }).boards[2].presence = .absent ∧
    (∀ x : Fin 16, s.figRecs[x].board = 2 → s.figs[x].state ≠ .fault) ∧
    (∀ x : Fin 16, (faulted (some (300, 0)) (some (300, 0))).figs[x].state = .fault →
      (faulted (some (300, 0)) (some (300, 0))).figs[x].admitted ≠ none) := by decide +kernel

theorem test_home_and_clear :
    (after (.figureHome (homeOf 0)) (stageWith Figure.initial)).figs[0].state = .waitZone ∧
    (after (.faultClear (clearOf 0 0)) (faulted none none)).figs[0].state = .unhomed ∧
    (after (.faultClear (clearOf 0 0)) (faulted none none)).zones[3] = none ∧
    (after (.faultClear (clearOf 1 2)) (faulted none (some (300, 0)))).figs[1].state = .fault := by decide +kernel

/-- Figures 0 and 1 waiting for zones, figure 1 with the higher priority. -/
def waiters (zone3 : Option (Fin 16)) : State :=
  let s := withFig (withFig (stage 1000) 0 { resting 0 with state := .waitZone, needed := [3, 4] }) 1
    { resting 0 with state := .waitZone, needed := [4] }
  { s with figRecs := s.figRecs.set 1 { figRec with channel := 1, priority := 6 }, zones := State.reset.zones.set 3 zone3 }

theorem test_witness_ZoneGrants :
    (waiters none).figs[1].state = .waitZone ∧
    (∀ y : Fin 16, y ≠ 1 → (waiters none).figs[y].state = .waitZone →
      (waiters none).figRecs[y].priority < (waiters none).figRecs[1].priority ∨
      ((waiters none).figRecs[y].priority = (waiters none).figRecs[1].priority ∧ 1 < y)) ∧
    (∀ z ∈ (waiters none).figs[1].needed, (waiters none).zones[z] = none ∨ (waiters none).zones[z] = some 1) ∧
    (∃ z ∈ (waiters (some 9)).figs[0].needed, ∃ y : Fin 16, y ≠ 0 ∧ (waiters (some 9)).zones[z] = some y) ∧
    (after .zoneGrant (waiters none)).figs[1].state = .waitSupply ∧ (after .zoneGrant (waiters none)).zones[4] = some 1 ∧
    (after .zoneGrant (waiters none)).figs[0].state = .waitZone ∧ (after .zoneGrant (waiters none)).zones[3] = none := by
  decide +kernel

/-- Figure 0 waiting for supply since 400, in a group with strike current `n`. -/
def asking (g : MoveGoal) (n : Nat) : State :=
  { stageWith { resting 0 with state := .waitSupply, waitStart := some 400, needed := [3], resolvedWay := .forward,
                               current := some { goal := g, requester := .cue, withdrawn := false } } with
    strikeAccount := [{ group := 0, bell := 0, current := n, windowEnd := 1001 }] }

/-- The same with figure 1 asking as well, at a priority. -/
def askingBoth (p : Nat) : State :=
  let s := withFig (asking goal400 0) 1 { resting 0 with
    state := .waitSupply, current := some (goTo 9 .cue), waitStart := some 500 }
  { s with figRecs := s.figRecs.set 1 { figRec with channel := 1, priority := p } }

theorem test_witness_SupplyIsAdmittedAndReleased :
    (asking goal400 700).figs[0].state = .waitSupply ∧ (asking goal400 700).figs[0].waitStart = some 400 ∧
    (400 : Int) ≤ (asking goal400 700).clock.time ∧ (asking goal400 700).boards[2].presence ≠ .absent ∧
    (asking goal400 700).motorSum 0 + 300 + (asking goal400 700).strikeSum 0 + (asking goal400 700).groups[0].reserve ≤ 1000 ∧
    1000 < (asking goal400 701).motorSum 0 + 300 + (asking goal400 701).strikeSum 0 + (asking goal400 701).groups[0].reserve ∧
    (∀ y : Fin 16, y ≠ 0 → (askingBoth 5).figs[y].state = .waitSupply → (askingBoth 5).figRecs[y].priority = 5 ∧ 0 < y) ∧
    (askingBoth 6).figs[1].state = .waitSupply ∧ 5 < (askingBoth 6).figRecs[1].priority ∧
    (∃ a ∈ (firing coldBell 0 [windowTo 1000]).strikeAccount, a.windowEnd = 1000) ∧
    (∀ a ∈ (firing coldBell 0 [windowTo 1001]).strikeAccount, (1000 : Int) < a.windowEnd) := by decide +kernel

theorem test_supply :
    (after (.figureSupplyAdmit 0) (asking goal400 700)).figs[0].state = .starting ∧
    (after (.figureSupplyAdmit 0) (asking goal400 700)).figs[0].waitUsed = 600 ∧
    (after (.figureSupplyAdmit 0) (asking .home 700)).figs[0].travelDeadline = some 121000 ∧
    (after (.figureSupplyAdmit 0) (asking goal400 701)).figs[0].state = .waitSupply ∧
    (after (.figureSupplyAdmit 0) (askingBoth 6)).figs[0].state = .waitSupply ∧
    (after (.figureSupplyAdmit 0) (askingBoth 5)).boards[2].commands.map (fun c => c.op) = [.move 400 .forward 200] := by
  decide +kernel

/-- Figure 0 in a state with a deadline at 1000, holding zones 3 and 4, with a next move. -/
def timed (st : FigState) (deadline : Int) (next : Option Move) : State :=
  { stageWith { resting 0 with state := st, current := some (goTo 400 .cue), nextMove := next,
                               waitStart := some (deadline - 30000), travelDeadline := some deadline } with
    zones := (State.reset.zones.set 3 (some 0)).set 4 (some 0) }

theorem test_witness_FigureDeadlines :
    (∀ st ∈ [FigState.waitZone, .waitSupply, .moving, .homing], (timed st 1000 none).figs[0].state = st) ∧
    (timed .waitZone 1000 none).figs[0].current = some (goTo 400 .cue) ∧ (goTo 400 .cue).withdrawn = false ∧
    (timed .waitZone 1000 none).figs[0].waitStart = some (-29000) ∧
    (-29000 : Int) + (timed .waitZone 1000 none).mgmt.settings.zoneWait - (timed .waitZone 1000 none).figs[0].waitUsed ≤
      (timed .waitZone 1000 none).clock.time ∧
    (∃ d ∈ (timed .moving 1000 none).figs[0].travelDeadline, d ≤ (timed .moving 1000 none).clock.time) ∧
    (4 : Fin 24) ∉ zonesAt (timed .waitZone 1000 none).figRecs[0] (some 0) ∧
    (3 : Fin 24) ∈ zonesAt (timed .waitZone 1000 none).figRecs[0] (some 0) := by decide +kernel

theorem test_figure_deadlines :
    (after (.zoneWaitDeadline 0) (timed .waitZone 1000 none)).figs[0].moveAbandoned = 1 ∧
    (after (.zoneWaitDeadline 0) (timed .waitZone 1000 none)).zones[4] = none ∧
    (after (.zoneWaitDeadline 0) (timed .waitZone 1001 none)).figs[0].state = .waitZone ∧
    (after (.travelDeadline 0) (timed .moving 1000 (some (goTo 9 .cue)))).figs[0].movesFailed = 2 ∧
    (after (.travelDeadline 0) (timed .moving 1000 none)).boards[2].commands.map (fun c => c.op) = [.stop] ∧
    (after (.travelDeadline 0) (timed .moving 1001 none)).figs[0].state = .moving ∧
    (after (.homingDeadline 0) (timed .homing 1000 none)).figs[0].faultCause = some .homeFailed ∧
    (after (.homingDeadline 0) (timed .homing 1001 none)).figs[0].state = .homing := by decide +kernel

/-! Driver boards. -/

/-- Figure 0 STARTING with its MOVE in handshake under tag 5. -/
def handshake (c : Command) (x : Figure) : State :=
  withBoard (stageWith x) 2 { BoardState.initial with presence := .present, commands := [c] }

def moveInHand : Command := command 1 (.move 400 .forward 200) (.outstanding 1010) [0]
def starting : Figure := { resting 0 with state := .starting, current := some (goTo 400 .cue), legDistance := 400,
                                          legSpeed := 200, admitted := some (300, 0) }
def ackOf : List Byte := fromBoard 30 0x42 [5, 0]
def rejectOf : List Byte := fromBoard 30 0x42 [5, 1]

theorem test_witness_BoardAnswers :
    let s := handshake moveInHand starting
    s.fixedPath .tail ackOf .boardAnswer = true ∧ s.fixedPath .tail rejectOf .boardAnswer = true ∧
    s.boardOf (frameSrc (fromBoard 31 0x42 [5, 0])) = none ∧ s.boardOf (frameSrc ackOf) = some 2 ∧
    readAnswer (framePayload (fromBoard 30 0x42 [5])) = none ∧ readAnswer (framePayload (fromBoard 30 0x42 [5, 2])) = none ∧
    readAnswer (framePayload ackOf) = some (5, true) ∧ readAnswer (framePayload rejectOf) = some (5, false) ∧
    s.boards[2].inHandshake? 5 = some moveInHand ∧ s.boards[2].inHandshake? 6 = none ∧
    (handshake { moveInHand with condition := .resend } starting).boards[2].inHandshake? 5 =
      some { moveInHand with condition := .resend } ∧
    (handshake { moveInHand with condition := .waiting } starting).boards[2].inHandshake? 5 = none ∧
    ({ moveInHand with rejects := 2 } : Command).rejects + 1 ≤ s.mgmt.settings.retries ∧
    s.mgmt.settings.retries < ({ moveInHand with rejects := 3 } : Command).rejects + 1 ∧ s.mgmt.engine = .run ∧
    ({ s with mgmt := Management.initial } : State).mgmt.engine = .config ∧ moveInHand.op ≠ .stop ∧
    s.figs[0].state = .starting ∧ (handshake moveInHand { starting with state := .stopping }).figs[0].state = .stopping := by
  decide +kernel

theorem test_answers :
    (after (.boardAnswer ackOf) (handshake moveInHand starting)).figs[0].travelDeadline = some (1000 + 2000 * 3 / 2 + 500) ∧
    (after (.boardAnswer rejectOf) (handshake { moveInHand with rejects := 2 } starting)).boards[2].commands.map (fun c => c.condition) =
      [.holdoff 1020] ∧
    (after (.boardAnswer rejectOf) (handshake { moveInHand with rejects := 3 } starting)).figs[0].faultCause = some .boardBusy ∧
    (after (.boardAnswer rejectOf) (handshake { moveInHand with rejects := 3 } starting)).figs[0].admitted = none := by
  decide +kernel

/-- A BELL status of rail 24000 with the fault flag of channel 2. -/
def bellStatusOf : List Byte := fromBoard 20 0x43 ([192, 93] ++ (List.replicate 16 0).set 2 1)
/-- A MOTION status with figure 0 at 399, arrived. -/
def motionStatusOf : List Byte := fromBoard 30 0x43 ([0, 0] ++ [143, 1, 0, 1, 0, 0, 0] ++ List.replicate 21 0)

theorem test_witness_BoardStatuses :
    (belfry 1000).fixedPath .tail bellStatusOf .boardStatus = true ∧ (stage 1000).boardOf (frameSrc bellStatusOf) = none ∧
    (belfry 1000).boardOf (frameSrc bellStatusOf) = some 1 ∧ (belfry 1000).boardRecs[1].kind = .bell ∧
    (stage 1000).fixedPath .tail motionStatusOf .boardStatus = true ∧
    (stage 1000).boardOf (frameSrc motionStatusOf) = some 2 ∧ (stage 1000).boardRecs[2].kind = .motion ∧
    (readBellStatus (framePayload bellStatusOf)).map (fun p => p.1) = some 24000 ∧
    readBellStatus (framePayload (fromBoard 20 0x43 (List.replicate 17 0))) = none ∧
    (readMotionStatus (framePayload motionStatusOf)).map (fun p => p.1) = some 0 ∧
    readMotionStatus (framePayload (fromBoard 30 0x43 (List.replicate 29 0))) = none := by decide +kernel

theorem test_statuses :
    (after (.boardStatus bellStatusOf) (belfry 1000)).bells[0].unavailable = true ∧
    (after (.boardStatus bellStatusOf) (belfry 1000)).boards[1].rail = some 24000 ∧
    (after (.boardStatus motionStatusOf) (stageWith { resting 0 with state := .moving, current := some (goTo 400 .cue) })).figs[0].state = .idle ∧
    (after (.boardStatus motionStatusOf) (stageWith { resting 0 with state := .moving, current := some (goTo 402 .cue) })).figs[0].state = .moving := by
  decide +kernel

def report (p : Nat) : ChanReport := { ChanReport.clear with position := p, arrived := true }

theorem test_witness_ReportsMoveFigures :
    let s := stageWith { resting 0 with state := .moving, current := some (goTo 400 .cue) }
    s.figs[0].state = .moving ∧ s.figs[0].position ≠ none ∧ (report 398).overcurrent = false ∧ (report 398).limit = false ∧
    (report 398).arrived = true ∧
    withinTolerance s.figRecs[0] (reportedPosition s.figRecs[0] 398) (goTo 400 .cue).goal = true ∧
    withinTolerance s.figRecs[0] (reportedPosition s.figRecs[0] 397) (goTo 400 .cue).goal = false ∧
    ({ report 5 with overcurrent := true } : ChanReport).overcurrent = true ∧
    ({ report 5 with limit := true } : ChanReport).limit = true ∧
    (s.figureStatus 0 { report 5 with limit := true, overcurrent := true }).figs[0].faultCause = some .overcurrent := by
  decide +kernel

/-- Nothing else stands in a list of one. -/
theorem only_one (c : Command) (p : Command → Prop) : ∀ d ∈ [c], d ≠ c → p d :=
  fun _ h n => absurd (List.mem_singleton.1 h) n

/-- A board with one command outstanding to 1000, or in holdoff to a time. -/
def waitingBoard (c : Command) : State := handshake c starting

theorem test_witness_BoardDeadlines : ∀ used ∈ [true, false], ∀ c ∈ [{ moveInHand with
      condition := .outstanding 1000, resendUsed := used }],
    c ∈ (waitingBoard c).boards[2].commands ∧ c.condition = .outstanding 1000 ∧ (1000 : Int) ≤ (waitingBoard c).clock.time ∧
    (waitingBoard c).boards[2].commands = [c] ∧ c.resendUsed = used ∧ (waitingBoard c).mgmt.engine = .run ∧
    ({ waitingBoard c with mgmt := Management.initial } : State).mgmt.engine = .config ∧ c.op ≠ .stop := by decide +kernel

theorem test_witness_BoardDeadlines_others (c : Command) (h : (waitingBoard c).boards[2].commands = [c]) :
    ∀ d ∈ (waitingBoard c).boards[2].commands, d ≠ c →
      ∀ u, d.condition = .outstanding u → (waitingBoard c).clock.time < u := by
  rw [h]; exact only_one c _

theorem test_witness_StatusDeadline : (stage 750).boards[2].presence = .present ∧
    (stage 750).boards[2].statusDeadline = some 1000 ∧
    (after (.statusDeadline 2) { stage 750 with clock := { (runAt 750).clock with time := 1000 } }).boards[2].presence = .absent ∧
    (after (.statusDeadline 2) { stage 750 with clock := { (runAt 750).clock with time := 999 } }).boards[2].presence = .present := by
  decide +kernel

theorem test_timeouts :
    let at_ (timer : Int) (used : Bool) := after (.answerTimeout 2) (waitingBoard { moveInHand with
      condition := .outstanding timer, resendUsed := used })
    (at_ 1000 false).boards[2].commands.map (fun c => c.condition) = [.resend] ∧
    (at_ 1000 false).tail.commandQueue = [{ board := 2, id := 1, dest := 30 }] ∧
    (at_ 1001 false).boards[2].timedOut = 0 ∧ (at_ 1000 true).boards[2].presence = .absent ∧
    (at_ 1000 true).figs[0].faultCause = some .boardAbsent ∧ (at_ 1000 true).figs[0].admitted = none := by decide +kernel

/-- A command queue of `n` frames and a waiting STOP behind a waiting MOVE. -/
def placing (n : Nat) : State :=
  let s := withBoard (stage 1000) 2 { BoardState.initial with
    commands := [command 4 .stop .waiting [0], command 3 .home .waiting [0]] }
  tailWith s [] (List.replicate n { board := 9, id := 99, dest := 9 }) []

theorem test_witness_CommandsArePlaced :
    let c : Command := { moveInHand with condition := .holdoff 1000 }
    c ∈ (waitingBoard c).boards[2].commands ∧ (waitingBoard c).boards[2].commands = [c] ∧
    (1000 : Int) ≤ (waitingBoard c).clock.time ∧
    (2, command 4 .stop .waiting [0]) ∈ (placing 15).unplacedCommands ∧
    (∀ y ∈ (placing 15).unplacedCommands, y ≠ (2, command 4 .stop .waiting [0]) →
      (command 4 .stop .waiting [0]).offerClass < y.2.offerClass ∨
      ((command 4 .stop .waiting [0]).offerClass = y.2.offerClass ∧ 4 < y.2.id)) ∧
    (placing 15).tail.commandQueue.length < 16 ∧ 16 ≤ (placing 16).tail.commandQueue.length ∧
    (runAt 5).unplacedCommands = [] := by decide +kernel

theorem test_witness_CommandsArePlaced_others (c : Command) (h : (waitingBoard c).boards[2].commands = [c]) :
    ∀ d ∈ (waitingBoard c).boards[2].commands, d ≠ c →
      ∀ u, d.condition = .holdoff u → (waitingBoard c).clock.time < u := by
  rw [h]; exact only_one c _

theorem test_placing :
    (after .commandQueuePlace (placing 15)).tail.commandQueue.getLast? = some { board := 2, id := 4, dest := 30 } ∧
    (after .commandQueuePlace (placing 16)).tail.commandQueue.length = 16 ∧
    (after (.rejectHoldoffEnd 2) (waitingBoard { moveInHand with condition := .holdoff 1000 })).boards[2].commands.map
      (fun c => c.condition) = [.waiting] ∧
    (after (.rejectHoldoffEnd 2) (waitingBoard { moveInHand with condition := .holdoff 1001 })).boards[2].commands.map
      (fun c => c.condition) = [.holdoff 1001] := by decide +kernel

/-! The programme calendar. -/

def overridden (l : QuietLevel) (expiry : Int) : State :=
  { stageWith { resting 0 with state := .waitZone, waitStart := some 900, current := some (goTo 400 .cue) } with
    calendar := { Calendar.initial with override := some { level := l, expiry := expiry } } }

theorem test_witness_QuietOverrides :
    (∀ f ∈ [quietOf 0 0, quietOf 1 0, quietOf 2 600001, quietOf 3 5, frame 0x23 [1, 0, 0, 0]],
      (stage 1000).fixedPath .head f .calendar = true) ∧
    readQuiet (framePayload (quietOf 3 5)) = none ∧ readQuiet (framePayload (frame 0x23 [1, 0, 0, 0])) = none ∧
    readQuiet (framePayload (quietOf 0 0)) = some (.clear, 0) ∧ (stage 1000).calendar.override = none ∧
    readQuiet (framePayload (quietOf 1 0)) = some (.level .bells, 0) ∧
    readQuiet (framePayload (quietOf 2 600001)) = some (.level .all, 600001) ∧
    (overridden .bells 1000).calendar.override = some { level := .bells, expiry := 1000 } ∧
    (1000 : Int) ≤ (overridden .bells 1000).clock.time ∧ (overridden .bells 1001).clock.time < 1001 ∧
    (stage 1000).calendar.figuresOpen = true ∧ (silenced (stage 1000)).calendar.figuresOpen = false := by decide +kernel

theorem test_quiet :
    (after (.quiet (quietOf 2 600001)) (stage 1000)).calendar.override = some { level := .all, expiry := 601000 } ∧
    (after (.quiet (quietOf 1 0)) (stage 1000)).calendar.override = some { level := .bells, expiry := 1001 } ∧
    (after (.quiet (quietOf 2 5)) (overridden .bells 2000)).figs[0].state = .held ∧
    (after .quietExpiry (overridden .bells 1000)).calendar.override = none ∧
    (after .quietExpiry (overridden .bells 1001)).calendar.override ≠ none ∧
    (after (.quiet (quietOf 3 5)) (stage 1000)).calendar.counters.badQuiet = 1 := by decide +kernel

/-- An active bank of one entry at an offset that closes the bells, with a cycle. -/
def dayOf (offset cycle : Nat) (trigger : Option Trigger) : Bank :=
  let e : SchedEntry := { offset := offset, bellGate := .closed, figureGate := .opened, trigger := trigger }
  { base := 0, cycle := cycle, count := 1, entries := Bank.initial.entries.set 0 e }

def onDay (s : State) (b : Bank) (taken : Int) : State :=
  { s with calendar := { s.calendar with bankA := b, entriesTaken := taken } }

/-- The end of a day whose gates stay open, with the cycle start moved on. -/
def nextDay : State :=
  let s := withShow (onDay (runAt 60000) { Bank.initial with cycle := 60000 } 1000)
  { s with calendar := { s.calendar with cycleStart := 60000 } }

theorem test_witness_EntriesAndRestarts :
    let passed (s : State) := (s.calendar.activeBank.entries.toList.take s.calendar.activeBank.count).filter
      (fun e => decide (s.calendar.entriesTaken < s.calendar.cycleStart + e.offset ∧
        s.calendar.cycleStart + e.offset ≤ s.clock.time))
    passed (onDay (runAt 1000) (dayOf 1000 60000 none) 999) ≠ [] ∧ passed (onDay (runAt 1000) (dayOf 1000 60000 none) 1000) = [] ∧
    passed (onDay (runAt 1000) (dayOf 1001 60000 none) 999) = [] ∧
    (runAt 59999).clock.time < 0 + 60000 ∧ (0 : Int) + 60000 ≤ (runAt 60000).clock.time ∧
    passed (onDay (runAt 60000) (dayOf 1000 60000 none) 1000) = [] ∧
    nextDay.admissible (requestOf 3) = true ∧ (crowded nextDay).admissible (requestOf 3) = false ∧
    (requestOf 3).cyclesWaited + 1 < (runAt 5).mgmt.settings.starvation ∧
    (runAt 5).mgmt.settings.starvation ≤ ({ requestOf 3 with cyclesWaited := 1 } : ShowRequest).cyclesWaited + 1 := by
  decide +kernel

theorem test_cycle :
    let day := onDay (runAt 60000) (dayOf 1000 60000 none) 1000
    (after .entryTime (onDay (runAt 1000) (dayOf 1000 60000 none) 999)).calendar.listBells = .closed ∧
    (after .entryTime (onDay (runAt 1000) (dayOf 1001 60000 none) 999)).calendar.listBells = .opened ∧
    (after .cycleRestart day).calendar.cycleStart = 60000 ∧
    (after .cycleRestart (onDay (runAt 59999) (dayOf 1000 60000 none) 1000)).calendar.cycleStart = 0 ∧
    (after .cycleRestart (crowded (withShowQueue (withShow day) [requestOf 3]))).showUnit.queue.map (fun q => q.cyclesWaited) = [1] ∧
    (after .cycleRestart (crowded (withShowQueue (withShow day) [{ requestOf 3 with cyclesWaited := 1 }]))).showUnit.counters.starved = 1 := by
  decide +kernel

/-- A day with a trigger at noon for vector 2, at the lead of 2000 ms before it, and the show the vector holds. -/
def noon (now : Int) : State :=
  let s := withShow (runAt now)
  let b : Bank := dayOf 43200000 86400000 (some { vector := 2, source := .hour12 })
  { s with calendar := { s.calendar with
             bankA := { b with entries := b.entries.set 0 { offset := 43200000, bellGate := .opened, figureGate := .opened,
                                                             trigger := some { vector := 2, source := .hour12 } } },
             vectors := State.reset.calendar.vectors.set 2 (some 3) } }

theorem test_witness_TriggersAreIssued :
    (configAt 5).mgmt.engine = .config ∧ State.reset.clock.state = .unset ∧ (noon 43197999).dueTriggers = [] ∧
    (noon 43198000).mgmt.engine = .run ∧ (noon 43198000).clock.state ≠ .unset ∧
    (noon 43198000).dueTriggers = [(43200000, { vector := 2, source := .hour12 })] ∧
    (noon 43198000).calendar.vectors[2] = some 3 ∧ (noon 43198000).calendar.vectors[1] = none := by decide +kernel

theorem test_trigger :
    (after .triggerTime (crowded (noon 43198000))).showUnit.queue.map (fun q => (q.showId, q.count, q.anchor)) =
      [(3, 12, some 43200000)] ∧
    (after .triggerTime (noon 43198000)).showUnit.queue = [] ∧
    (after .triggerTime (noon 43198000)).runs[0].showId = some 3 ∧
    (after .triggerTime (noon 43198000)).runs[0].anchor = 43200000 ∧
    (after .triggerTime (noon 43198000)).calendar.watermark = 43198000 ∧
    (after .triggerTime (noon 43197999)).showUnit.queue = [] := by decide +kernel

/-- A SEASON_SWITCH to a base. -/
def switchOf (base : Nat) : List Byte := formFrame 0 7 0x30 ([9, 8] ++ leBytes 6 base)

/-- A shadow bank with a cycle. -/
def shadowed (s : State) (cycle : Nat) (pending : Option Int) : State :=
  { s with calendar := { s.calendar with bankB := { Bank.initial with cycle := cycle }, pendingSwitch := pending } }

theorem test_witness_SeasonSwitches :
    let s := shadowed (runAt 1000) 60000 none
    s.reaches (switchOf 1000) .seasonSwitch = true ∧ readRequest (framePayload (switchOf 1000)) = some (.seasonSwitch 1000) ∧
    readRequest (framePayload (switchOf 1001)) = some (.seasonSwitch 1001) ∧
    s.calendar.shadowBank.failure = none ∧ (shadowed (runAt 1000) 59999 none).calendar.shadowBank.failure = some 64 ∧
    (shadowed (runAt 1000) 604800001 none).calendar.shadowBank.failure = some 64 ∧
    (shadowed (runAt 1000) 604800000 none).calendar.shadowBank.failure = none ∧
    (shadowed (runAt 1000) 60000 (some 2000)).calendar.pendingSwitch ≠ none ∧
    s.clock.time < 1001 ∧ (1000 : Int) ≤ s.clock.time ∧
    ((60000 * 65536 - 1 : Int) - 0) / 60000 ≤ 65535 ∧ 65535 < ((60000 * 65536 : Int) - 0) / 60000 ∧
    (shadowed (runAt 2000) 60000 (some 2000)).calendar.pendingSwitch = some 2000 ∧
    (2000 : Int) ≤ (shadowed (runAt 2000) 60000 (some 2000)).clock.time ∧
    (shadowed (runAt 1999) 60000 (some 2000)).clock.time < 2000 := by decide +kernel

theorem test_switch :
    (after (.seasonSwitch (switchOf 1000)) (shadowed (runAt 1000) 60000 none)).calendar.active = .b ∧
    (after (.seasonSwitch (switchOf 1001)) (shadowed (runAt 1000) 60000 none)).calendar.pendingSwitch = some 1001 ∧
    (after (.seasonSwitch (switchOf 0)) (shadowed (runAt 3932160000) 60000 none)).calendar.counters.switchRefused = 1 ∧
    (after (.seasonSwitch (switchOf 0)) (shadowed (runAt 3932159999) 60000 none)).calendar.counters.switches = 1 ∧
    (after .pendingSwitchBase (shadowed (runAt 2000) 60000 (some 2000))).calendar.active = .b ∧
    (after .pendingSwitchBase (shadowed (runAt 1999) 60000 (some 2000))).calendar.active = .a := by decide +kernel

theorem test_witness_SeasonCancel : ∀ p ∈ [none, some (2000 : Int)],
    (shadowed (runAt 2000) 60000 p).reaches (request 9 []) .seasonCancel = true ∧
    (shadowed (runAt 2000) 60000 p).calendar.pendingSwitch = p := by decide +kernel

theorem test_cancel :
    (after (.seasonCancel (request 9 [])) (shadowed (runAt 2000) 60000 (some 2000))).calendar.pendingSwitch = none ∧
    (after (.seasonCancel (request 9 [])) (runAt 2000)).head.reportQueue.map (fun r => r.bytes.drop 4 |>.take 4) =
      [bytes [0, 9, 9, 5]] := by decide +kernel

/-! Management. -/

/-- The status in the first response of the head report queue. -/
def statusOf (s : State) : Option Nat := (s.head.reportQueue.head?).map (fun r => u8 r.bytes 7)

def readOf (table selector index part : Nat) : List Byte := request 1 [table, selector, index % 256, index / 256, part]
def stateOf (object index part : Nat) : List Byte := request 3 [object, index, part]

theorem test_witness_ReadsChangeNothing :
    (∀ f ∈ [readOf 3 0 1023 0, readOf 3 0 1024 0, readOf 7 1 0 0, readOf 3 1 0 0], (runAt 5).reaches f .readRecord = true) ∧
    readRequest (framePayload (readOf 3 0 1023 0)) = some (.readRecord 3 0 1023 0) ∧
    ((runAt 5).recordBytes 3 0 1023).isSome = true ∧ (runAt 5).recordBytes 3 0 1024 = none ∧
    ((runAt 5).recordBytes 7 1 0).isSome = true ∧ ((runAt 5).recordBytes 3 1 0).isSome = true ∧
    (∀ f ∈ [stateOf 0 0 0, stateOf 1 48 0], (runAt 5).reaches f .readState = true) ∧
    readRequest (framePayload (stateOf 0 0 0)) = some (.readState 0 0 0) ∧
    (∃ o ∈ [1, 2, 3, 4, 5], (runAt 5).objectBytes o 255 = none) ∧ ((runAt 5).objectBytes 0 0).isSome = true := by
  decide +kernel

theorem test_reads :
    statusOf (after (.readRecord (readOf 3 0 1023 0)) (runAt 5)) = some 0 ∧
    statusOf (after (.readRecord (readOf 3 0 1023 1)) (runAt 5)) = some 2 ∧
    statusOf (after (.readRecord (readOf 3 0 1024 0)) (runAt 5)) = some 2 ∧
    statusOf (after (.readRecord (readOf 3 1 0 0)) (runAt 5)) = some 3 ∧
    statusOf (after (.readState (stateOf 0 0 0)) (runAt 5)) = some 0 := by decide +kernel

/-- The power-on records as they are written. -/
def parseBytes : List Nat := [2, 0, 0, 0, 0, 0, 0, 0, 1, 0, 1, 0, 0, 0, 0, 0, 1, 0, 1, 0, 0, 0, 0, 0]
def bellBytes : List Nat := [0, 0, 0, 0, 200, 0, 200, 0, 200, 0, 0, 0, 20, 0, 100, 0, 232, 3, 0, 0, 0, 0, 0, 0]
def showBytes : List Nat := [0, 0, 100, 232, 3, 0, 0, 2, 0, 0, 0, 0, 0]
def moveBytes : List Nat := [0, 0, 0, 100, 2, 0, 0, 0, 0, 0]
def figureBytes : List Nat := [0, 0, 0, 0, 1, 0, 0, 0, 1, 0, 0, 0, 1, 0, 100, 0, 0, 0, 0]
def settingsBytes : List Nat :=
  [192, 93, 10, 220, 5, 208, 7, 224, 147, 4, 0, 2, 48, 117, 0, 0, 1, 0, 0, 1, 0, 0, 0, 0, 0, 48, 0, 10, 20, 0, 3, 250, 0, 0]
def scheduleBytes : List Nat := [0, 0, 0, 0, 0, 0, 0, 0, 0, 0]
def headerBytes : List Nat := [0, 0, 0, 0, 0, 0, 96, 234, 0, 0, 64]

theorem test_witness_TableWrites :
    (runAt 5).reaches (write 0 0 47 parseBytes) .writeParse = true ∧
    readRequest (framePayload (write 0 0 47 parseBytes)) = some (.writeParse 47 (some ParseEntry.initial)) ∧
    (runAt 5).reaches (write 2 0 63 [255, 3, 1, 0]) .writeMotifDir = true ∧
    readRequest (framePayload (write 2 0 63 [255, 3, 1, 0])) = some (.writeMotifDir 63 (some { firstRow := 1023, rowCount := 1 })) ∧
    (runAt 5).reaches (write 3 0 1023 [1, 255, 255]) .writeMotifRow = true ∧
    readRequest (framePayload (write 3 0 1023 [1, 255, 255])) = some (.writeMotifRow 1023 (some (.rest 65535))) ∧
    (runAt 5).reaches (write 4 0 31 showBytes) .writeShow = true ∧
    readRequest (framePayload (write 4 0 31 showBytes)) = some (.writeShow 31 (some ShowRec.initial)) ∧
    (runAt 5).reaches (write 5 0 511 moveBytes) .writeMove = true ∧
    readRequest (framePayload (write 5 0 511 moveBytes)) = some (.writeMove 511 (some MoveEntry.initial)) ∧
    (runAt 5).reaches (write 6 0 15 [1, 31]) .writeVector = true ∧
    readRequest (framePayload (write 6 0 15 [1, 31])) = some (.writeVector 15 (some (some 31))) := by decide +kernel

theorem test_witness_TableWrites_busy :
    (∃ k : Fin 4, (atRow (.rest 5) playingRun).runs[k].state ≠ .free ∧
      ∃ x ∈ (atRow (.rest 5) playingRun).runs[k].stack, x.motif = 0) ∧
    statusOf (after (.writeMotifDir (write 2 0 0 [0, 0, 0, 0])) (atRow (.rest 5) playingRun)) = some 4 ∧
    statusOf (after (.writeMotifRow (write 3 0 0 [1, 0, 0])) (atRow (.rest 5) playingRun)) = some 4 ∧
    statusOf (after (.writeMotifRow (write 3 0 1 [1, 0, 0])) (atRow (.rest 5) playingRun)) = some 0 ∧
    statusOf (after (.writeShow (write 4 0 3 showBytes)) (withShowQueue open3 [requestOf 3])) = some 4 ∧
    statusOf (after (.writeMove (write 5 0 0 moveBytes)) (withShowQueue open3 [requestOf 3])) = some 4 ∧
    statusOf (after (.writeMove (write 5 0 1 moveBytes)) (withShowQueue open3 [requestOf 3])) = some 0 := by decide +kernel

theorem test_writes :
    (after (.writeParse (write 0 0 47 parseBytes)) (parsing 1 1 (.next 1))).parse[47] = ParseEntry.initial ∧
    (after (.writeMotifRow (write 3 0 1023 [1, 255, 255])) (runAt 5)).rows[1023] = .rest 65535 ∧
    (after (.writeMotifDir (write 2 0 63 [255, 3, 1, 0])) (runAt 5)).motifDirs[63].firstRow = 1023 ∧
    (after (.writeVector (write 6 0 15 [1, 31])) (runAt 5)).calendar.vectors[15] = some 31 ∧
    (after (.writeShow (write 4 0 3 showBytes)) open3).shows[3] = ShowRec.initial ∧
    (after (.writeMove (write 5 0 0 moveBytes)) open3).moves[0] = MoveEntry.initial := by decide +kernel

theorem test_witness_RecordWrites :
    (belfry 5).reaches (write 1 0 47 bellBytes) .writeBell = true ∧
    readRequest (framePayload (write 1 0 47 bellBytes)) = some (.writeBell 47 (some BellRec.initial)) ∧
    (stage 5).reaches (write 8 0 15 figureBytes) .writeFigure = true ∧
    readRequest (framePayload (write 8 0 15 figureBytes)) = some (.writeFigure 15 (some FigRec.initial)) ∧
    (runAt 5).reaches (write 9 0 31 [1, 254, 1, 3]) .writeBoard = true ∧
    readRequest (framePayload (write 9 0 31 [1, 254, 1, 3])) =
      some (.writeBoard 31 (some { enabled := true, address := 254, kind := .motion, group := 3 })) ∧
    (runAt 5).reaches (write 10 0 3 [232, 3, 0, 0]) .writeGroup = true ∧
    readRequest (framePayload (write 10 0 3 [232, 3, 0, 0])) = some (.writeGroup 3 (some GroupRec.initial)) ∧
    (runAt 5).reaches (write 7 0 63 scheduleBytes) .writeSchedule = true ∧
    readRequest (framePayload (write 7 0 63 scheduleBytes)) = some (.writeSchedule 0 (.entry 63 (some SchedEntry.initial))) ∧
    readRequest (framePayload (write 7 0 64 headerBytes)) = some (.writeSchedule 0 (.header (some (60000, 64)))) ∧
    readRequest (framePayload (write 7 1 64 headerBytes)) = some (.writeSchedule 1 (.header (some (60000, 64)))) ∧
    (configAt 5).mgmt.engine = .config ∧ (runAt 5).mgmt.engine = .run ∧
    (configAt 5).boardApart 31 { enabled := true, address := 254, kind := .motion, group := 3 } = true ∧
    (configAt 5).boards[31].commands = [] ∧ (∀ g : Fin 16, (configAt 5).figRecs[g].board = 31 → (configAt 5).figs[g].admitted = none) ∧
    (∃ a ∈ ({ configAt 5 with strikeAccount := [windowTo 9] } : State).strikeAccount, a.group = 0) := by decide +kernel

theorem test_witness_WriteSettings :
    (runAt 5).reaches (write 11 0 0 settingsBytes) .writeSettings = true ∧
    readRequest (framePayload (write 11 0 0 settingsBytes)) = some (.writeSettings 0 (some Settings.initial)) ∧
    (configAt 5).reaches (write 11 0 0 settingsBytes) .writeSettings = true ∧
    statusOf (after (.writeSettings (write 11 0 0 settingsBytes)) (configAt 5)) = some 0 ∧
    statusOf (after (.writeSettings (write 11 0 0 settingsBytes)) (runAt 5)) = some 5 := by decide +kernel

/-- A figure record of board 2, channel 0, as it is written: that of figure 0. -/
theorem test_witness_WriteFigure :
    let s := stageWith (resting 0)
    let enabled := write 8 0 5 (1 :: 2 :: 0 :: figureBytes.drop 3)
    s.reaches enabled .writeFigure = true ∧
    readRequest (framePayload enabled) = some (.writeFigure 5 (some { FigRec.initial with enabled := true, board := 2 })) ∧
    statusOf (after (.writeFigure enabled) s) = some 3 ∧
    statusOf (after (.writeFigure (write 8 0 0 figureBytes)) (stageWith { resting 0 with state := .moving })) = some 4 ∧
    statusOf (after (.writeFigure (write 8 0 15 figureBytes)) s) = some 0 ∧
    (after (.writeFigure (write 8 0 0 figureBytes)) s).figs[0].state = .unhomed ∧
    (after (.writeFigure (write 8 0 0 figureBytes)) s).zones[3] = none := by decide +kernel

theorem test_record_writes :
    (after (.writeBell (write 1 0 0 bellBytes)) (firing { coldBell with heat := 8000, unavailable := true } 0 [])).bells[0] =
      { coldBell with heat := 1000, unavailable := false } ∧
    (after (.writeBoard (write 9 0 31 [1, 254, 1, 3])) (configAt 5)).boardRecs[31].address = 254 ∧
    statusOf (after (.writeBoard (write 9 0 31 [1, 254, 1, 3])) (runAt 5)) = some 5 ∧
    statusOf (after (.writeGroup (write 10 0 0 [232, 3, 0, 0])) { configAt 5 with strikeAccount := [windowTo 9] }) = some 4 ∧
    statusOf (after (.writeGroup (write 10 0 3 [232, 3, 0, 0])) (configAt 5)) = some 0 ∧
    (after (.writeSchedule (write 7 0 64 headerBytes)) (runAt 5)).calendar.bankB.cycle = 60000 ∧
    statusOf (after (.writeSchedule (write 7 1 64 headerBytes)) (runAt 5)) = some 5 ∧
    statusOf (after (.writeSchedule (write 7 0 63 scheduleBytes)) (shadowed (runAt 5) 60000 (some 9))) = some 4 := by
  decide +kernel

theorem test_witness_BadWritesAreRefused :
    readRequest (framePayload (write 0 0 48 parseBytes)) = some (.writeParse 48 (some ParseEntry.initial)) ∧
    readRequest (framePayload (write 2 0 63 [255, 3, 2, 0])) = some (.writeMotifDir 63 none) ∧
    readRequest (framePayload (write 7 0 65 [])) = some (.writeSchedule 0 .badIndex) ∧
    readRequest (framePayload (write 7 0 63 (9 :: 9 :: 9 :: 9 :: [2, 0, 0, 0, 0, 0]))) = some (.writeSchedule 0 (.entry 63 none)) ∧
    readRequest (framePayload (write 7 0 64 (headerBytes.dropLast ++ [65]))) = some (.writeSchedule 0 (.header none)) ∧
    (runAt 5).calendar.pendingSwitch = none ∧
    (∀ f ∈ [write 7 0 65 [], write 7 0 63 (9 :: 9 :: 9 :: 9 :: [2, 0, 0, 0, 0, 0]), write 7 0 64 (headerBytes.dropLast ++ [65])],
      (runAt 5).reaches f .writeSchedule = true) ∧
    statusOf (after (.writeParse (write 0 0 48 parseBytes)) (runAt 5)) = some 2 ∧
    statusOf (after (.writeMotifDir (write 2 0 63 [255, 3, 2, 0])) (runAt 5)) = some 3 := by decide +kernel

/-- A record of each other table whose index, or whose first checked field, is out of range. -/
theorem test_witness_BadWrites_by_table :
    (runAt 5).reaches (write 1 0 48 bellBytes) .writeBell = true ∧ (runAt 5).reaches (write 3 0 1024 [1, 0, 0]) .writeMotifRow = true ∧
    (runAt 5).reaches (write 4 0 32 showBytes) .writeShow = true ∧ (runAt 5).reaches (write 5 0 512 moveBytes) .writeMove = true ∧
    (runAt 5).reaches (write 6 0 16 [0, 0]) .writeVector = true ∧ (runAt 5).reaches (write 8 0 16 figureBytes) .writeFigure = true ∧
    (configAt 5).reaches (write 9 0 32 [0, 0, 0, 0]) .writeBoard = true ∧
    (configAt 5).reaches (write 10 0 4 [232, 3, 0, 0]) .writeGroup = true ∧
    readRequest (framePayload (write 1 0 47 (0 :: 32 :: bellBytes.drop 2))) = some (.writeBell 47 none) ∧
    readRequest (framePayload (write 3 0 1023 [3, 16])) = some (.writeMotifRow 1023 none) ∧
    readRequest (framePayload (write 4 0 31 (0 :: 64 :: showBytes.drop 2))) = some (.writeShow 31 none) ∧
    readRequest (framePayload (write 5 0 511 (16 :: moveBytes.drop 1))) = some (.writeMove 511 none) ∧
    readRequest (framePayload (write 6 0 15 [1, 32])) = some (.writeVector 15 none) ∧
    readRequest (framePayload (write 8 0 15 (0 :: 32 :: figureBytes.drop 2))) = some (.writeFigure 15 none) ∧
    readRequest (framePayload (write 9 0 31 [1, 255, 1, 3])) = some (.writeBoard 31 none) ∧
    readRequest (framePayload (write 10 0 3 [231, 3, 0, 0])) = some (.writeGroup 3 none) := by decide +kernel

theorem test_witness_BadSettings :
    (configAt 5).reaches (write 11 0 1 settingsBytes) .writeSettings = true ∧
    readRequest (framePayload (write 11 0 0 (settingsBytes.set 2 51))) = some (.writeSettings 0 none) := by decide +kernel

theorem test_witness_EngineRunsAndStops :
    (configAt 5).reaches (request 5 []) .engineRun = true ∧ (runAt 5).reaches (request 5 []) .engineRun = true ∧
    (configAt 5).reaches (request 6 []) .engineStop = true ∧ busy.reaches (request 6 []) .engineStop = true ∧
    (configAt 5).mgmt.engine = .config ∧ (configAt 5).mgmt.settings.homeOnRun = false ∧ busy.mgmt.engine = .run ∧
    (withSettings (configAt 5) { Settings.initial with homeOnRun := true }).mgmt.settings.homeOnRun = true ∧
    (stage 5).figRecs[0].enabled = true ∧ (stage 5).figs[0].state = .unhomed ∧ (stage 5).figs[0].owner = none := by decide +kernel

theorem test_engine :
    let homing := withSettings { stage 5 with mgmt := Management.initial } { Settings.initial with homeOnRun := true }
    (after (.engineRun (request 5 [])) (configAt 5)).mgmt.engine = .run ∧
    (after (.engineRun (request 5 [])) homing).figs[0].state = .waitZone ∧
    (after (.engineRun (request 5 [])) homing).figs[2].state = .unhomed ∧
    (after (.engineStop (request 6 [])) busy).runs[2].state = .free ∧
    (after (.engineStop (request 6 [])) busy).mgmt.engine = .config ∧
    statusOf (after (.engineRun (request 5 [])) (runAt 5)) = some 5 := by decide +kernel

theorem test_witness_ResetFreesEverySlot : busy.reaches (request 7 []) .engineReset = true := by decide +kernel

theorem test_reset :
    (after (.engineReset (request 7 [])) busy).runs[2] = Run.initial ∧
    (after (.engineReset (request 7 [])) busy).launch.waiting = [] ∧
    (after (.engineReset (request 7 [])) (stageWith (resting 0))).figs[0].state = .unhomed ∧
    (after (.engineReset (request 7 [])) (stageWith (resting 0))).boards[2].commands.map (fun c => (c.op, c.channel)) =
      [(.stop, none)] := by decide +kernel

theorem test_witness_OtherRequestsAndCues :
    (runAt 5).reaches (request 4 []) .clearCounters = true ∧ readRequest (framePayload (request 4 [])) = some .clearCounters ∧
    (runAt 5).reaches (request 12 [1, 0, 1, 0, 1, 0]) .setEventMask = true ∧
    readRequest (framePayload (request 12 [1, 0, 1, 0, 1, 0])) =
      some (.setEventMask (Vector.ofFn (fun i : Fin 6 => i.val % 2 = 0))) ∧
    (runAt 5).reaches (request 13 []) .unreadable = true ∧ 2 ≤ (framePayload (request 13 [])).length ∧
    (runAt 5).cued (cue [7]) .unreadable = true ∧ framePayload (cue [7]) ≠ [] ∧
    (configAt 5).cued (cue [6]) .allStop = true ∧ (configAt 5).mgmt.engine = .config ∧
    (runAt 5).cued (cue [2, 64, 0, 0, 0, 0, 0, 0, 49, 231, 0, 3]) .motifPlay = true ∧
    readCue (framePayload (cue [2, 64, 0, 0, 0, 0, 0, 0, 49, 231, 0, 3])) = some (.motifPlay 64 0 49 (-25) 0 3) ∧
    (runAt 5).cued (cue [3, 32, 0, 0, 0, 0, 0, 0, 0, 2]) .showStart = true ∧
    readCue (framePayload (cue [3, 32, 0, 0, 0, 0, 0, 0, 0, 2])) = some (.showStart 32 0 0 2) ∧
    (runAt 5).cued (cue [4, 32]) .showStop = true ∧ readCue (framePayload (cue [4, 32])) = some (.showStop 32) ∧
    (runAt 5).cued (goOf 16 400) .figureGo = true ∧
    readCue (framePayload (goOf 16 400)) = some (.figureGo 16 400 100 .shorter) := by decide +kernel

/-- Cues with a time, while the clock is UNSET. -/
theorem test_witness_UnsetClock :
    ∀ p ∈ [(CueRow.strike, cue [1, 1, 0, 0, 0, 0, 0, 0]), (.motifPlay, cue [2, 0, 1, 0, 0, 0, 0, 0, 100, 0, 64, 0]),
           (.showStart, cue [3, 3, 1, 0, 0, 0, 0, 0, 0, 2])],
      let s : State := { State.reset with mgmt := { Management.initial with engine := .run } }
      s.cued p.2 p.1 = true ∧ s.clock.state = .unset ∧ ((readCue (framePayload p.2)).map Cue.timed) = some true ∧
      (s.cueFrame p.2 p.1).mgmt.events.map (fun e => e.arg1) = [2] := by decide +kernel

theorem test_other_requests :
    (after (.clearCounters (request 4 [])) counted).launch.counters.accepted = 1 ∧
    (after (.clearCounters (request 4 [])) (after (.malformed .tail [0]) (runAt 5))).tail.counters.malformed = 0 ∧
    (after (.setEventMask (request 12 [1, 0, 1, 0, 1, 0])) (runAt 5)).mgmt.mask[1] = false ∧
    statusOf (after (.unknownRequest (request 13 [])) (runAt 5)) = some 1 ∧
    (after (.unknownCueType (cue [7])) (runAt 5)).mgmt.events.map (fun e => (e.arg1, e.arg2)) = [(3, 1792)] ∧
    (after (.allStop (cue [6])) (configAt 5)).mgmt.events.map (fun e => (e.arg1, e.arg2)) = [(1, 1536)] := by decide +kernel

/-! Further clauses of the statements, at the values where they meet. -/

theorem test_witness_TablesChangeByWrites_banks :
    writesBanks .zoneGrant = false ∧ takesSwitch .zoneGrant = false ∧
    writesBanks (.writeSchedule []) = true ∧ takesSwitch .pendingSwitchBase = true ∧
    (runAt 5).calendar.pendingSwitch = none ∧ (shadowed (runAt 5) 60000 (some 9)).calendar.pendingSwitch ≠ none := by
  decide +kernel

theorem test_witness_BeaconSteps_calendar :
    let s := shadowed (runAt 2000) 60000 (some 2000)
    s.calendar.pendingSwitch = some 2000 ∧ (2000 : Int) ≤ s.clock.time ∧ s.calendarStep.calendar.active = .b ∧
    (shadowed (runAt 1999) 60000 (some 2000)).clock.time < 2000 ∧
    (shadowed (runAt 1999) 60000 (some 2000)).calendarStep.calendar.active = .a ∧
    (runAt 1999).calendar.pendingSwitch = none := by decide +kernel

/-- An engine of three live entries: the first two go on, the third gives a verdict. -/
def chained (step : Nat) : State :=
  { parsing 3 step (.next 1) with
    parse := ((State.reset.parse.set 0 (kindIs 0x41 (.next 1) (.verdict Verdict.pass))).set 1
      (kindIs 0x42 (.verdict Verdict.pass) (.next 2))).set 2
      (kindIs 0x41 (.verdict { action := .cue, forward := false }) (.next 40)) }

theorem test_witness_WalkEndsInAVerdict_chain :
    ((chained 3).walk .head passing).1 = { action := .cue, forward := false } ∧
    ((chained 2).walk .head passing).2.stepExceeded = 1 ∧ ((chained 2).walk .head passing).2.fallback = 1 ∧
    ((chained 3).walk .head (fromBoard 9 0x50 [])).2.fallback = 0 := by decide +kernel

/-- The meaning of an entry: direction, the edge of the frame (9 bytes hold 72 bits) and each comparison. -/
theorem test_witness_WalkEndsInAVerdict_examine :
    let e := kindIs 0x41 (.next 1) (.next 2)
    let both (x : ParseEntry) := (examine x .head passing, examine x .tail passing)
    8 * min passing.length 32 = 72 ∧
    both { e with filter := .outbound } = ((.next 1, false), (.next 2, false)) ∧
    both { e with filter := .inbound } = ((.next 2, false), (.next 1, false)) ∧
    (examine { e with rightmost := 64, comparison := .notEqual } .head passing).2 = false ∧
    examine { e with rightmost := 65, comparison := .notEqual } .head passing = (.next 2, true) ∧
    examine { e with rightmost := 200, width := 0, mask := 0, matchValue := 0 } .head passing = (.next 1, false) ∧
    ([Comparison.equal, .notEqual, .atMost, .atLeast].map (fun c =>
      [0x40, 0x41, 0x42].map (fun n => (examine { kindIs n (.next 1) (.next 2) with comparison := c } .head passing).1))) =
      [[.next 2, .next 1, .next 2], [.next 1, .next 2, .next 1], [.next 2, .next 1, .next 1], [.next 1, .next 1, .next 2]] := by
  decide +kernel

/-- The frames of commands that are ready, and those that wait. -/
theorem test_witness_TailPortChooses_ready :
    let at_ (cs : List Command) := (withBoard (tailWith (stage 100) [] [{ frameOf1 with id := 2 }] []) 2
      { BoardState.initial with presence := .present, commands := cs }).readyCommand.isSome
    at_ [command 2 .home .resend [0]] = true ∧ at_ [command 2 .home .waiting [0]] = true ∧
    at_ [command 1 .home (.outstanding 9) [0], command 2 .home .waiting [0]] = false ∧
    at_ [command 1 .home .waiting [0], command 2 .home .waiting [0]] = false ∧
    at_ [command 1 .home (.holdoff 9) [0], command 2 .home .waiting [0]] = false ∧
    at_ [command 1 .home (.holdoff 9) [0], command 2 .stop .waiting [0]] = true ∧
    at_ [command 2 .home (.holdoff 9) [0]] = false := by decide +kernel

theorem test_witness_TailPortChooses_tags :
    let sent (c : CommandCondition) := ((commanded 100).sendCommand frameOf1 (command 1 .home c [0])).boards[2]
    (sent .resend).nextTag = 0 ∧ (sent .waiting).nextTag = 1 ∧ (sent .waiting).sent = 1 ∧
    (sent .resend).commands.map (fun c => (c.condition, c.tag)) = [(.outstanding 110, some 5)] ∧
    (sent .waiting).commands.map (fun c => (c.condition, c.tag)) = [(.outstanding 110, some 0)] := by decide +kernel

/-- Strike frames: a pair that joins, one that opens a frame, the eighth pair, a full output queue. -/
def assembling (n : Nat) (queued : Nat) : State :=
  { tailWith (belfry 1000) (List.replicate queued passing) [] [] with
    launch := { (belfry 1000).launch with assembly := [{ board := 1, pairs := List.replicate n (2, 1000) }] } }

theorem test_witness_FiringOutcomes_frames :
    let joined (n queued : Nat) (b : Fin 32) := (assembling n queued).joinAssembly b (3, 2000)
    (joined 6 0 1).launch.assembly.map (fun o => o.pairs.length) = [7] ∧
    (joined 7 0 1).launch.assembly = [] ∧ (joined 7 0 1).launch.counters.emitted = 8 ∧
    (joined 7 7 1).tail.strikeQueue.length = 8 ∧ (joined 7 8 1).launch.counters.skipOutOverrun = 8 ∧
    (joined 6 0 2).launch.assembly.map (fun o => (o.board, o.pairs.length)) = [(1, 6), (2, 1)] ∧
    (assembling 6 0).endBatch.launch.assembly = [] ∧
    (withWaiting (assembling 6 0) [strikeAt 1001 .cue]).endBatch.launch.assembly = [] ∧
    (withWaiting (assembling 6 0) [strikeAt 1000 .cue]).endBatch.launch.assembly.length = 1 ∧
    (belfry 1000).earliestEnd 0 = none ∧ (firing coldBell 0 [windowTo 1010, windowTo 1005]).earliestEnd 0 = some 1005 := by
  decide +kernel

theorem test_witness_FiringOutcomes_room :
    let s := withRun (holding 255) 1 { playingRun with paused := true }
    s.held = 255 ∧ (s.noticeRoom 256).runs[1].roomNotice = true ∧ (s.noticeRoom 255).runs[1].roomNotice = false ∧
    (s.noticeRoom 256).runs[0].roomNotice = false ∧
    ((withRun (holding 256) 1 { playingRun with paused := true }).noticeRoom 257).runs[1].roomNotice = false := by
  decide +kernel

/-- The zero-time guard at 254 and 255, for each row that does not raise the position. -/
theorem test_witness_ZeroTimeGuard :
    let ends (row : Row) (next guard : Nat) :=
      (after (.expansionStep 0) (atRow row { playingRun with zeroCount := guard, stack := [{ topFrame with nextRow := next }, topFrame] })).runs[0]
    ([.note 0 100 0, .nest 7 2 0 64, .mark 2].map (fun row => ((ends row 0 254).zeroCount, (ends row 0 255).state))) =
      [(255, .free), (255, .free), (255, .free)] ∧
    ((ends (.rest 5) 1 254).zeroCount, (ends (.rest 5) 1 255).state) = (255, .free) ∧
    (ends (.note 0 100 0) 0 255).planned = 1 ∧
    (atRow (.rest 5) { playingRun with anchor := 2501 }).expands 0 = false ∧
    (atRow (.rest 5) { playingRun with anchor := 2500 }).expands 0 = true := by decide +kernel

/-- A bank of a 60,000 ms cycle with spans of 24,000 open, 18,000 closed and 18,000 open: the open ones meet round the end. -/
def ringBank : Bank :=
  let e (offset : Nat) (g : Gate) : SchedEntry := { offset := offset, bellGate := g, figureGate := .opened, trigger := none }
  { base := 0, cycle := 60000, count := 3,
    entries := ((Bank.initial.entries.set 0 (e 0 .opened)).set 1 (e 24000 .closed)).set 2 (e 42000 .opened) }

theorem test_witness_ShowStartQueues_fits :
    ringBank.fits .bells 42000 = true ∧ ringBank.fits .bells 42001 = false ∧ ringBank.fits .both 42001 = false ∧
    ringBank.fits .figures 90000 = true ∧ closedBank.fits .bells 0 = true ∧ closedBank.fits .bells 1 = false ∧
    Bank.initial.fits .both 99999999 = true := by decide +kernel

/-- Each condition of an admission, one at a time. -/
theorem test_witness_HeadsAreAdmitted_conditions :
    let q := requestOf 3
    let s := withShow (stageWith (resting 0))
    s.admissible q = true ∧ ({ s with mgmt := Management.initial } : State).admissible q = false ∧
    (withFig s 0 { resting 0 with owner := some 1 }).admissible q = false ∧
    (withFig s 0 { resting 0 with state := .fault, owner := some 1 }).admissible q = true ∧
    (quieted s).admissible q = false ∧ (closedAlways s).admissible q = false ∧
    (onDay s { dayOf 2300 60000 none with count := 0 } 0).admissible q = true ∧
    (withShowQueue leading [q]).leadReached = true ∧ (withShowQueue open3 [q]).leadReached = false := by decide +kernel

/-- The events after which a head is judged in the row itself. -/
theorem test_witness_HeadsAreAdmitted_judged :
    let s := withShowQueue (withShow (stageWith (resting 0))) [requestOf 3]
    let started (t : State) := t.showUnit.queue = [] ∧ ∃ k : Fin 4, t.runs[k].showId = some 3
    started (after (.runComplete 2) (withRun (crowded s) 2 (drained .arrived))) ∧
    started (after .quietExpiry (quieted { s with clock := { s.clock with time := 2000 } })) ∧
    started (after (.travelDeadline 0) (withFig s 0 { timed .moving 1000 none with showUnit := s.showUnit }.figs[0])) ∧
    started (after (.writeFigure (write 8 0 0 figureBytes)) (withFig s 0 { resting 0 with owner := none })) ∧
    ¬started (after .zoneGrant s) := by decide +kernel

theorem test_witness_BarriersHoldAndClear_no_grace :
    let s := { barred .playing 1000 .issued with shows := State.reset.shows }
    s.shows[3].grace = 0 ∧ (after (.barrierMarkTime 0) s).runs[0].barrier = none ∧
    (after (.barrierMarkTime 0) s).showUnit.counters.lateFigure = 1 ∧
    (after (.barrierMarkTime 0) s).mgmt.events.map (fun e => (e.kind, e.arg1, e.arg2)) = [(.lateFigure, 0, 515)] := by
  decide +kernel

theorem test_witness_HomingsAndFaultsAreManaged_bounds :
    let s := stageWith Figure.initial
    s.reaches (homeOf 16) .figureHome = true ∧ readRequest (framePayload (homeOf 16)) = some (.figureHome 16) ∧
    (∀ p ∈ [(0, 16), (1, 32), (2, 0)], s.reaches (clearOf p.1 p.2) .faultClear = true ∧
      readRequest (framePayload (clearOf p.1 p.2)) = some (.faultClear p.1 p.2)) ∧
    statusOf (after (.figureHome (homeOf 16)) s) = some 2 ∧ statusOf (after (.faultClear (clearOf 0 16)) s) = some 2 ∧
    statusOf (after (.faultClear (clearOf 1 32)) s) = some 2 ∧ statusOf (after (.faultClear (clearOf 2 0)) s) = some 3 ∧
    statusOf (after (.faultClear (clearOf 0 15)) s) = some 5 := by decide +kernel

theorem test_witness_SupplyIsAdmittedAndReleased_absent :
    let s := withBoard (asking goal400 700) 2 { BoardState.initial with presence := .absent }
    s.boards[2].presence = .absent ∧ (after (.figureSupplyAdmit 0) s).figs[0].faultCause = some .boardAbsent ∧
    (after (.figureSupplyAdmit 0) s).figs[0].admitted = none ∧
    (after (.figureSupplyAdmit 0) { asking goal400 700 with
      clock := { (asking goal400 700).clock with time := 600401 } }).figs[0].waitUsed = 600000 := by decide +kernel

/-- The moves of runs and of homings at their wait deadline. -/
theorem test_witness_FigureDeadlines_requesters :
    let s (m : Move) := withFig (withRun (timed .waitZone 1000 none) 1 (showRun .issued)) 0
      { (timed .waitZone 1000 none).figs[0] with current := some m }
    let t (m : Move) := after (.zoneWaitDeadline 0) (s m)
    (t (goTo 400 (.run 1 0))).runs[1].progress = [.failed] ∧
    (t (goTo 400 (.run 1 0))).mgmt.events.map (fun e => (e.kind, e.arg2)) = [(.moveAbandoned, 1)] ∧
    (t { goTo 0 .mgmt with goal := .home }).figs[0].state = .unhomed ∧
    (t { goTo 0 .mgmt with goal := .home }).mgmt.events.map (fun e => (e.kind, e.arg2)) = [(.moveAbandoned, 5)] ∧
    (t (goTo 400 .cue)).mgmt.events.map (fun e => (e.kind, e.arg2)) = [(.liveMoveDone, 0), (.moveAbandoned, 4)] := by
  decide +kernel

theorem test_witness_BoardAnswers_operations :
    let told (op : CommandOp) (st : FigState) (ack : Bool) := (after (.boardAnswer (if ack then ackOf else rejectOf))
      (handshake { moveInHand with op := op, rejects := 3 } { starting with state := st })).figs[0]
    (told .home .homing true).commandDone = true ∧ (told .home .homing false).faultCause = some .boardBusy ∧
    (told .stop .stopping true).commandDone = true ∧ (told .stop .stopping false).faultCause = some .boardBusy ∧
    (told .stop .fault true).commandDone = true ∧ (told .stop .fault false).state = .fault ∧
    (told .stop .idle true).state = .idle ∧ (told .home .starting false).state = .starting ∧
    (told .clearFault .fault true).commandDone = false ∧ (told (.move 400 .forward 200) .stopping false).state = .stopping := by
  decide +kernel

/-- A figure under a homing, or under a STOP, and what a report does. -/
theorem test_witness_ReportsMoveFigures_homing_and_stop :
    let at_ (done : Bool) := stageWith { resting 0 with
      state := .homing, position := none, commandDone := done, current := some { goTo 0 .mgmt with goal := .home } }
    let homed : ChanReport := { ChanReport.clear with homed := true }
    ((at_ true).figureStatus 0 homed).figs[0].state = .idle ∧
    ((at_ true).figureStatus 0 homed).mgmt.events.map (fun e => e.kind) = [.figureHomed] ∧
    ((at_ false).figureStatus 0 homed).figs[0].state = .homing ∧
    ((at_ true).figureStatus 0 ChanReport.clear).figs[0].state = .homing := by decide +kernel

theorem test_witness_ReportsMoveFigures_stops :
    let at_ (e : StopEnd) (done : Bool) := stageWith { resting 0 with
      state := .stopping, stopEnd := e, commandDone := done, current := some (goTo 400 .cue), admitted := some (300, 0) }
    ((at_ .idle true).figureStatus 0 (report 397)).figs[0].state = .idle ∧
    ((at_ .idle true).figureStatus 0 (report 397)).figs[0].movesArrived = 0 ∧
    ((at_ .held true).figureStatus 0 (report 398)).figs[0].movesArrived = 1 ∧
    ((at_ .held true).figureStatus 0 (report 397)).figs[0].state = .waitZone ∧
    ((silenced (at_ .held true)).figureStatus 0 (report 397)).figs[0].state = .held ∧
    ((at_ .held false).figureStatus 0 (report 398)).figs[0].state = .stopping ∧
    ((at_ .held true).figureStatus 0 { report 398 with moving := true }).figs[0].state = .stopping := by decide +kernel

/-- Where a STOP joins its board's list, and what it withdraws. -/
theorem test_witness_CommandsArePlaced_joins :
    let ids (presence : Presence) (op : CommandOp) (cs : List Command) :=
      ((withBoard (stage 1000) 2 { BoardState.initial with presence := presence, commands := cs }).requestCommand 2 op
        (some 0) (some 0)).1.boards[2].commands.map (fun c => (c.id, c.owners))
    let other (c : Command) : Command := { c with channel := some 1 }
    ids .absent .stop [] = [] ∧ ids .present .home [command 7 .home .waiting [0]] = [(7, [0]), (0, [0])] ∧
    ids .present .stop [command 7 .home .waiting [0]] = [(0, [0])] ∧
    ids .present .stop [command 7 .home (.holdoff 9) [0]] = [(0, [0])] ∧
    ids .present .stop [command 7 .home (.outstanding 9) [0]] = [(7, [0]), (0, [0])] ∧
    ids .present .stop [command 7 .clearFault .waiting [0]] = [(0, [0]), (7, [0])] ∧
    ids .present .stop [other (command 7 .stop .waiting [1]), other (command 8 .home .waiting [1])] =
      [(7, [1]), (0, [0]), (8, [1])] ∧
    ids .present .stop [command 7 .stop .waiting [0], other (command 8 .home .waiting [1])] =
      [(7, [0, 0]), (8, [1])] := by decide +kernel

theorem test_witness_QuietOverrides_gate_opens :
    let s := withFig (overridden .all 1000) 0 { resting 0 with state := .held, current := some (goTo 400 .cue) }
    s.calendar.figuresOpen = false ∧ (after .quietExpiry s).figs[0].state = .waitZone ∧
    (after .quietExpiry s).figs[0].waitStart = some 1000 ∧ (after .quietExpiry s).figs[1] = s.figs[1] := by decide +kernel

theorem test_witness_EntriesAndRestarts_untaken :
    let s := onDay (runAt 60000) (dayOf 59999 60000 none) 1000
    (after .cycleRestart s).calendar.listBells = .closed ∧ (after .cycleRestart s).calendar.cycleStart = 60000 ∧
    (after .cycleRestart (onDay (runAt 60000) (dayOf 0 60000 none) 59999)).calendar.listBells = .opened ∧
    (after .entryTime (after .cycleRestart (onDay (runAt 60000) (dayOf 0 60000 none) 59999))).calendar.listBells = .closed := by
  decide +kernel

/-- Two triggers due, and what a derivation does with those of noon. -/
theorem test_witness_TriggersAreIssued_derive :
    let back (now : Int) : State := (noon now).derive
    (back 43197999).calendar.counters.triggersIssued = 0 ∧ (back 43197999).calendar.watermark = 43197999 ∧
    (back 43198000).calendar.counters.triggersIssued = 1 ∧
    (back 43500000).calendar.counters.triggersIssued = 1 ∧ (back 43500000).calendar.counters.missed = 0 ∧
    (back 43500001).calendar.counters.triggersIssued = 0 ∧ (back 43500001).calendar.counters.missed = 1 ∧
    (back 43500001).mgmt.events.map (fun e => (e.kind, e.arg1)) = [(.triggersMissed, 1)] ∧
    ({ noon 43500000 with mgmt := Management.initial } : State).derive.calendar.watermark = 0 ∧
    ((withShow (onDay (runAt 120000) (dayOf 1000 60000 (some { vector := 1, source := .none })) 0)).derive.calendar.counters.triggersIssued,
     (withShow (onDay (runAt 120000) (dayOf 1000 60000 (some { vector := 1, source := .none })) 0)).derive.calendar.cycleStart) =
      (1, 120000) := by decide +kernel

/-- A request of the calendar, at each of its checks. -/
theorem test_witness_TriggersAreIssued_request :
    let made (s : State) := (s.calendarRequest 3 12 5000 2)
    let dropped (s : State) := (made s).mgmt.events.map (fun e => (e.kind, e.arg1, e.arg2))
    dropped (runAt 1000) = [(.showDropped, 3, 6)] ∧ dropped (withShowQueue open3 [requestOf 3]) = [(.showDropped, 3, 1)] ∧
    dropped (closedAlways open3) = [(.showDropped, 3, 3)] ∧ (made (closedAlways open3)).showUnit.capture = some (3, 1000) ∧
    dropped (withShowQueue open3 (List.replicate 8 (requestOf 4))) = [(.showDropped, 3, 2)] ∧
    (made open3).showUnit.queue.map (fun q => (q.origin, q.anchor)) = [(.calendar 2, some 5000)] := by decide +kernel

theorem test_witness_SeasonSwitches_recheck :
    let s := withShowQueue (shadowed open3 60000 (some 1000)) [requestOf 3, requestOf 4]
    let t : State := { s with calendar := { s.calendar with bankB := { closedBank with cycle := 60000 } } }
    (t.recheckOne (requestOf 3)).showUnit.counters.fitsNowhere = 0 ∧ t.fitsActive 3 100 = true ∧ (closedAlways t).fitsActive 3 100 = false ∧
    ((closedAlways t).recheckShows).showUnit.queue = [] ∧ ((closedAlways t).recheckShows).showUnit.counters.fitsNowhere = 2 ∧
    (after .pendingSwitchBase (crowded t)).showUnit.queue = [] ∧
    (after .pendingSwitchBase (crowded t)).mgmt.events.map (fun e => (e.kind, e.arg1, e.arg2)) =
      [(.showDropped, 3, 3), (.showDropped, 4, 3), (.switchDone, 0, 1)] := by decide +kernel

/-- A record of each table that is read back as it was written. -/
theorem test_witness_ReadsChangeNothing_round_trips :
    let back (t : State) (table index : Nat) := t.recordBytes table 0 index
    back (after (.writeParse (write 0 0 47 parseBytes)) (runAt 5)) 0 47 = some (bytes parseBytes) ∧
    (back (after (.writeBell (write 1 0 47 bellBytes)) (runAt 5)) 1 47).map (fun d => d.take 24) = some (bytes bellBytes) ∧
    back (after (.writeMotifDir (write 2 0 63 [255, 3, 1, 0])) (runAt 5)) 2 63 = some (bytes [255, 3, 1, 0]) ∧
    back (after (.writeMotifRow (write 3 0 1023 [1, 255, 255])) (runAt 5)) 3 1023 = some (bytes [1, 255, 255]) ∧
    back (after (.writeShow (write 4 0 31 showBytes)) (runAt 5)) 4 31 = some (bytes showBytes) ∧
    back (after (.writeMove (write 5 0 511 moveBytes)) (runAt 5)) 5 511 = some (bytes moveBytes) ∧
    back (after (.writeVector (write 6 0 15 [1, 31])) (runAt 5)) 6 15 = some (bytes [1, 31]) ∧
    back (after (.writeSchedule (write 7 0 63 scheduleBytes)) (runAt 5)) 7 63 = some (bytes scheduleBytes) ∧
    back (after (.writeSchedule (write 7 0 64 headerBytes)) (runAt 5)) 7 64 = some (bytes headerBytes) ∧
    back (after (.writeFigure (write 8 0 15 figureBytes)) (runAt 5)) 8 15 = some (bytes figureBytes) ∧
    back (after (.writeBoard (write 9 0 31 [1, 254, 1, 3])) (configAt 5)) 9 31 = some (bytes [1, 254, 1, 3]) ∧
    back (after (.writeGroup (write 10 0 3 [232, 3, 0, 0])) (configAt 5)) 10 3 = some (bytes [232, 3, 0, 0]) ∧
    back (after (.writeSettings (write 11 0 0 settingsBytes)) (configAt 5)) 11 0 = some (bytes settingsBytes) := by
  decide +kernel

/-! Moves withdrawn and figures brought to rest. -/

/-- A figure at 0 with a move to 400, in a state. -/
def bound (st : FigState) (r : Requester) (next : Option Move) : Figure :=
  { resting 0 with state := st, current := some (goTo 400 r), nextMove := next, waitStart := some 900 }

/-- Show 3 played in slot 2, with figure 0 as given, the zones of its path held. -/
def onStage (x : Figure) : State :=
  let s := withRun (withShow (stageWith x)) 2 (showRun .issued)
  { s with zones := s.zones.set 4 (some 0) }

/-- What is left of a figure: its state, its stop end, whether it has moves, and who holds zones 3 and 4. -/
structure Rest where
  state : FigState
  stopEnd : StopEnd
  current : Bool
  next : Bool
  zone3 : Option (Fin 16)
  zone4 : Option (Fin 16)
  deriving DecidableEq

def restOf (s : State) : Rest :=
  { state := s.figs[0].state, stopEnd := s.figs[0].stopEnd, current := s.figs[0].current.isSome,
    next := s.figs[0].nextMove.isSome, zone3 := s.zones[3], zone4 := s.zones[4] }

theorem test_witness_ShowStopEndsTheShow_withdrawals :
    let left (st : FigState) (next : Option Move) :=
      restOf (after (.showStop showStopOf) (onStage { bound st (.run 2 0) next with stopEnd := .held }))
    left .waitZone none = ⟨.idle, .held, false, false, some 0, none⟩ ∧
    left .held (some (goTo 300 (.run 2 0))) = ⟨.idle, .held, false, false, some 0, none⟩ ∧
    left .waitSupply (some (goTo 300 .cue)) = ⟨.waitZone, .held, true, false, some 0, none⟩ ∧
    left .starting none = ⟨.stopping, .idle, true, false, some 0, some 0⟩ ∧
    left .moving (some (goTo 300 .cue)) = ⟨.stopping, .idle, true, true, some 0, some 0⟩ ∧
    left .stopping none = ⟨.stopping, .idle, true, false, some 0, some 0⟩ ∧
    left .fault none = ⟨.fault, .held, true, false, some 0, some 0⟩ ∧
    restOf (after (.showStop showStopOf) (onStage (bound .moving .cue (some (goTo 300 (.run 2 0)))))) =
      ⟨.moving, .idle, true, false, some 0, some 0⟩ := by decide +kernel

theorem test_witness_AllStopStopsEverything_live :
    let t (x : Figure) := after (.allStop (cue [6])) (onStage x)
    let told (x : Figure) := ((t x).mgmt.events.filter (fun e => e.kind = .liveMoveDone)).map (fun e => (e.arg1, e.arg2))
    restOf (t (bound .waitZone .cue none)) = ⟨.idle, .idle, false, false, some 0, none⟩ ∧
    told (bound .waitZone .cue none) = [(0, 0)] ∧ (t (bound .waitZone .cue none)).figs[0].movesFailed = 1 ∧
    restOf (t (bound .moving .cue (some (goTo 9 .cue)))) = ⟨.stopping, .idle, true, false, some 0, some 0⟩ ∧
    told (bound .moving .cue (some (goTo 9 .cue))) = [(0, 0), (0, 0)] ∧
    (t (bound .moving .cue (some (goTo 9 .cue)))).figs[0].movesFailed = 2 ∧
    told (bound .stopping .cue (some (goTo 9 (.run 2 0)))) = [(0, 0)] ∧
    told (bound .held (.run 2 0) (some (goTo 0 .cue))) = [(0, 1)] ∧
    restOf (t (bound .held (.run 2 0) (some (goTo 0 .cue)))) = ⟨.idle, .idle, false, false, some 0, none⟩ ∧
    told (bound .moving (.run 2 0) none) = [] ∧ (t (bound .moving (.run 2 0) none)).figs[0].movesFailed = 0 ∧
    restOf (t { bound .homing .mgmt (some (goTo 9 .cue)) with position := none }) = ⟨.homing, .idle, true, false, some 0, some 0⟩ := by
  decide +kernel

theorem test_witness_EngineRunsAndStops_rest :
    let t (x : Figure) := after (.engineStop (request 6 [])) (onStage x)
    let homing : Move := { goal := .home, requester := .mgmt, withdrawn := false }
    let homed (st : FigState) : Figure := { bound st .mgmt none with current := some homing, position := none }
    (onStage (bound .held .cue none)).reaches (request 6 []) .engineStop = true ∧
    restOf (t (bound .held .cue none)) = ⟨.idle, .idle, false, false, some 0, none⟩ ∧
    restOf (t (homed .waitZone)) = ⟨.unhomed, .idle, false, false, none, none⟩ ∧
    restOf (t (homed .homing)) = ⟨.stopping, .idle, true, false, some 0, some 0⟩ ∧
    restOf (t (bound .stopping (.run 2 0) none)) = ⟨.stopping, .idle, true, false, some 0, some 0⟩ ∧
    restOf (t (resting 0)) = ⟨.idle, .idle, false, false, some 0, some 0⟩ ∧
    (t (homed .homing)).mgmt.events.any (fun e => e.kind = .moveAbandoned && e.arg1 = 0 && e.arg2 = 5) = true ∧
    (t (bound .moving .cue none)).mgmt.events.any (fun e => e.kind = .liveMoveDone && e.arg2 = 0) = true ∧
    (t (bound .moving .cue none)).figs[0].movesFailed = 1 := by decide +kernel

theorem test_witness_QuietOverrides_gate_closes :
    let t (x : Figure) := after (.quiet (quietOf 2 5)) (onStage x)
    (onStage (resting 0)).calendar.figuresOpen = true ∧
    restOf (t (bound .moving (.run 2 0) none)) = ⟨.stopping, .held, true, false, some 0, some 0⟩ ∧
    restOf (t (bound .waitSupply .cue none)) = ⟨.held, .idle, true, false, some 0, some 0⟩ ∧
    (t (bound .waitSupply .cue none)).figs[0].waitUsed = 100 ∧
    restOf (t (bound .stopping .cue none)) = ⟨.stopping, .idle, true, false, some 0, some 0⟩ ∧
    (t (bound .starting .cue none)).mgmt.events.any (fun e => e.kind = .figureHeld && e.arg1 = 0 && e.arg2 = 1) = true := by
  decide +kernel

/-- A bank of two entries: both gates change to `g` at the first offset and open again at the second. -/
def twoEntries (first second : Nat) (g : Gate) : Bank :=
  let e (o : Nat) (g : Gate) : SchedEntry := { offset := o, bellGate := g, figureGate := g, trigger := none }
  { base := 0, cycle := 60000, count := 2, entries := (Bank.initial.entries.set 0 (e first g)).set 1 (e second .opened) }

/-- A figure HELD under an override ALL that expires at 1000, as the first entry of the bank is reached. -/
def hushed (b : Bank) : State :=
  let s := withFig (overridden .all 1000) 0 { resting 0 with state := .held, current := some (goTo 400 .cue) }
  { s with calendar := { s.calendar with bankA := b, entriesTaken := 999 } }

def kinds (s : State) : List EventKind := s.mgmt.events.map (fun e => e.kind)

/-- An entry that closes the figure gate at the expiry leaves it closed, and nothing of it is announced. -/
theorem test_witness_QuietOverrides_with_entry :
    let t := after .quietExpiry (hushed (twoEntries 1000 2000 .closed))
    let u := after .quietExpiry (hushed (twoEntries 1001 2000 .closed))
    t.calendar.override = none ∧ t.calendar.listFigures = .closed ∧ t.figs[0].state = .held ∧ kinds t = [.quietOff] ∧
    u.calendar.listFigures = .opened ∧ u.figs[0].state = .waitZone ∧
    (∀ e ∈ (twoEntries 1001 2000 .closed).entries.toList.take 2, (1000 : Int) < 0 + e.offset) := by decide +kernel

/-- A slew past two entries takes the gates of the second and announces their change only. -/
theorem test_witness_EntriesAndRestarts_several :
    let s := onDay (stageWith { resting 0 with state := .waitZone, waitStart := some 900, current := some (goTo 400 .cue) })
      (twoEntries 999 1000 .closed)
    let t := after .entryTime (s 998)
    t.calendar.listFigures = .opened ∧ t.calendar.entriesTaken = 1000 ∧ t.figs[0].state = .waitZone ∧ kinds t = [] ∧
    (after .entryTime (onDay (s 998) (twoEntries 1000 2000 .closed) 998)).figs[0].state = .held := by decide +kernel

/-- Entries, restart and base reached together: the entry of the next cycle, or the switch, overtakes the old entry. -/
theorem test_witness_EntriesAndRestarts_together :
    let old := onDay (runAt 60000) { twoEntries 0 59999 .closed with cycle := 60000 } 59998
    let s := { old with calendar := { old.calendar with listBells := .closed, listFigures := .closed } }
    let t := after .cycleRestart s
    let due := shadowed s 60000 (some 60000)
    t.calendar.listBells = .closed ∧ t.calendar.cycleStart = 60000 ∧
    (after .entryTime s).calendar.cycleStart = 60000 ∧ (after .entryTime t).calendar.listBells = .closed ∧
    (after .cycleRestart due).calendar.active = .a ∧ (after .cycleRestart due).calendar.listBells = .closed ∧
    (after .entryTime due).calendar.active = .b ∧ (after .entryTime due).calendar.listBells = .opened ∧
    kinds (after .entryTime due) = [.switchDone] := by decide +kernel

/-! A head judged at each figure of a board. -/

/-- Show 3 names figures 0 and 1 and waits for figure 0, which run 1 owns. -/
def awaited : State :=
  let s := withShowQueue (withFig (withShow (stageWith { resting 0 with owner := some 1 })) 1 (resting 0)) [requestOf 3]
  { s with shows := State.reset.shows.set 3 { ShowRec.initial with enabled := true, moveCount := 2, grace := 500, need := .bells },
           moves := State.reset.moves.set 0 moveOf |>.set 1 { moveOf with figure := 1 },
           clock := { s.clock with time := 1250 } }

/-- The first fault lets the head in, and its run owns the second figure, which faults next. -/
theorem test_witness_BoardDeadlines_judged :
    let t := after (.statusDeadline 2) awaited
    awaited.admissible (requestOf 3) = false ∧ awaited.boards[2].statusDeadline = some 1250 ∧ t.showUnit.queue = [] ∧
    t.figs[1].state = .fault ∧ t.figs[1].owner = some 0 ∧ t.figs[0].owner = some 1 ∧
    t.mgmt.events.map (fun e => (e.kind, e.arg1)) =
      [(.figureFault, 0), (.showStarted, 0), (.figureFault, 1), (.boardAbsent, 2)] := by decide +kernel

theorem test_witness_BoardStatuses_judged :
    let faults := fromBoard 30 0x43 ([0, 0] ++ [0, 0, 0, 0, 0, 1, 0] ++ [0, 0, 0, 0, 0, 1, 0] ++ List.replicate 14 0)
    let t := after (.boardStatus faults) awaited
    awaited.fixedPath .tail faults .boardStatus = true ∧ t.showUnit.queue = [] ∧ t.figs[0].state = .fault ∧
    t.figs[1].owner = some 0 := by decide +kernel

theorem test_witness_HomingsAndFaultsAreManaged_judged :
    let s := withShowQueue (withShow (withFig (faulted none none) 0 { (faulted none none).figs[0] with owner := some 1 }))
      [requestOf 3]
    let t := after (.faultClear (clearOf 1 2)) s
    s.reaches (clearOf 1 2) .faultClear = true ∧ t.figs[0].state = .unhomed ∧ t.figs[1].state = .unhomed ∧
    t.showUnit.queue = [] := by decide +kernel

/-- The object engine with one request waiting. -/
theorem test_witness_ReadsChangeNothing_engine :
    (withShowQueue open3 [{ requestOf 4 with anchor := some 258, origin := .calendar 5, cyclesWaited := 1 }]).objectBytes 0 0 =
      some (bytes [1, 0, 0, 0, 1, 1, 1, 1, 1, 1, 1, 4, 2, 100, 1, 2, 1, 0, 0, 0, 0, 0, 5, 1]) := by decide +kernel

/-! The open frames at a reset, and a figure under way whose board is ABSENT. -/

theorem test_witness_ResetFreesEverySlot_frames :
    let sent (queued : Nat) := (after (.engineReset (request 7 [])) (assembling 3 queued)).tail.strikeQueue
    (assembling 3 7).reaches (request 7 []) .engineReset = true ∧ (assembling 3 7).launch.assembly.length = 1 ∧
    sent 7 = List.replicate 7 passing ++
      [formFrame 20 0 0x40 (bytes [3, 2, 232, 3, 2, 232, 3, 2, 232, 3])] ∧
    sent 8 = List.replicate 8 passing := by decide +kernel

theorem test_witness_absent_board :
    let gone (x : Figure) : State := withBoard (onStage x) 2 { BoardState.initial with presence := .absent }
    let stop (x : Figure) := (after (.showStop showStopOf) (gone x)).figs[0]
    let all (x : Figure) := (after (.allStop (cue [6])) (gone x)).figs[0]
    let rest (x : Figure) := (after (.engineStop (request 6 [])) (gone x)).figs[0]
    ((stop (bound .moving (.run 2 0) none)).state, (stop (bound .moving (.run 2 0) none)).movesFailed) = (.fault, 0) ∧
    (stop (bound .starting (.run 2 0) (some (goTo 9 .cue)))).movesFailed = 1 ∧
    ((all (bound .moving .cue none)).faultCause, (all (bound .moving .cue none)).movesFailed) = (some .boardAbsent, 1) ∧
    (all (bound .starting (.run 2 0) (some (goTo 9 .cue)))).movesFailed = 1 ∧
    ((rest (bound .homing .mgmt none)).faultCause, (rest (bound .homing .mgmt none)).movesFailed) =
      (some .boardAbsent, 0) := by decide +kernel

end Sys2Proof.Tests
end

/-! The classifier walk and its verdict: what CLASSIFIER_WALK leaves of a frame that arrived for another node, and the
verdicts whose action does not suit the frame's direction (R29, R31, R35). -/

namespace Sys2Proof.Machine

/-- An action that does not suit the port the frame arrived at: BOARD outbound, CUE, BEACON or QUIET inbound (R35). -/
def Action.Misdirected (a : Action) (p : Port) : Prop :=
  (p = .head ∧ a = .board) ∨ (p = .tail ∧ (a = .cue ∨ a = .beacon ∨ ∃ level hold, a = .quiet level hold))

theorem Action.Misdirected.ne_none {a : Action} {p : Port} (h : a.Misdirected p) : a ≠ .none := by
  rintro rfl
  simp [Action.Misdirected] at h

/-- The row CLASSIFIER_WALK carries out the verdict of the walk over the counters that the walk leaves (R29, R31). -/
theorem exec_classifierWalk_of_arrived {s : State} {p : Port} {f : List Byte} (arrived : reception f = .arrived)
    (elsewhere : frameDest f ≠ s.node) :
    exec (.classifierWalk p f) s =
      .next (({ s with classifier := (s.walk p f).2 } : State).carryVerdict (s.walk p f).1 p f) :=
  congrArg Host.Outcome.next (if_pos ⟨arrived, elsewhere⟩)

/-- A verdict with an action has it carried out, and then its forward flag: it never counts in DROPPED (R31). -/
theorem State.carryVerdict_of_action {s : State} {v : Verdict} {p : Port} {f : List Byte} (acts : v.action ≠ .none) :
    s.carryVerdict v p f =
      if v.forward then (s.actOn v.action p f).forwardFrame p f else s.actOn v.action p f :=
  if_neg fun drops => acts drops.1

/-- A misdirected action only raises ACTION_MISDIRECTED (R35). -/
theorem State.actOn_of_misdirected {s : State} {a : Action} {p : Port} {f : List Byte} (h : a.Misdirected p) :
    s.actOn a p f = { s with classifier :=
      { s.classifier with actionMisdirected := min (s.classifier.actionMisdirected + 1) 4294967295 } } := by
  have counts : s.actOn a p f = s.misdirected := by
    obtain ⟨rfl, rfl⟩ | ⟨rfl, rfl | rfl | ⟨_, _, rfl⟩⟩ := h <;> rfl
  simp only [counts, State.misdirected, State.modClassifier, inc32_eq]

/-- Settles O21: the verdict of the walk is carried out, its action counts as misdirected and does nothing else, and
only the forward flag is left to tell the two outcomes apart. -/
theorem misdirectedAction : Obligations.MisdirectedAction := by
  intro s p f arrived elsewhere v c against counted
  have misdirected : v.action.Misdirected p := against
  have carried : exec (.classifierWalk p f) s =
      .next (if v.forward then counted.forwardFrame p f else counted) := by
    rw [exec_classifierWalk_of_arrived arrived elsewhere, State.carryVerdict_of_action misdirected.ne_none,
      State.actOn_of_misdirected misdirected]
  constructor
  · intro forwards
    rw [carried, if_pos forwards]
  · intro ends
    rw [carried, if_neg (by simp [ends])]

end Sys2Proof.Machine

/-! ENGINE_RESET: what the purge offers to the strike output queue, what the reset stops leave alone, and with them the
state that the reset leaves (R67, R68, R73, R97, R135, R170). -/

namespace Sys2Proof.Machine

section

variable (s : State)

/-! The strike output queue when the assembly is closed (R67, R68). -/

/-- The STRIKE frame that an open frame is closed to (R66, Table 10.5). -/
def State.strikeFrame (o : OpenFrame) : List Byte :=
  formFrame s.boardRecs[o.board].address s.node kindStrike (strikePayload o.pairs)

@[simp] theorem offerFrame_node (o : OpenFrame) : (s.offerFrame o).node = s.node := by
  unfold State.offerFrame; split <;> simp

@[simp] theorem offerFrame_boardRecs (o : OpenFrame) : (s.offerFrame o).boardRecs = s.boardRecs := by
  unfold State.offerFrame; split <;> simp

@[simp] theorem offerFrame_mgmt (o : OpenFrame) : (s.offerFrame o).mgmt = s.mgmt := by
  unfold State.offerFrame; split <;> simp

@[simp] theorem offerFrame_strikeFrame (o : OpenFrame) : (s.offerFrame o).strikeFrame = s.strikeFrame := by
  funext x
  simp only [State.strikeFrame, offerFrame_boardRecs, offerFrame_node]

theorem offerFrame_strikeQueue_of_room {o : OpenFrame} (room : s.tail.strikeQueue.length < 8) :
    (s.offerFrame o).tail.strikeQueue = s.tail.strikeQueue ++ [s.strikeFrame o] := by
  unfold State.offerFrame; rw [if_pos room]; rfl

theorem offerFrame_strikeQueue_of_full {o : OpenFrame} (full : 8 ≤ s.tail.strikeQueue.length) :
    (s.offerFrame o).tail.strikeQueue = s.tail.strikeQueue := by
  unfold State.offerFrame; rw [if_neg (Nat.not_lt.2 full)]; rfl

/-- Frames offered one after the other: the first ones take the places that are left, in their order (R67, R68). -/
theorem offerFrames_strikeQueue (os : List OpenFrame) :
    (os.foldl State.offerFrame s).tail.strikeQueue =
      s.tail.strikeQueue ++ (os.take (8 - s.tail.strikeQueue.length)).map s.strikeFrame := by
  induction os generalizing s with
  | nil => simp
  | cons o os ih =>
    rw [List.foldl_cons, ih, offerFrame_strikeFrame]
    by_cases room : s.tail.strikeQueue.length < 8
    · obtain ⟨n, places⟩ : ∃ n, 8 - s.tail.strikeQueue.length = n + 1 := ⟨7 - s.tail.strikeQueue.length, by omega⟩
      have fewer : 8 - (s.tail.strikeQueue.length + 1) = n := by omega
      rw [offerFrame_strikeQueue_of_room s room, List.length_append, List.length_singleton, fewer, places,
        List.take_succ_cons, List.map_cons, List.append_assoc, List.singleton_append]
    · have full : 8 ≤ s.tail.strikeQueue.length := Nat.not_lt.1 room
      rw [offerFrame_strikeQueue_of_full s full, Nat.sub_eq_zero_of_le full, List.take_zero, List.take_zero]

/-- A part of the state that no step of a fold changes is the same after the fold. -/
theorem foldl_part {α β : Type} (part : State → β) (g : State → α → State) (step : ∀ u x, part (g u x) = part u)
    (l : List α) : part (l.foldl g s) = part s :=
  (List.foldl_hom part (g₂ := fun y _ => y) (fun u x => (step u x).symm)).symm.trans (List.foldl_fixed l)

/-! The purge of every entry (R73). -/

@[simp] theorem noticeRoom_tail (n : Nat) : (s.noticeRoom n).tail = s.tail := by
  unfold State.noticeRoom; split <;> simp

@[simp] theorem noticeRoom_mgmt (n : Nat) : (s.noticeRoom n).mgmt = s.mgmt := by
  unfold State.noticeRoom; split <;> simp

@[simp] theorem closeFrames_mgmt (p : OpenFrame → Bool) : (s.closeFrames p).mgmt = s.mgmt :=
  foldl_part _ State.mgmt State.offerFrame offerFrame_mgmt _

@[simp] theorem endBatch_mgmt : s.endBatch.mgmt = s.mgmt := by
  unfold State.endBatch; split <;> simp

/-- A purge raises no event and leaves the settings and the engine state. -/
@[simp] theorem purgeAll_mgmt : s.purgeAll.mgmt = s.mgmt := by
  unfold State.purgeAll State.purge; simp

/-- When nothing waits the batch is over, and the assembly is offered whole (R67). -/
theorem endBatch_strikeQueue (empty : s.launch.waiting = []) :
    s.endBatch.tail.strikeQueue =
      s.tail.strikeQueue ++ (s.launch.assembly.take (8 - s.tail.strikeQueue.length)).map s.strikeFrame := by
  have idle : s.headDue = false := by unfold State.headDue; rw [empty]
  unfold State.endBatch State.closeFrames
  rw [idle, if_neg Bool.false_ne_true, offerFrames_strikeQueue, List.filter_true]
  rfl

/-- STOP_PURGE offers the open frames to the strike output queue (R67, R68, R73). -/
theorem purgeAll_strikeQueue :
    s.purgeAll.tail.strikeQueue =
      s.tail.strikeQueue ++ (s.launch.assembly.take (8 - s.tail.strikeQueue.length)).map s.strikeFrame := by
  unfold State.purgeAll State.purge
  rw [noticeRoom_tail, endBatch_strikeQueue _ (by simp)]
  rfl

/-! The reset stops (R135). -/

theorem OffBoards.foldl {α : Type} {g : State → α → State} (step : ∀ u x, OffBoards u (g u x)) (l : List α) :
    OffBoards s (l.foldl g s) := by
  induction l generalizing s with
  | nil => exact .refl s
  | cons x xs ih => exact (step s x).trans (ih _)

theorem offBoards_resetStops : OffBoards s s.resetStops := by
  refine OffBoards.foldl s (fun u b => ?_) _
  split
  · exact offBoards_requestCommand u b _ _ _
  · exact .refl u

/-! The strike output queue stands apart from the command queue of the same port. -/

@[simp] theorem placeFrame_strikeQueue (b : Fin 32) (id : Nat) :
    (s.placeFrame b id).tail.strikeQueue = s.tail.strikeQueue := by
  unfold State.placeFrame; split <;> rfl

@[simp] theorem fillPlaces_strikeQueue (n : Nat) : (s.fillPlaces n).tail.strikeQueue = s.tail.strikeQueue := by
  induction n generalizing s with
  | zero => rfl
  | succ n ih =>
    unfold State.fillPlaces
    split
    · rfl
    · rw [ih, placeFrame_strikeQueue]

@[simp] theorem withdrawCommands_strikeQueue (b : Fin 32) (p : Command → Bool) :
    (s.withdrawCommands b p).tail.strikeQueue = s.tail.strikeQueue := rfl

@[simp] theorem joinCommands_strikeQueue (b : Fin 32) (op : CommandOp) (ch : Option (Fin 4)) (o : Option (Fin 16)) :
    (s.joinCommands b op ch o).tail.strikeQueue = s.tail.strikeQueue :=
  fillPlaces_strikeQueue _ _

@[simp] theorem requestCommand_strikeQueue (b : Fin 32) (op : CommandOp) (ch : Option (Fin 4)) (o : Option (Fin 16)) :
    (s.requestCommand b op ch o).1.tail.strikeQueue = s.tail.strikeQueue := by
  unfold State.requestCommand
  split
  · rfl
  · split
    · dsimp only
      split <;> simp
    · simp

@[simp] theorem resetStops_strikeQueue : s.resetStops.tail.strikeQueue = s.tail.strikeQueue := by
  unfold State.resetStops
  refine foldl_part s (fun u => u.tail.strikeQueue) _ (fun u b => ?_) _
  split <;> simp

/-! The motif store (R78, R79). -/

theorem Made.motifDirs {s t : State} (h : Made s t) : t.motifDirs = s.motifDirs := congrArg Written.motifDirs h.written

theorem Made.rows {s t : State} (h : Made s t) : t.rows = s.rows := congrArg Written.rows h.written

/-! What ENGINE_RESET leaves (R81, R97, R102, R170). -/

theorem resetEngine_runs (k : Fin 4) : s.resetEngine.runs[k] = Run.initial := by
  simp [State.resetEngine, State.resetBoards, State.enterEngine, (offBoards_resetStops _).runs]

theorem resetEngine_figs (x : Fin 16) : s.resetEngine.figs[x] = Figure.initial := by
  simp [State.resetEngine, State.resetBoards, State.enterEngine, (offBoards_resetStops _).figs]

theorem resetEngine_launch : s.resetEngine.launch = s.resetLaunch.launch := by
  simp [State.resetEngine, State.resetBoards, State.enterEngine, (offBoards_resetStops _).launch]

theorem resetEngine_empties_launch :
    s.resetEngine.launch.waiting = [] ∧ s.resetEngine.launch.assembly = [] := by
  rw [resetEngine_launch]
  exact purgeAll_held s

theorem resetEngine_strikeQueue : s.resetEngine.tail.strikeQueue = s.purgeAll.tail.strikeQueue := by
  simp [State.resetEngine, State.resetBoards, State.enterEngine, State.resetLaunch]

theorem resetEngine_mgmt : s.resetEngine.mgmt = { s.mgmt with engine := .config } := by
  simp [State.resetEngine, State.resetBoards, State.enterEngine, State.resetLaunch, (offBoards_resetStops _).mgmt]

/-! The request and its response. -/

/-- A row other than UNKNOWN_REQUEST is the row of a request that can be read (R171). -/
theorem readRequest_of_requestRow {p : List Byte} {r : RequestRow} (row : requestRow p = r) (readable : r ≠ .unreadable) :
    ∃ q, readRequest p = some q ∧ q.row = r := by
  unfold requestRow at row
  split at row
  · next q read => exact ⟨q, read, row⟩
  · exact absurd row.symm readable

theorem Request.row_eq_engineReset {q : Request} (h : q.row = .engineReset) : q = .engineReset := by
  cases q with
  | engineReset => rfl
  | _ => cases h

/-- A response is placed at the head port: nothing else of the state changes (R20). -/
theorem placeResponse_eq_modHead (r : List Byte) : ∃ g, s.placeResponse r = s.modHead g := by
  unfold State.placeResponse
  split
  · exact ⟨_, rfl⟩
  · exact ⟨_, rfl⟩

/-- An ENGINE_RESET that reaches the management unit resets the engine and is answered (R170, R171). -/
theorem exec_engineReset_of_reaches {f : List Byte} (h : s.reaches f .engineReset = true) :
    ∃ g, exec (.engineReset f) s = .next (s.resetEngine.modHead g) := by
  obtain ⟨-, row, -⟩ := (reaches_iff s f .engineReset).1 h
  obtain ⟨q, read, isReset⟩ := readRequest_of_requestRow row (by decide)
  obtain rfl := Request.row_eq_engineReset isReset
  obtain ⟨g, placed⟩ := placeResponse_eq_modHead s.resetEngine (s.responseFrame f (Reply.plain .ok))
  exact ⟨g, congrArg Host.Outcome.next ((requestFrame_reached s f _ _ h read).trans placed)⟩

end

/-- Settles O59: the response touches the head port alone, so the state is that of the reset, whose parts come from the
purge, from the starting records, and from reset stops that reach the boards alone. -/
theorem resetFreesEverySlot : Obligations.ResetFreesEverySlot := by
  intro s f h
  obtain ⟨g, reset⟩ := exec_engineReset_of_reaches s h
  obtain ⟨waiting, assembly⟩ := resetEngine_empties_launch s
  refine ⟨_, reset, ?_, ?_, ?_, ?_, ?_, ?_, ?_, ?_, ?_, ?_⟩
  · rw [State.modHead_mgmt, resetEngine_mgmt]
  · rw [State.modHead_mgmt, resetEngine_mgmt]
  · intro k
    rw [State.modHead_runs, resetEngine_runs]
    rfl
  · rw [State.modHead_launch, waiting]
  · rw [State.modHead_launch, assembly]
  · rw [State.modHead_tail, resetEngine_strikeQueue, purgeAll_strikeQueue]
    rfl
  · intro x
    rw [State.modHead_figs, resetEngine_figs]
    exact ⟨rfl, rfl, rfl, rfl, rfl⟩
  · rw [State.modHead_motifDirs, (made_resetEngine s).motifDirs]
  · rw [State.modHead_rows, (made_resetEngine s).rows]
  · rw [State.modHead_mgmt, resetEngine_mgmt]

end Sys2Proof.Machine

/-! A season switch and its cancellation: what the show unit and the controllers it moves leave alone, what a switch
that takes effect leaves of the head port and the calendar, and the two orders of SEASON_CANCEL and the pending base
(R164 to R166). -/

namespace Sys2Proof.Machine

section

variable (s : State)

/-- The head port and the calendar: the parts outside the reach of the show unit, the runs, the figures, the strikes and
the boards. -/
def State.outside : HeadPort × Calendar := (s.head, s.calendar)

/-! Edits of other parts. -/

@[simp] theorem outside_modTail (g : TailPort → TailPort) : (s.modTail g).outside = s.outside := rfl
@[simp] theorem outside_modLaunch (g : Launch → Launch) : (s.modLaunch g).outside = s.outside := rfl
@[simp] theorem outside_modStrikeCounters (g : StrikeCounters → StrikeCounters) :
    (s.modStrikeCounters g).outside = s.outside := rfl
@[simp] theorem outside_modRuns (g : Run → Run) : (s.modRuns g).outside = s.outside := rfl
@[simp] theorem outside_setRun (k : Fin 4) (x : Run) : (s.setRun k x).outside = s.outside := rfl
@[simp] theorem outside_modRun (k : Fin 4) (g : Run → Run) : (s.modRun k g).outside = s.outside := rfl
@[simp] theorem outside_modFigs (g : Figure → Figure) : (s.modFigs g).outside = s.outside := rfl
@[simp] theorem outside_modFig (f : Fin 16) (g : Figure → Figure) : (s.modFig f g).outside = s.outside := rfl
@[simp] theorem outside_modShowUnit (g : ShowUnit → ShowUnit) : (s.modShowUnit g).outside = s.outside := rfl
@[simp] theorem outside_modShowCounters (g : ShowCounters → ShowCounters) :
    (s.modShowCounters g).outside = s.outside := rfl
@[simp] theorem outside_raise (k : EventKind) (a b : Int) : (s.raise k a b).outside = s.outside := rfl
@[simp] theorem outside_releaseZones (f : Fin 16) (keep : List (Fin 24)) :
    (s.releaseZones f keep).outside = s.outside := by
  simp only [State.outside, State.releaseZones, State.setZones_head, State.setZones_calendar]

/-- A fold of operations that each leave the head port and the calendar alone. -/
theorem outside_foldl {α : Type} {g : State → α → State} (step : ∀ u x, (g u x).outside = u.outside) (l : List α) :
    (l.foldl g s).outside = s.outside := foldl_part s State.outside g step l

/-! Figures (R105, R114 to R117, R123). -/

@[simp] theorem outside_requestCommand (b : Fin 32) (op : CommandOp) (ch : Option (Fin 4)) (o : Option (Fin 16)) :
    (s.requestCommand b op ch o).1.outside = s.outside := by
  have same := offBoards_requestCommand s b op ch o
  exact congrArg₂ Prod.mk same.head same.calendar

@[simp] theorem outside_askStop (f : Fin 16) : (s.askStop f).1.outside = s.outside := by
  unfold State.askStop; simp

@[simp] theorem outside_keepResting (f : Fin 16) : (s.keepResting f).outside = s.outside :=
  outside_releaseZones s f _

@[simp] theorem outside_restFigure (f : Fin 16) : (s.restFigure f).outside = s.outside := rfl

@[simp] theorem outside_releaseCurrent (f : Fin 16) : (s.releaseCurrent f).outside = s.outside := rfl

@[simp] theorem outside_enterWaitZone (f : Fin 16) : (s.enterWaitZone f).outside = s.outside := rfl

@[simp] theorem outside_recordOutcome (k : Fin 4) (i : Nat) (p : Progress) :
    (s.recordOutcome k i p).outside = s.outside := by
  unfold State.recordOutcome; split <;> simp

@[simp] theorem outside_endMove (f : Fin 16) (m : Move) (a : Bool) : (s.endMove f m a).outside = s.outside := by
  unfold State.endMove; dsimp only; split <;> simp

@[simp] theorem outside_failCurrent (f : Fin 16) : (s.failCurrent f).outside = s.outside := by
  unfold State.failCurrent
  split
  · split <;> simp
  · rfl

@[simp] theorem outside_failNext (f : Fin 16) : (s.failNext f).outside = s.outside := by
  unfold State.failNext; split <;> simp

@[simp] theorem outside_stopFaulted (f : Fin 16) : (s.stopFaulted f).outside = s.outside := by
  unfold State.stopFaulted; dsimp only; split <;> simp

@[simp] theorem outside_enterFault (f : Fin 16) (c : FaultCause) : (s.enterFault f c).outside = s.outside := by
  unfold State.enterFault
  dsimp only
  split
  · rfl
  · split <;> simp

@[simp] theorem outside_stopFigure (f : Fin 16) (e : StopEnd) : (s.stopFigure f e).outside = s.outside := by
  unfold State.stopFigure; dsimp only; split <;> simp

@[simp] theorem outside_beginMove (f : Fin 16) (m : Move) : (s.beginMove f m).outside = s.outside := by
  unfold State.beginMove; dsimp only; split <;> simp

@[simp] theorem outside_takeNextSlot (f : Fin 16) (m : Move) : (s.takeNextSlot f m).outside = s.outside := by
  unfold State.takeNextSlot; split <;> simp

@[simp] theorem outside_takeMove (f : Fin 16) (m : Move) : (s.takeMove f m).outside = s.outside := by
  unfold State.takeMove
  dsimp only
  split
  · simp
  · cases s.figs[f].state with
    | idle => dsimp only; split <;> simp
    | _ => simp

@[simp] theorem outside_requestMove (f : Fin 16) (target pct : Nat) (w : Way) (q : Requester) :
    (s.requestMove f target pct w q).outside = s.outside := outside_takeMove s f _

@[simp] theorem outside_takeWaiting (f : Fin 16) : (s.takeWaiting f).outside = s.outside := by
  unfold State.takeWaiting; split <;> simp

@[simp] theorem outside_withdrawCurrent (f : Fin 16) : (s.withdrawCurrent f).outside = s.outside := by
  unfold State.withdrawCurrent; split <;> simp

@[simp] theorem outside_takeAtRest (f : Fin 16) : (s.takeAtRest f).outside = s.outside := by
  unfold State.takeAtRest; split <;> simp

@[simp] theorem outside_withdrawRunFrom (k : Fin 4) (f : Fin 16) : (s.withdrawRunFrom k f).outside = s.outside := by
  unfold State.withdrawRunFrom
  dsimp only
  split <;> split <;> simp

@[simp] theorem outside_withdrawRun (k : Fin 4) : (s.withdrawRun k).outside = s.outside :=
  outside_foldl s (fun u f => outside_withdrawRunFrom u k f) _

@[simp] theorem outside_noteHeld (f : Fin 16) : (s.noteHeld f).outside = s.outside := by
  unfold State.noteHeld; split <;> simp

@[simp] theorem outside_holdWaiter (f : Fin 16) : (s.holdWaiter f).outside = s.outside := rfl

@[simp] theorem outside_holdFigure (f : Fin 16) : (s.holdFigure f).outside = s.outside := by
  unfold State.holdFigure; split <;> simp

@[simp] theorem outside_holdFigures : s.holdFigures.outside = s.outside := outside_foldl s outside_holdFigure _

@[simp] theorem outside_resumeFigure (f : Fin 16) : (s.resumeFigure f).outside = s.outside := by
  unfold State.resumeFigure State.leaveHold; split <;> simp

@[simp] theorem outside_resumeFigures : s.resumeFigures.outside = s.outside := outside_foldl s outside_resumeFigure _

/-! Strikes (R44, R67, R72). -/

@[simp] theorem outside_planStrike (q : StrikeRequest) : (planStrike s q).2.outside = s.outside := by
  unfold planStrike State.joinWaiting; split <;> simp

@[simp] theorem outside_offerFrame (o : OpenFrame) : (s.offerFrame o).outside = s.outside := by
  unfold State.offerFrame; split <;> simp

@[simp] theorem outside_closeFrames (p : OpenFrame → Bool) : (s.closeFrames p).outside = s.outside :=
  outside_foldl _ outside_offerFrame _

@[simp] theorem outside_endBatch : s.endBatch.outside = s.outside := by
  unfold State.endBatch; split <;> simp

@[simp] theorem outside_noticeRoom (n : Nat) : (s.noticeRoom n).outside = s.outside := by
  unfold State.noticeRoom; split <;> simp

@[simp] theorem outside_purgeRun (k : Fin 4) : (s.purgeRun k).outside = s.outside := by
  unfold State.purgeRun State.purge; simp

/-! Runs (R82 to R92, R96, R148). -/

@[simp] theorem outside_raiseCancelled (k : Fin 4) (n : Nat) (c : CancelCause) :
    (s.raiseCancelled k n c).outside = s.outside := by
  unfold State.raiseCancelled; split <;> simp

@[simp] theorem outside_cancelRun (k : Fin 4) (c : CancelCause) : (s.cancelRun k c).outside = s.outside := by
  unfold State.cancelRun State.releaseFigures; split <;> simp

@[simp] theorem outside_issueMove (k : Fin 4) (i : Nat) (m : MoveEntry) :
    (s.issueMove k i m).outside = s.outside := by
  unfold State.issueMove; split <;> simp

@[simp] theorem outside_judgeFrom (k : Fin 4) (ms : List MoveEntry) (i : Nat) :
    (State.judgeFrom k ms i s).outside = s.outside := by
  induction ms generalizing i s with
  | nil => rfl
  | cons m ms ih =>
    unfold State.judgeFrom
    split
    · simp [ih]
    · split <;> simp [ih]

@[simp] theorem outside_judgeCursor (k : Fin 4) : (s.judgeCursor k).outside = s.outside := by
  unfold State.judgeCursor; dsimp only; split <;> simp

@[simp] theorem outside_endStep (k : Fin 4) (b : Bool) : (s.endStep k b).outside = s.outside := by
  unfold State.endStep
  split
  · simp
  · split <;> simp

@[simp] theorem outside_finishRow (k : Fin 4) (d : Nat) : (s.finishRow k d).outside = s.outside := by
  unfold State.finishRow; simp

@[simp] theorem outside_loseStrike (k : Fin 4) : (s.loseStrike k).outside = s.outside := rfl

@[simp] theorem outside_noteRow (k : Fin 4) (f : StackFrame) (b : Fin 48) (v d : Nat) :
    (s.noteRow k f b v d).outside = s.outside := by
  unfold State.noteRow
  dsimp only
  split
  · simp
  · split <;> simp

@[simp] theorem outside_nestRow (k : Fin 4) (f : StackFrame) (m : Fin 64) (n : Nat) (x : Int) (sc : Nat) :
    (s.nestRow k f m n x sc).outside = s.outside := by
  unfold State.nestRow
  dsimp only
  generalize (if n = 0 then s.runs[k].count else n) = times
  split
  · simp
  · split <;> simp

@[simp] theorem outside_markRow (k : Fin 4) (m : Fin 16) : (s.markRow k m).outside = s.outside := by
  unfold State.markRow; simp

@[simp] theorem outside_enterDraining (k : Fin 4) : (s.enterDraining k).outside = s.outside := rfl

@[simp] theorem outside_motifEnd (k : Fin 4) (f : StackFrame) (fs : List StackFrame) :
    (s.motifEnd k f fs).outside = s.outside := by
  unfold State.motifEnd
  split
  · simp
  · split <;> simp

@[simp] theorem outside_stepRun (k : Fin 4) : (s.stepRun k).outside = s.outside := by
  unfold State.stepRun
  split
  · rfl
  · split
    · simp
    · split <;> simp

@[simp] theorem outside_expand (k : Fin 4) : (s.expand k).outside = s.outside := by
  unfold State.expand; split <;> simp

@[simp] theorem outside_beginRun (k : Fin 4) : (s.beginRun k).outside = s.outside := by
  unfold State.beginRun; simp

/-! Shows (R142 to R146). -/

@[simp] theorem outside_refuseShow (w : Fin 32) (n : Nat) (r : ShowRefusal) :
    (s.refuseShow w n r).outside = s.outside := by
  unfold State.refuseShow State.captureDrop; dsimp only; split <;> simp

@[simp] theorem outside_requestShow (w : Fin 32) (tempo n : Nat) (a : Option Time) (o : RequestOrigin) :
    (s.requestShow w tempo n a o).2.outside = s.outside := by
  unfold State.requestShow State.joinShows; dsimp only; split <;> simp

@[simp] theorem outside_calendarRequest (w : Fin 32) (n : Nat) (te : Time) (v : Fin 16) :
    (s.calendarRequest w n te v).outside = s.outside := by
  have asked := outside_requestShow s w 0 n (some te) (.calendar v)
  unfold State.calendarRequest
  split
  · next queued => rw [queued] at asked; exact asked
  · next refused => rw [refused] at asked; exact asked

@[simp] theorem outside_recheckOne (q : ShowRequest) : (s.recheckOne q).outside = s.outside := by
  unfold State.recheckOne State.raiseDropped; split <;> simp

@[simp] theorem outside_recheckShows : s.recheckShows.outside = s.outside :=
  outside_foldl s outside_recheckOne _

@[simp] theorem outside_ownFigures (w : Fin 32) (k : Fin 4) : (s.ownFigures w k).outside = s.outside :=
  outside_foldl s (fun u m => by split <;> simp) _

@[simp] theorem outside_admitTo (q : ShowRequest) (k : Fin 4) : (s.admitTo q k).outside = s.outside := by
  unfold State.admitTo State.createRun; simp

@[simp] theorem outside_judgeHeads (n : Nat) : (s.judgeHeads n).outside = s.outside := by
  induction n generalizing s with
  | zero => rfl
  | succ n ih =>
    unfold State.judgeHeads
    split
    · rfl
    · split
      · split <;> simp [ih]
      · rfl

@[simp] theorem outside_judgeHead : s.judgeHead.outside = s.outside := outside_judgeHeads s _

/-! What a switch leaves of the head port, the choice of bank and the pending switch (R162, R165). -/

/-- What SEASON_CANCEL and its response read of a state, with the choice of bank. -/
def State.switchStand : HeadPort × BankName × Option Time := (s.head, s.calendar.active, s.calendar.pendingSwitch)

variable {s} in
theorem switchStand_of_outside {t : State} (h : t.outside = s.outside) : t.switchStand = s.switchStand :=
  congrArg (fun x : HeadPort × Calendar => (x.1, x.2.active, x.2.pendingSwitch)) h

theorem switchStand_announce (before : State) : (State.announce before s).switchStand = s.switchStand := by
  refine switchStand_of_outside ?_
  unfold State.announce
  split
  · simp
  · split <;> simp

theorem switchStand_derivePosition : s.derivePosition.switchStand = s.switchStand :=
  switchStand_announce _ s

theorem switchStand_issueTrigger (te : Time) (x : Trigger) : (s.issueTrigger te x).switchStand = s.switchStand := by
  unfold State.issueTrigger
  dsimp only
  split
  · rfl
  · exact (switchStand_of_outside (outside_calendarRequest _ _ _ _ _)).trans rfl

theorem switchStand_missTriggers (n : Nat) : (s.missTriggers n).switchStand = s.switchStand := by
  unfold State.missTriggers; split <;> rfl

theorem switchStand_catchUp : s.catchUp.switchStand = s.switchStand := by
  unfold State.catchUp
  split
  · rfl
  · split
    · rw [switchStand_missTriggers, switchStand_issueTrigger]
    · rw [switchStand_missTriggers]

theorem switchStand_settleTriggers : s.settleTriggers.switchStand = s.switchStand := by
  unfold State.settleTriggers
  split
  · exact switchStand_catchUp s
  · rfl

theorem switchStand_raise (k : EventKind) (a b : Int) : (s.raise k a b).switchStand = s.switchStand := rfl

theorem switchStand_modCalendarCounters (g : CalendarCounters → CalendarCounters) :
    (s.modCalendarCounters g).switchStand = s.switchStand := rfl

/-- A position derivation sets C, the list gates and the watermark: the choice of bank and a pending switch stay
(R162). -/
theorem switchStand_derive : s.derive.switchStand = s.switchStand := by
  unfold State.derive
  rw [switchStand_settleTriggers, switchStand_derivePosition]

/-- A switch leaves the head port alone, makes the other bank active and leaves no switch pending (R165). -/
theorem switchStand_takeSwitch (base : Time) (n : Int) :
    (s.takeSwitch base n).switchStand = (s.head, s.calendar.active.other, none) := by
  have judged (u : State) : u.recheckShows.judgeHead.switchStand = u.switchStand := switchStand_of_outside (by simp)
  unfold State.takeSwitch
  dsimp only
  rw [switchStand_raise, switchStand_modCalendarCounters, judged, switchStand_derive]
  rfl

variable {s} in
theorem Banked.node {t : State} (h : Banked s t) : t.node = s.node := congrArg Written.node h.written

theorem takeSwitch_leaves (base : Time) (n : Int) :
    (s.takeSwitch base n).head = s.head ∧ (s.takeSwitch base n).calendar.active = s.calendar.active.other ∧
      (s.takeSwitch base n).calendar.pendingSwitch = none := by
  simpa only [State.switchStand, Prod.mk.injEq] using switchStand_takeSwitch s base n

theorem takeSwitch_node (base : Time) (n : Int) : (s.takeSwitch base n).node = s.node :=
  (banked_takeSwitch base n (Made.refl s).banked).node

theorem BankName.other_ne (n : BankName) : n.other ≠ n := by cases n <;> decide

/-- The number of a bank in SWITCH_DONE (R165). -/
theorem BankName.code_eq (n : BankName) : (n.code : Int) = match n with
    | .a => 0
    | .b => 1 := by cases n <;> rfl

/-- SWITCH_DONE is the last event of a switch, with the bank that has become active (R165; log entry 46). -/
theorem takeSwitch_eq_raise (base : Time) (n : Int) :
    ∃ u : State, s.takeSwitch base n = u.raise .switchDone n (match (s.takeSwitch base n).calendar.active with
      | .a => 0
      | .b => 1) := by
  unfold State.takeSwitch
  dsimp only
  rw [State.raise_calendar, State.modCalendarCounters_calendar, BankName.code_eq]
  exact ⟨_, rfl⟩

/-- With its base reached, a pending switch takes effect (R165). -/
theorem reachSwitch_of_reached {base : Time} (pending : s.calendar.pendingSwitch = some base)
    (reached : base ≤ s.clock.time) : s.reachSwitch = s.takeSwitch base 0 := by
  unfold State.reachSwitch
  rw [pending]
  exact if_pos reached

/-! The cancellation (R166). -/

theorem respond_calendar (f : List Byte) (r : Reply) : (s.respond f r).calendar = s.calendar := by
  obtain ⟨g, placed⟩ := placeResponse_eq_modHead s (s.responseFrame f r)
  rw [State.respond, placed, State.modHead_calendar]

/-- With no switch pending, a write to the shadow bank is not refused as busy (R155). -/
theorem writeSchedule_ne_busy {selector : Nat} {item : ScheduleItem} (absent : s.calendar.pendingSwitch = none) :
    (s.writeSchedule selector item).1 ≠ .busy := by
  unfold State.writeSchedule
  rw [absent]
  split
  · exact Status.noConfusion
  · split
    · contradiction
    · repeat' split
      all_goals exact Status.noConfusion

theorem Request.row_eq_seasonCancel {q : Request} (h : q.row = .seasonCancel) : q = .seasonCancel := by
  cases q with
  | seasonCancel => rfl
  | _ => cases h

/-- Whether a request reaches the management unit depends on the node address and the head port alone. -/
theorem reaches_congr {s t : State} (node : t.node = s.node) (head : t.head = s.head) (f : List Byte)
    (r : RequestRow) : t.reaches f r = s.reaches f r := by
  unfold State.reaches State.fixedPath; rw [node, head]

/-- A SEASON_CANCEL that reaches the management unit is carried out and answered from the state it leaves (R166,
R171). -/
theorem exec_seasonCancel_of_reaches {f : List Byte} (h : s.reaches f .seasonCancel = true) :
    exec (.seasonCancel f) s = .next (s.seasonCancel.2.respond f (Reply.plain s.seasonCancel.1)) := by
  obtain ⟨-, row, -⟩ := (reaches_iff s f .seasonCancel).1 h
  obtain ⟨q, read, isCancel⟩ := readRequest_of_requestRow row (by decide)
  obtain rfl := Request.row_eq_seasonCancel isCancel
  obtain ⟨node, free⟩ : s.seasonCancel.2.node = s.node ∧ s.seasonCancel.2.freeCount = s.freeCount := by
    unfold State.seasonCancel; split <;> exact ⟨rfl, rfl⟩
  exact congrArg Host.Outcome.next (requestFrame_responds s _ f _ _ _ h read rfl node free)

theorem seasonCancel_of_pending {base : Time} (pending : s.calendar.pendingSwitch = some base) :
    s.seasonCancel = (.ok, { s with calendar := { s.calendar with pendingSwitch := none } }) := by
  unfold State.seasonCancel; rw [pending]; rfl

theorem seasonCancel_of_none (absent : s.calendar.pendingSwitch = none) : s.seasonCancel = (.wrongState, s) := by
  unfold State.seasonCancel; rw [absent]; rfl

/-- With no switch pending, SEASON_CANCEL is answered WRONG_STATE and changes nothing (R166). -/
theorem exec_seasonCancel_of_none {f : List Byte} (h : s.reaches f .seasonCancel = true)
    (absent : s.calendar.pendingSwitch = none) :
    exec (.seasonCancel f) s = .next (s.respond f (Reply.plain .wrongState)) := by
  rw [exec_seasonCancel_of_reaches s h, seasonCancel_of_none s absent]

end

/-- Settles O53: a cancellation that comes first leaves nothing pending for the base to take; a base that comes first
leaves nothing pending for the cancellation to withdraw, and the head port and the node address as they were, so that the
cancellation reaches the management unit all the same. -/
theorem seasonCancel : Obligations.SeasonCancel := by
  intro s f h
  dsimp only
  refine ⟨fun base pending => ⟨?_, ?_, ?_, ?_⟩, exec_seasonCancel_of_none s h⟩
  · rw [exec_seasonCancel_of_reaches s h, seasonCancel_of_pending s pending]
  · exact congrArg Host.Outcome.next (reachSwitch_of_none _ (congrArg Calendar.pendingSwitch (respond_calendar _ f _)))
  · exact fun item => writeSchedule_ne_busy _ rfl
  · intro reached
    obtain ⟨head, active, taken⟩ := takeSwitch_leaves s base 0
    have reaches : (s.takeSwitch base 0).reaches f .seasonCancel = true :=
      (reaches_congr (takeSwitch_node s base 0) head f _).trans h
    refine ⟨s.takeSwitch base 0, congrArg Host.Outcome.next (reachSwitch_of_reached s pending reached), ?_,
      takeSwitch_eq_raise s base 0, head, exec_seasonCancel_of_none _ reaches taken⟩
    rw [active]
    exact BankName.other_ne _

end Sys2Proof.Machine

/-! What a command does, said once for all 71 rows: it completes, keeps the invariants of Safety.lean, and leaves the tables,
the banks and the clock alone unless its row is one that may change them (R2, R38, R76, R107, R137, R155, R163, R165). -/

namespace Sys2Proof.Machine

/-- What a command may do to a state: the invariants hold on, and the parts that its row does not write stay. -/
structure Effect (c : Instr) (s t : State) : Prop where
  keeps : Keeps s t
  legal : s.clockLegal → t.clockLegal
  written : writes c = false → t.written = s.written
  banks : writesBanks c = false → (takesSwitch c = false ∨ s.calendar.pendingSwitch = none) → t.banks = s.banks
  clock : movesClock c = false → t.clock = s.clock

/-- What a write of a table may do: everything `Made` speaks of but the tables. -/
structure Stored (s t : State) : Prop where
  keeps : Keeps s t
  clock : t.clock = s.clock
  banks : t.banks = s.banks

theorem clockLegal_congr {s t : State} (clock : t.clock = s.clock) (h : s.clockLegal) : t.clockLegal := by
  unfold State.clockLegal; rw [clock]; exact h

/-! Each class of change has the effect of the rows that may bring it. -/

section

variable {c : Instr} {s t u : State}

theorem Made.effect (h : Made s t) : Effect c s t :=
  ⟨h.keeps, clockLegal_congr h.clock, fun _ => h.written, fun _ _ => h.banks, fun _ => h.clock⟩

theorem Made.stored (h : Made s t) : Stored s t := ⟨h.keeps, h.clock, h.banks⟩

theorem Stored.trans (h : Stored s t) (k : Stored t u) : Stored s u :=
  ⟨h.keeps.trans k.keeps, k.clock.trans h.clock, k.banks.trans h.banks⟩

theorem Stored.effect (h : Stored s t) (row : writes c = true) : Effect c s t :=
  ⟨h.keeps, clockLegal_congr h.clock, fun no => by simp [row] at no, fun _ _ => h.banks, fun _ => h.clock⟩

theorem Banked.effect (h : Banked s t) (row : writesBanks c = true) : Effect c s t :=
  ⟨h.keeps, clockLegal_congr h.clock, fun _ => h.written, fun no => by simp [row] at no, fun _ => h.clock⟩

/-- A row that takes a pending switch changes the banks only if one is pending. -/
theorem Banked.effect_of_takesSwitch (h : Banked s t) (row : takesSwitch c = true)
    (none : s.calendar.pendingSwitch = none → Made s t) : Effect c s t :=
  ⟨h.keeps, clockLegal_congr h.clock, fun _ => h.written,
    fun _ no => (none (no.resolve_left (by simp [row]))).banks, fun _ => h.clock⟩

theorem Timed.effect (h : Timed s t) (row : movesClock c = true)
    (banks : s.calendar.pendingSwitch = none → t.banks = s.banks) (switch : takesSwitch c = true ∨ t.banks = s.banks) :
    Effect c s t :=
  ⟨h.keeps, h.legal, fun _ => h.written, fun _ no => switch.elim (fun y => banks (no.resolve_left (by simp [y]))) id,
    fun no => by simp [row] at no⟩

end

/-! Requests. -/

/-- What a request of a row leads to, followed through to the response: any relation that the operations after it keep. -/
theorem requestFrame_rel (R : State → State → Prop) (refl : ∀ u v, Made u v → R u v)
    (trans : ∀ {u v w}, R u v → Made v w → R u w) (f : List Byte) (r : RequestRow) (u : State)
    (carried : ∀ q : Request, q.row = r → R u (carryOut q u).2) : R u (u.requestFrame f r) := by
  unfold State.requestFrame
  split
  case isFalse => exact refl _ _ (Made.refl u)
  case isTrue fits =>
    unfold State.takeRequest
    split
    · exact refl _ _ (made_overrun (Made.refl u))
    · refine trans ?_ (made_afterEcho _ (made_placeResponse _ (Made.refl _)))
      have row : requestRow (framePayload f) = r := by
        simp only [fitsRequest, Bool.and_eq_true, decide_eq_true_eq] at fits
        exact fits.2.2
      unfold State.answerRequest
      unfold requestRow at row
      split
      · exact refl _ _ (Made.refl u)
      · next q e => rw [e] at row; exact carried q row

/-- The rows that write a table (R171). -/
def RequestRow.writesTable : RequestRow → Bool
  | .writeParse => true
  | .writeBell => true
  | .writeMotifDir => true
  | .writeMotifRow => true
  | .writeShow => true
  | .writeMove => true
  | .writeVector => true
  | .writeFigure => true
  | .writeBoard => true
  | .writeGroup => true
  | .writeSettings => true
  | _ => false

/-- The rows of requests that change neither a table, a bank, nor the clock's counters. -/
def RequestRow.leaves (r : RequestRow) : Bool :=
  !r.writesTable && r != .writeSchedule && r != .seasonSwitch && r != .clearCounters

theorem stored_judgeWrite {α : Type} (n index : Nat) (r : Option α) (valid busy : Fin n → α → Bool)
    (store : Fin n → α → State) (s : State)
    (ok : ∀ i x, (store i x).clock = s.clock ∧ (store i x).banks = s.banks) :
    (judgeWrite n index r valid busy store s).2.clock = s.clock ∧
      (judgeWrite n index r valid busy store s).2.banks = s.banks := by
  obtain e | ⟨i, x, -, -, -, -, e⟩ := judgeWrite_cases n index r valid busy store s
  · rw [e]; exact ⟨rfl, rfl⟩
  · rw [e]; exact ok i x

theorem storeFigure_leaves (s : State) (f : Fin 16) (r : FigRec) :
    (s.judgeAfter (s.storeFigure f r)).clock = s.clock ∧ (s.judgeAfter (s.storeFigure f r)).banks = s.banks := by
  have judged := made_judgeAfter s (Made.refl (s.storeFigure f r))
  rw [judged.clock, judged.banks]
  unfold State.storeFigure
  dsimp only
  split
  · exact ⟨by simp [State.unhome, State.releaseZones], by simp [State.banks, State.unhome, State.releaseZones]⟩
  · exact ⟨rfl, rfl⟩

theorem storeBoard_leaves (s : State) (b : Fin 32) (r : BoardRec) :
    (s.storeBoard b r).clock = s.clock ∧ (s.storeBoard b r).banks = s.banks := by
  unfold State.storeBoard
  dsimp only
  split <;> exact ⟨rfl, rfl⟩

theorem inConfig_leaves (s : State) (w : Status × State) (h : w.2.clock = s.clock ∧ w.2.banks = s.banks) :
    (inConfig s w).2.clock = s.clock ∧ (inConfig s w).2.banks = s.banks := by
  unfold inConfig
  split
  · exact ⟨rfl, rfl⟩
  · exact h

/-- A write of a table leaves the clock and the schedule banks (R171). -/
theorem stored_carryOut (q : Request) (u : State) (row : q.row.writesTable = true) : Stored u (carryOut q u).2 := by
  suffices h : (carryOut q u).2.clock = u.clock ∧ (carryOut q u).2.banks = u.banks from ⟨keeps_carryOut q u, h.1, h.2⟩
  cases q <;> first | (simp [Request.row, RequestRow.writesTable] at row; done) | unfold carryOut plainReply
  case writeFigure => exact stored_judgeWrite _ _ _ _ _ _ _ (fun f x => storeFigure_leaves u f x)
  case writeBoard => exact inConfig_leaves _ _ (stored_judgeWrite _ _ _ _ _ _ _ (fun b x => storeBoard_leaves u b x))
  case writeGroup => exact inConfig_leaves _ _ (stored_judgeWrite _ _ _ _ _ _ _ (fun _ _ => ⟨rfl, rfl⟩))
  case writeSettings => exact inConfig_leaves _ _ (stored_judgeWrite _ _ _ _ _ _ _ (fun _ _ => ⟨rfl, rfl⟩))
  all_goals exact stored_judgeWrite _ _ _ _ _ _ _ (fun _ _ => ⟨rfl, rfl⟩)

/-- A request that writes no table, no bank and no clock counter (R169, R170, R172). -/
theorem made_carryOut (q : Request) (u : State) (row : q.row.leaves = true) : Made u (carryOut q u).2 := by
  have refl := Made.refl u
  cases q <;> first | (simp [RequestRow.leaves, RequestRow.writesTable, Request.row] at row; done) | skip
  case readRecord | readState => exact refl
  case engineRun => simp only [carryOut]; split; exacts [refl, made_startEngine refl]
  case engineStop => simp only [carryOut]; split; exacts [made_stopEngine refl, refl]
  case engineReset => exact made_resetEngine u
  case seasonCancel => exact made_seasonCancel refl
  case figureHome => exact made_homeFigure _ refl
  case faultClear => exact made_faultClear _ _ refl
  case setEventMask => exact ⟨⟨rfl, id, id, id, id, id⟩, rfl, rfl, rfl⟩

theorem made_requestFrame (f : List Byte) (r : RequestRow) (u : State) (row : r.leaves = true) :
    Made u (u.requestFrame f r) :=
  requestFrame_rel Made (fun _ _ => id) Made.trans f r u (fun q e => made_carryOut q u (e ▸ row))

theorem stored_requestFrame (f : List Byte) (r : RequestRow) (u : State) (row : r.writesTable = true) :
    Stored u (u.requestFrame f r) :=
  requestFrame_rel Stored (fun _ _ => Made.stored) (fun h k => h.trans k.stored) f r u
    (fun q e => stored_carryOut q u (e ▸ row))

/-- The two rows that may change the schedule banks. -/
theorem banked_requestFrame (f : List Byte) (r : RequestRow) (u : State)
    (row : r = .writeSchedule ∨ r = .seasonSwitch) : Banked u (u.requestFrame f r) := by
  refine requestFrame_rel Banked (fun _ _ => Made.banked) (fun h k => h.trans k.banked) f r u (fun q e => ?_)
  obtain rfl | rfl := row <;> cases q <;> cases e
  · exact banked_writeSchedule _ _ (Made.refl u).banked
  · exact banked_seasonSwitch _ (Made.refl u).banked

/-- CLEAR_COUNTERS changes no bank. -/
theorem clearCounters_leaves (f : List Byte) (u : State) :
    Timed u (u.requestFrame f .clearCounters) ∧ (u.requestFrame f .clearCounters).banks = u.banks := by
  refine requestFrame_rel (fun u v => Timed u v ∧ v.banks = u.banks) (fun _ _ h => ⟨h.timed, h.banks⟩)
    (fun h k => ⟨h.1.trans k.timed, k.banks.trans h.2⟩) f _ u (fun q e => ?_)
  cases q <;> cases e
  exact ⟨timed_clearAll u, rfl⟩

/-! The clock. -/

theorem outside_purge (s : State) (r : PurgeReason) (p : LaunchEntry → Bool) : (s.purge r p).outside = s.outside := by
  unfold State.purge; simp

/-- With no switch pending a step of the clock changes no bank (R163). -/
theorem stepClock_banks (u : State) (b : Time) (d : Int) (none : u.calendar.pendingSwitch = none) :
    (u.stepClock b d).banks = u.banks := by
  set v := (((u.setTime b d).setClock).releaseReached) with hv
  have calendar : (v.launchStep d |>.runStep d).calendar = u.calendar := by
    have h : (v.launchStep d |>.runStep d).outside = v.outside := by
      unfold State.runStep State.launchStep
      rw [outside_modRuns, outside_purge, outside_modLaunch]
    exact congrArg Prod.snd h
  have same : (v.launchStep d |>.runStep d).banks = u.banks := by
    unfold State.banks; rw [calendar]
  show (State.announceStep v d).banks = _
  unfold State.announceStep
  rw [calendarStep_of_none _ (by rw [calendar]; exact none),
    (made_showStep (made_derive (Made.refl _))).banks, same]

theorem takeBeacon_banks (u : State) (p : List Byte) (none : u.calendar.pendingSwitch = none) :
    (u.takeBeacon p).banks = u.banks := by
  unfold State.takeBeacon
  split
  · rfl
  · split
    · rfl
    · dsimp only
      split
      · unfold State.slew
        split <;> rfl
      · exact stepClock_banks _ _ _ none

theorem classify_banks (u : State) (p : Port) (f : List Byte) (none : u.calendar.pendingSwitch = none) :
    (u.classify p f).banks = u.banks := by
  have acted : ∀ (v : State) (a : Action), v.calendar.pendingSwitch = .none → (v.actOn a p f).banks = v.banks := by
    intro v a h
    unfold State.actOn
    split
    case h_3 => exact takeBeacon_banks v _ h
    all_goals exact Made.banks (by simp)
  unfold State.classify State.carryVerdict
  dsimp only
  split
  · rfl
  · split
    · exact (made_forwardFrame p f (Made.refl _)).banks.trans (acted _ _ none)
    · exact acted _ _ none

theorem tick_banks (u : State) : u.tick.banks = u.banks := by
  unfold State.tick State.countOn
  split
  · rfl
  · split <;> rfl

theorem loseBeacon_banks (u : State) : u.loseBeacon.banks = u.banks := by
  unfold State.loseBeacon
  split <;> rfl

/-! Power-on. -/

theorem poweredOn_pathsHeld (node : Byte) : (State.poweredOn node).pathsHeld := by
  intro f up
  simp [State.poweredOn, Figure.initial, FigState.holdsPath] at up

theorem poweredOn_withinSupply (node : Byte) : (State.poweredOn node).withinSupply := by
  intro g
  have motors : (State.poweredOn node).motorSum g = 0 := by
    refine List.sum_eq_zero (fun n m => ?_)
    obtain ⟨f, -, rfl⟩ := List.mem_map.1 m
    simp [State.motorShare, State.poweredOn, Figure.initial]
  rw [motors]
  exact Nat.zero_le _

theorem poweredOn_clockLegal (node : Byte) : (State.poweredOn node).clockLegal :=
  clockLegal_congr (s := State.poweredOn 0) rfl (by unfold State.clockLegal; decide)

theorem poweredOn_withinCapacity (node : Byte) : (State.poweredOn node).withinCapacity :=
  State.withinCapacity_congr (s := State.poweredOn 0) rfl rfl rfl rfl rfl (by unfold State.withinCapacity; decide)

/-- The state after a power-on has the invariants, so any state keeps them across one (R170). -/
theorem keeps_powerOn (u : State) (straps : Byte) : Keeps u (u.powerOn straps) :=
  ⟨rfl, fun _ => poweredOn_withinCapacity (strapAddress straps), fun _ => List.Pairwise.nil, fun _ => poweredOn_withinSupply (strapAddress straps),
    fun _ => poweredOn_pathsHeld (strapAddress straps), fun _ _ => rfl⟩

theorem effect_powerOn (u : State) (straps : Byte) : Effect (.powerOn straps) u (u.powerOn straps) :=
  ⟨keeps_powerOn u straps, fun _ => poweredOn_clockLegal (strapAddress straps), nofun, nofun, nofun⟩

/-! Every row. -/

/-- Every command completes, with the effect of its row. -/
theorem exec_effect (c : Instr) (s : State) : ∃ t, exec c s = .next t ∧ Effect c s t := by
  have refl := Made.refl s
  cases c <;> refine ⟨_, rfl, ?_⟩
  case powerOn straps => exact effect_powerOn s straps
  case localMillisecond => exact (timed_tick s).effect rfl (fun _ => tick_banks s) (.inr (tick_banks s))
  case beaconLost => exact (timed_loseBeacon s).effect rfl (fun _ => loseBeacon_banks s) (.inr (loseBeacon_banks s))
  case beacon f =>
    split
    · exact (timed_takeBeacon s _).effect rfl (takeBeacon_banks s _) (.inl rfl)
    · exact refl.effect
  case classifierWalk p f =>
    split
    · exact (timed_classify s p f).effect rfl (classify_banks s p f) (.inl rfl)
    · exact refl.effect
  case quietExpiry => exact (banked_expireQuiet refl.banked).effect_of_takesSwitch rfl (made_expireQuiet s)
  case entryTime =>
    exact (banked_nextEntry refl.banked).effect_of_takesSwitch rfl (fun none => by
      rw [nextEntry_of_none s none]; exact made_takeEntries (made_restartCycle refl))
  case pendingSwitchBase =>
    exact (banked_reachSwitch refl.banked).effect_of_takesSwitch rfl (fun none => by
      rw [reachSwitch_of_none s none]; exact refl)
  case writeSchedule f => exact (banked_requestFrame f _ s (.inl rfl)).effect rfl
  case seasonSwitch f => exact (banked_requestFrame f _ s (.inr rfl)).effect rfl
  case clearCounters f =>
    obtain ⟨timed, banks⟩ := clearCounters_leaves f s
    exact timed.effect rfl (fun _ => banks) (.inr banks)
  case writeParse f | writeBell f | writeMotifDir f | writeMotifRow f | writeShow f | writeMove f | writeVector f |
      writeFigure f | writeBoard f | writeGroup f | writeSettings f =>
    exact (stored_requestFrame f _ s rfl).effect rfl
  case readRecord f | readState f | engineRun f | engineStop f | engineReset f | seasonCancel f | figureHome f |
      faultClear f | setEventMask f | unknownRequest f =>
    exact (made_requestFrame f _ s rfl).effect
  case figureSupplyAdmit f =>
    split
    · next turn => exact (made_judgeAfter s (made_admitFigure f turn refl)).effect
    · exact refl.effect
  case malformed p f | crcError p f => exact (Made.ite (made_modPortCounters p _ refl) refl).effect
  all_goals exact Made.effect (by simp [Made.ite])

/-- What one step keeps: an idle step changes nothing, any other is the effect of its command. -/
theorem step_keeps {s t : State} (h : step s = .next t) :
    (s.withinCapacity → t.withinCapacity) ∧ (s.clockLegal → t.clockLegal) ∧ (s.inFireOrder → t.inFireOrder) ∧
      (s.withinSupply → t.withinSupply) ∧ (s.pathsHeld → t.pathsHeld) ∧ (s.balanced → t.balanced) := by
  unfold step at h
  split at h
  · cases h; exact ⟨id, id, id, id, id, id⟩
  · next c rest _ =>
    obtain ⟨u, e, effect⟩ := exec_effect c (s.withPending rest)
    cases e.symm.trans h
    have k := effect.keeps
    exact ⟨k.capacity, effect.legal, k.fireOrder, k.supply, k.paths, k.balance⟩

/-- Settles O5: the queues' bound is the `capacity` part of what every command keeps. -/
theorem capacityKept : Obligations.CapacityKept := fun _ _ within h => (step_keeps h).1 within

/-- Settles O6: only the rows of the clock change it, and each of them keeps it legal. -/
theorem clockKept : Obligations.ClockKept := fun _ _ legal h => (step_keeps h).2.1 legal

/-- Settles O7: entries join the waiting list at their place, and a time step re-orders it. -/
theorem fireOrderKept : Obligations.FireOrderKept := fun _ _ order h => (step_keeps h).2.2.1 order

/-- Settles O8: a current is admitted only where it fits, and a group's limit is written only while it holds none. -/
theorem supplyKept : Obligations.SupplyKept := fun _ _ within h => (step_keeps h).2.2.2.1 within

/-- Settles O9: a grant takes zones from no figure, and a figure releases zones only when it is not under way. -/
theorem pathsKept : Obligations.PathsKept := fun _ _ held h => (step_keeps h).2.2.2.2.1 held

/-- Settles O10: every entry that leaves the launch queue is counted once, where it goes. -/
theorem balanceKept : Obligations.BalanceKept := fun _ _ balanced h => (step_keeps h).2.2.2.2.2 balanced

/-- Settles O3: each command changes what its row writes, and nothing else of these parts. -/
theorem tablesChangeByWrites : Obligations.TablesChangeByWrites := by
  intro c s t h
  obtain ⟨u, e, effect⟩ := exec_effect c s
  cases e.symm.trans h
  exact ⟨effect.written, effect.banks, effect.clock⟩

/-- Settles O1: with a command at the front of the queue the step's match takes its second branch. -/
theorem stepTakesTheFront : Obligations.StepTakesTheFront := by
  intro c rest s front
  unfold step
  rw [front]

/-- Settles O2: every row answers a next state, and no row touches the queue of commands. -/
theorem everyCommandCompletes : Obligations.EveryCommandCompletes := by
  intro c s
  obtain ⟨t, e, effect⟩ := exec_effect c s
  exact ⟨t, e, effect.keeps.pending⟩

/-- Settles O4: every queue is empty, no figure is under way and no current is admitted. -/
theorem resetIsSafe : Obligations.ResetIsSafe :=
  ⟨fun node => ⟨poweredOn_withinCapacity node, poweredOn_clockLegal node, List.Pairwise.nil,
    poweredOn_withinSupply node, poweredOn_pathsHeld node, fun _ => rfl⟩, 0, rfl⟩

/-- Settles O11: the power-on values of the model are those that the statement writes out. -/
theorem powerOnValues : Obligations.PowerOnValues := fun _ _ => rfl

end Sys2Proof.Machine

/-! The show clock and the frames of the link: the local millisecond, the beacons and their loss (R1 to R9), the frames
that are dropped, and the frames that the engine forms (R12, R13, R15, R17). -/

namespace Sys2Proof.Machine

section

variable {s : State} {f p : List Byte}

/-! The clock. -/

theorem clampInt_eq {lo hi x : Int} (h : lo ≤ hi) : clampInt lo hi x = max lo (min hi x) := by
  unfold clampInt
  split
  · omega
  · split <;> omega

theorem clamp_eq {lo hi x : Nat} (h : lo ≤ hi) : clamp lo hi x = max lo (min hi x) := by
  unfold clamp
  split
  · omega
  · split <;> omega

theorem clampDiff_eq (d : Int) : clampDiff d = max (-32767) (min 32767 d) := clampInt_eq (by decide)

/-- Settles O12: a freeze holds the count; the free value past the top is a number of 48 bits. -/
theorem millisecondCounts : Obligations.MillisecondCounts := by
  intro s
  refine ⟨fun frozen => ?_, fun runs below => ?_, fun runs top => ?_⟩
  · exact congrArg Host.Outcome.next (if_pos frozen)
  · exact congrArg Host.Outcome.next ((if_neg (by omega)).trans (if_pos below))
  · refine ⟨(Config.countAfterTop s.freeCount).toNat, Int.natCast_nonneg _, ?_, ?_⟩
    · have := (Config.countAfterTop s.freeCount).isLt
      show ((Config.countAfterTop s.freeCount).toNat : Int) < 281474976710656
      omega
    · exact congrArg Host.Outcome.next ((if_neg (by omega)).trans (if_neg (Int.not_lt.2 top)))

/-- A beacon that the fixed path hands to the clock is taken by it (R15). -/
theorem exec_beacon_of_fixedPath (h : s.fixedPath .head f .clock = true) :
    exec (.beacon f) s = .next (s.takeBeacon (framePayload f)) := congrArg Host.Outcome.next (if_pos h)

theorem beaconTime_eq (day ms : Nat) : beaconTime day ms = ((day * 86400000 + ms : Nat) : Int) := by
  unfold beaconTime dayLength
  push_cast
  rfl

/-- A beacon of a millisecond within the day slews or steps the clock by its difference `d` (R3, R4). -/
theorem takeBeacon_of_read {day ms : Nat} {d : Int} (read : readBeacon p = some (day, ms)) (within : ms < 86400000)
    (diff : d = ((day * 86400000 + ms : Nat) : Int) - s.clock.time) :
    s.takeBeacon p = if slews s.clock.state d then State.setClock ((s.acceptBeacon d).slew d)
      else (s.acceptBeacon d).stepClock ((day * 86400000 + ms : Nat) : Int) d := by
  rw [diff, ← beaconTime_eq]
  unfold State.takeBeacon
  rw [read]
  exact if_neg (Nat.not_le.2 within)

/-- A beacon that cannot be read, or whose millisecond lies outside the day, is counted and ignored (R3). -/
theorem takeBeacon_of_bad (bad : p.length < 6 ∨ ∃ day ms, readBeacon p = some (day, ms) ∧ 86400000 ≤ ms) :
    s.takeBeacon p = s.modClock (fun c => { c with badBeacon := inc32 c.badBeacon }) := by
  unfold State.takeBeacon
  obtain short | ⟨day, ms, read, outside⟩ := bad
  · rw [readBeacon, if_pos short]
  · rw [read]
    exact if_pos outside

theorem slews_iff (st : ClockState) (d : Int) : slews st d = true ↔ st ≠ .unset ∧ d.natAbs ≤ 20 := by
  simp [slews]

/-- The clock after a beacon that slews it by `d` (R3 to R6). -/
def Clock.slewed (c : Clock) (d : Int) : Clock :=
  let now : Int := if 0 < d then c.time + min d 2 else c.time
  { c with
    time := now, state := .set, freeze := if d < 0 then min d.natAbs 2 else 0, lossDeadline := some (now + 5000),
    lastDiff := d, beaconsAccepted := min (c.beaconsAccepted + 1) 4294967295 }

theorem slew_eq_slewed (s : State) (d : Int) (near : d.natAbs ≤ 20) :
    State.setClock ((s.acceptBeacon d).slew d) = { s with clock := s.clock.slewed d } := by
  have diff : clampDiff d = d := by rw [clampDiff_eq]; omega
  unfold State.setClock State.acceptBeacon State.slew State.modClock Clock.slewed
  rw [diff]
  by_cases ahead : 0 < d
  · simp only [if_pos ahead, if_neg (Int.not_lt.2 (Int.le_of_lt ahead)), inc32_eq]
  · have freeze : (min (-d) 2).toNat = if d < 0 then min d.natAbs 2 else 0 := by split <;> omega
    simp only [if_neg ahead, freeze, inc32_eq]

/-- A beacon within 20 ms of a clock that has been set slews it, and changes nothing else (R4). -/
theorem exec_beacon_of_near {day ms : Nat} {d : Int} (path : s.fixedPath .head f .clock = true)
    (read : readBeacon (framePayload f) = some (day, ms)) (within : ms < 86400000) (set : s.clock.state ≠ .unset)
    (diff : d = ((day * 86400000 + ms : Nat) : Int) - s.clock.time) (near : d.natAbs ≤ 20) :
    exec (.beacon f) s = .next { s with clock := s.clock.slewed d } := by
  rw [exec_beacon_of_fixedPath path, takeBeacon_of_read read within diff, if_pos ((slews_iff _ _).2 ⟨set, near⟩),
    slew_eq_slewed s d near]

/-- Settles O13: of the beacon's two ways to act on the clock the slew is taken. -/
theorem beaconSlews : Obligations.BeaconSlews :=
  fun _ _ _ _ path read within set near => exec_beacon_of_near path read within set rfl near

theorem headDue_iff {e : LaunchEntry} {rest : List LaunchEntry} (waits : s.launch.waiting = e :: rest) :
    s.headDue = true ↔ e.fire ≤ s.clock.time := by
  unfold State.headDue
  rw [waits]
  exact decide_eq_true_iff

/-- Settles O14: the slewed time is `min d 2` on, and a head entry in between was not due and now is. -/
theorem forwardSlew : Obligations.ForwardSlew := by
  intro s f day ms d path read within set diff low high
  have jump : (s.clock.slewed d).time = s.clock.time + min d 2 := if_pos (by omega)
  refine ⟨_, exec_beacon_of_near path read within set diff (by omega), jump, fun one => ?_, fun two => ?_, rfl, rfl,
    fun e rest waits later passed => ⟨?_, ?_⟩⟩
  · rw [jump, one]; rfl
  · rw [jump, min_eq_right two]
  · exact Bool.eq_false_iff.2 (fun due => absurd ((headDue_iff waits).1 due) (Int.not_le.2 later))
  · exact (headDue_iff (s := { s with clock := s.clock.slewed d }) waits).2 (jump ▸ passed)

/-- Settles O16. -/
theorem badAndLostBeacons : Obligations.BadAndLostBeacons := by
  refine ⟨fun s f path bad => ?_, fun s => ⟨fun deadline set at_ due => ?_, fun no => ?_⟩⟩
  · rw [exec_beacon_of_fixedPath path, takeBeacon_of_bad bad]
    rfl
  · exact congrArg Host.Outcome.next (if_pos ⟨set, by simp [at_, reached, State.now, due]⟩)
  · refine congrArg Host.Outcome.next (if_neg ?_)
    rintro ⟨set, due⟩
    cases at_ : s.clock.lossDeadline with
    | none => simp [at_, reached] at due
    | some deadline =>
      have passed : deadline ≤ s.clock.time := by
        rw [at_] at due
        exact of_decide_eq_true due
      exact no.elim (fun h => h set) (fun h => absurd (h deadline at_) (Int.not_lt.2 passed))

theorem indices_four : indices 4 = [0, 1, 2, 3] := by decide

/-- The show unit's part of a step: the head, then the cursors in slot order (R8). -/
theorem showStep_eq :
    s.showStep = (((s.judgeHead.judgeCursor 0).judgeCursor 1).judgeCursor 2).judgeCursor 3 := by
  unfold State.showStep
  rw [indices_four]
  simp only [List.foldl_cons, List.foldl_nil]

theorem calendarStep_of_reached {base : Time} (pending : s.calendar.pendingSwitch = some base)
    (due : base ≤ s.clock.time) : s.calendarStep = s.takeSwitch base 0 := by
  unfold State.calendarStep
  rw [pending]
  exact if_pos due

theorem calendarStep_of_later (later : ∀ base, s.calendar.pendingSwitch = some base → s.clock.time < base) :
    s.calendarStep = s.derive := by
  unfold State.calendarStep
  cases pending : s.calendar.pendingSwitch with
  | none => rfl
  | some base => exact if_neg (Int.not_le.2 (later base pending))

/-- Settles O15: the announcement changes no part of the clock, and its last part is SHOW_ADMISSION followed by the four
MOVE_START_TIME rows. -/
theorem beaconSteps : Obligations.BeaconSteps := by
  refine ⟨?_, fun s d => ⟨rfl, fun base pending due => calendarStep_of_reached pending due,
    calendarStep_of_later, _, _, _, _, rfl, rfl, rfl, rfl, congrArg Host.Outcome.next showStep_eq.symm⟩⟩
  intro s f day ms d path read within diff far stepped open_ before
  have steps : slews s.clock.state d = false := by
    refine Bool.eq_false_iff.2 (fun yes => ?_)
    obtain ⟨set, near⟩ := (slews_iff _ _).1 yes
    exact far.elim set (fun h => by omega)
  have stood : (((s.acceptBeacon d).setTime ((day * 86400000 + ms : Nat) : Int) d).setClock).releaseReached = before := by
    unfold State.setTime State.acceptBeacon
    rw [clampDiff_eq]
    rfl
  have clock : before.clock = stepped := rfl
  have kept : (before.announceStep d).clock = before.clock := Banked.clock (banked_announceStep d (Made.refl before))
  refine ⟨before.announceStep d, ?_, kept.trans clock, rfl⟩
  rw [exec_beacon_of_fixedPath path, takeBeacon_of_read read within diff, steps, if_neg Bool.false_ne_true,
    State.stepClock, stood]

/-! Frames dropped at reception (R12, R15). -/

/-- Settles O18: a row of a dropped frame whose check holds raises its one counter. -/
theorem droppedFramesCounted : Obligations.DroppedFramesCounted := by
  refine fun s f => ⟨fun bad => ?_, fun bad => ?_, fun p arrived own unknown => ?_⟩
  · exact ⟨congrArg Host.Outcome.next (if_pos bad), congrArg Host.Outcome.next (if_pos bad)⟩
  · exact ⟨congrArg Host.Outcome.next (if_pos bad), congrArg Host.Outcome.next (if_pos bad)⟩
  · exact congrArg Host.Outcome.next (if_pos ⟨arrived, own, unknown⟩)

/-! Frames that the engine forms (R13, R17). -/

@[simp] theorem leBytes_length (k n : Nat) : (leBytes k n).length = k := by
  induction k generalizing n with
  | zero => rfl
  | succ k ih => exact congrArg (· + 1) (ih _)

theorem byteOf_toNat (n : Nat) : (byteOf n).toNat = n % 256 := by
  simp [byteOf, BitVec.toNat_ofNat]

/-- Reading back the bytes of a number gives the number, cut to that many bytes (R176). -/
theorem leNat_leBytes (k n : Nat) : leNat (leBytes k n) = n % 256 ^ k := by
  induction k generalizing n with
  | zero => simp [leBytes, leNat, Nat.mod_one]
  | succ k ih =>
    rw [leBytes, leNat, ih, byteOf_toNat, Nat.pow_succ', Nat.mod_mul]

/-- The header and the payload of a frame, before its CRC. -/
def frameBody (dest src : Byte) (kind : Nat) (payload : List Byte) : List Byte :=
  [dest, src, byteOf kind, byteOf payload.length] ++ payload

theorem formFrame_eq (dest src : Byte) (kind : Nat) (payload : List Byte) :
    formFrame dest src kind payload =
      frameBody dest src kind payload ++ leBytes 2 (crc16 (frameBody dest src kind payload)).toNat := rfl

theorem frameLen_formFrame (dest src : Byte) (kind : Nat) {payload : List Byte} (fits : payload.length ≤ 56) :
    frameLen (formFrame dest src kind payload) = payload.length := by
  simp [frameLen, u8, numAt, formFrame, leNat, byteOf_toNat]
  omega

theorem frameKind_formFrame (dest src : Byte) {kind : Nat} (payload : List Byte) (small : kind < 256) :
    frameKind (formFrame dest src kind payload) = kind := by
  simp [frameKind, u8, numAt, formFrame, leNat, byteOf_toNat]
  omega

theorem framePayload_formFrame (dest src : Byte) (kind : Nat) {payload : List Byte} (fits : payload.length ≤ 56) :
    framePayload (formFrame dest src kind payload) = payload := by
  rw [framePayload, frameLen_formFrame dest src kind fits]
  simp [formFrame]

theorem reception_formFrame (dest src : Byte) (kind : Nat) {payload : List Byte} (fits : payload.length ≤ 56) :
    reception (formFrame dest src kind payload) = .arrived := by
  have len : (formFrame dest src kind payload).length = payload.length + 6 := by
    simp [formFrame_eq, frameBody]
  have body : (formFrame dest src kind payload).length - 2 = (frameBody dest src kind payload).length := by
    simp [formFrame_eq]
  have crc : leNat ((formFrame dest src kind payload).drop (frameBody dest src kind payload).length) =
      (crc16 ((formFrame dest src kind payload).take (frameBody dest src kind payload).length)).toNat := by
    rw [formFrame_eq, List.drop_left, List.take_left, leNat_leBytes]
    exact Nat.mod_eq_of_lt (crc16 _).isLt
  unfold reception
  rw [if_neg (by omega), if_neg (by rw [frameLen_formFrame dest src kind fits]; omega), body, if_pos crc]

/-- Settles O17: the CRC at the end of the frame is that of the bytes before it, and the fields are read where they were
put. -/
theorem formedFramesArrive : Obligations.FormedFramesArrive :=
  fun dest src _ payload fits small => ⟨reception_formFrame dest src _ fits, rfl, rfl,
    frameKind_formFrame dest src payload small, framePayload_formFrame dest src _ fits⟩

end

end Sys2Proof.Machine

/-! The classifier: what a walk counts, what an entry answers, and how the verdict is carried out (R23, R27 to R34). -/

namespace Sys2Proof.Machine

section

variable {s : State} {p : Port} {f : List Byte}

/-! The walk. -/

theorem offset_eq (c : ClassifierCounters) (up : Bool) :
    c.offset up = { c with offsetBeyond := if up then min (c.offsetBeyond + 1) 4294967295 else c.offsetBeyond } := by
  cases up <;> rfl

theorem offset_classified (c : ClassifierCounters) (up : Bool) : (c.offset up).classified = c.classified := by
  rw [offset_eq]

/-- One entry of the walk that is in the table (R29). -/
theorem walkFrom_succ (k : Nat) (i : Fin 48) (c : ClassifierCounters) :
    s.walkFrom p f (k + 1) i.val c =
      match (examine s.parse[i] p f).1 with
      | .verdict v => (v, c.offset (examine s.parse[i] p f).2)
      | .next n =>
        let d := c.offset (examine s.parse[i] p f).2
        if s.settings.liveEntries ≤ n then
          (s.settings.fallback, { d.fellBack with liveExceeded := inc32 d.liveExceeded })
        else if k = 0 then (s.settings.fallback, { d.fellBack with stepExceeded := inc32 d.stepExceeded })
        else s.walkFrom p f k n d := by
  rw [State.walkFrom, Vector.getElem?_eq_getElem i.isLt]
  rfl

/-- A walk does not touch the count of walks (R36). -/
theorem walkFrom_classified (k i : Nat) (c : ClassifierCounters) :
    (s.walkFrom p f k i c).2.classified = c.classified := by
  induction k generalizing i c with
  | zero => rfl
  | succ k ih =>
    by_cases inside : i < 48
    · rw [show i = (⟨i, inside⟩ : Fin 48).val from rfl, walkFrom_succ]
      split
      · exact offset_classified _ _
      · dsimp only
        split
        · exact offset_classified _ _
        · split
          · exact offset_classified _ _
          · rw [ih, offset_classified]
    · rw [State.walkFrom, Vector.getElem?_eq_none (by omega)]
      rfl

/-! One entry examined. -/

theorem leNat_eq_foldr (l : List Byte) : leNat l = l.foldr (fun b n => b.toNat + 256 * n) 0 := by
  induction l with
  | nil => rfl
  | cons b bs ih => rw [leNat, ih]; rfl

theorem matches_iff (d : DirFilter) : d.matches p = true ↔ d = .both ∨ (d = .outbound ∧ p = .head) ∨ (d = .inbound ∧ p = .tail) := by
  cases d <;> cases p <;> simp [DirFilter.matches]

theorem beyondFrame_iff (e : ParseEntry) :
    beyondFrame e f = true ↔ e.width ≠ 0 ∧ 8 * min f.length 32 < e.rightmost + e.width := by
  simp [beyondFrame]

/-- The test of an entry on its masked field (R28). -/
theorem holds_iff (e : ParseEntry) (field : Nat) :
    e.holds field = true ↔
      match e.comparison with
      | .equal => (BitVec.ofNat 16 field &&& e.mask).toNat = e.matchValue.toNat
      | .notEqual => (BitVec.ofNat 16 field &&& e.mask).toNat ≠ e.matchValue.toNat
      | .atMost => (BitVec.ofNat 16 field &&& e.mask).toNat ≤ e.matchValue.toNat
      | .atLeast => e.matchValue.toNat ≤ (BitVec.ofNat 16 field &&& e.mask).toNat := by
  unfold ParseEntry.holds
  cases e.comparison <;> simp

/-- An entry whose filter does not match is passed by its false outcome (R29). -/
theorem examine_of_unsuited {e : ParseEntry} (against : ¬e.filter.matches p = true) : examine e p f = (e.onFalse, false) :=
  if_pos (by simpa using against)

/-- A field that reaches beyond the frame is counted, and answers false (R27). -/
theorem examine_of_beyond {e : ParseEntry} (suits : e.filter.matches p = true) (beyond : beyondFrame e f = true) :
    examine e p f = (e.onFalse, true) := (if_neg (by simp [suits])).trans (if_pos beyond)

theorem examine_of_within {e : ParseEntry} (suits : e.filter.matches p = true) (within : ¬beyondFrame e f = true) :
    examine e p f = (if e.holds (fieldOf e f) then e.onTrue else e.onFalse, false) :=
  (if_neg (by simp [suits])).trans (if_neg within)

/-- Settles O19: one entry of the walk either ends it or hands it on; a walk leaves the count of walks to its caller. -/
theorem walkEndsInAVerdict : Obligations.WalkEndsInAVerdict := by
  refine ⟨fun s p f => ⟨fun none => ?_, fun some => ?_⟩, fun s p f k i c => ?_, fun e p f => ?_⟩
  · show (_, _) = _
    rw [show s.settings.liveEntries = 0 from none]
    rfl
  · have walked : s.walk p f = ((s.walkFrom p f s.settings.stepLimit 0 s.classifier).1,
        { (s.walkFrom p f s.settings.stepLimit 0 s.classifier).2 with
          classified := inc32 (s.walkFrom p f s.settings.stepLimit 0 s.classifier).2.classified }) := by
      unfold State.walk
      rw [if_neg (show ¬s.settings.liveEntries = 0 from some)]
    rw [walked, walkFrom_classified]
    rfl
  · dsimp only
    rw [← offset_eq]
    refine ⟨fun v e => ?_, fun n e beyond => ?_, fun n e live => ?_, fun n e live => ?_⟩
    · rw [walkFrom_succ, e]
    · rw [walkFrom_succ, e]
      simp only [if_pos (show s.settings.liveEntries ≤ n from beyond), offset_eq]
      rfl
    · rw [walkFrom_succ, e]
      simp only [if_neg (show ¬s.settings.liveEntries ≤ n from Nat.not_le.2 live), offset_eq]
      rfl
    · rw [walkFrom_succ, e]
      simp only [if_neg (show ¬s.settings.liveEntries ≤ n from Nat.not_le.2 live), Nat.succ_ne_zero, if_false]
  · dsimp only
    rw [← leNat_eq_foldr, ← matches_iff, ← beyondFrame_iff]
    refine ⟨examine_of_unsuited, examine_of_beyond, fun suits within holds => ?_, fun suits within fails => ?_⟩
    · rw [examine_of_within suits within, if_pos ((holds_iff e (fieldOf e f)).2 holds)]
    · rw [examine_of_within suits within, if_neg (fun h => fails ((holds_iff e (fieldOf e f)).1 h))]

/-! Verdicts. -/

theorem exec_cue_of_cued {r : CueRow} (h : s.cued f r = true) : s.cueFrame f r = s.takeCue (framePayload f) := if_pos h

/-- A frame is forwarded into the pass queue of the opposite port, or counted where that is full (R23). -/
theorem forwardFrame_cases (t : State) (p : Port) (f : List Byte) :
    (p = .head → t.tail.passQueue.length < 8 →
      t.forwardFrame p f = { t with tail := { t.tail with passQueue := t.tail.passQueue ++ [f] } }) ∧
    (p = .head → 8 ≤ t.tail.passQueue.length → t.forwardFrame p f = { t with tail := { t.tail with counters :=
      { t.tail.counters with passOverrun := min (t.tail.counters.passOverrun + 1) 4294967295 } } }) ∧
    (p = .tail → t.head.passQueue.length < 8 →
      t.forwardFrame p f = { t with head := { t.head with passQueue := t.head.passQueue ++ [f] } }) ∧
    (p = .tail → 8 ≤ t.head.passQueue.length → t.forwardFrame p f = { t with head := { t.head with counters :=
      { t.head.counters with passOverrun := min (t.head.counters.passOverrun + 1) 4294967295 } } }) := by
  refine ⟨?_, ?_, ?_, ?_⟩ <;> rintro rfl queue
  · exact if_pos queue
  · exact if_neg (Nat.not_lt.2 queue)
  · exact if_pos queue
  · exact if_neg (Nat.not_lt.2 queue)

/-- A verdict that acts has its action carried out, and then its forward flag (R31). -/
theorem exec_classifierWalk_of_action (arrived : reception f = .arrived) (elsewhere : frameDest f ≠ s.node)
    {a : Action} (action : (s.walk p f).1.action = a) (acts : a ≠ .none) {t : State}
    (acted : ({ s with classifier := (s.walk p f).2 } : State).actOn a p f = t) :
    exec (.classifierWalk p f) s =
      .next (if (s.walk p f).1.forward = true then t.forwardFrame p f else t) := by
  rw [exec_classifierWalk_of_arrived arrived elsewhere, State.carryVerdict_of_action (action ▸ acts), action, acted]

/-- Settles O20: each action's block is reached by the frame's payload, and the forward flag is carried out last. -/
theorem verdictsDropOrForward : Obligations.VerdictsDropOrForward := by
  intro s p f arrived elsewhere
  refine ⟨fun none ends => ?_, fun none on => ?_, ?_, ?_, ?_, ?_, ?_, ?_, fun t => ?_⟩
  · rw [exec_classifierWalk_of_arrived arrived elsewhere]
    exact congrArg Host.Outcome.next (if_pos ⟨none, ends⟩)
  · rw [exec_classifierWalk_of_arrived arrived elsewhere]
    refine congrArg Host.Outcome.next ((if_neg (fun h => by simp [on] at h)).trans ?_)
    rw [none, on]
    rfl
  · rintro rfl cue; exact exec_classifierWalk_of_action arrived elsewhere cue nofun rfl
  · rintro rfl beacon; exact exec_classifierWalk_of_action arrived elsewhere beacon nofun rfl
  · rintro level hold rfl quiet; exact exec_classifierWalk_of_action arrived elsewhere quiet nofun rfl
  · rintro rfl board answer
    exact exec_classifierWalk_of_action arrived elsewhere board nofun (if_pos answer)
  · rintro rfl board status
    refine exec_classifierWalk_of_action arrived elsewhere board nofun ((if_neg ?_).trans (if_pos status))
    rw [status]; decide
  · rintro rfl board answer status
    exact exec_classifierWalk_of_action arrived elsewhere board nofun ((if_neg answer).trans (if_neg status))
  · obtain ⟨out, outFull, inn, innFull⟩ := forwardFrame_cases t p f
    refine ⟨out, outFull, inn, innFull, fun g => ⟨?_, ?_, ?_, ?_, ?_, ?_, ?_, ?_, ?_, ?_⟩⟩
    case refine_8 => exact exec_beacon_of_fixedPath
    case refine_9 => exact fun path => congrArg Host.Outcome.next (if_pos path)
    case refine_10 => exact fun path => congrArg Host.Outcome.next (if_pos path)
    all_goals exact fun cued => congrArg Host.Outcome.next (exec_cue_of_cued cued)

end

end Sys2Proof.Machine

/-! The ports of the engine: what a free port starts, which command frame is ready, and the reports of the head port
(R18 to R22, R129, R175). -/

namespace Sys2Proof.Machine

section

variable {s : State}

/-! The choice of a free tail port (R18). -/

theorem chooseTail_of_strike {f : List Byte} {fs : List (List Byte)} (queue : s.tail.strikeQueue = f :: fs) :
    s.chooseTail = s.modTail (fun t => { t with strikeQueue := fs, sending := some f }) := by
  unfold State.chooseTail
  rw [queue]

theorem chooseTail_of_guard (queue : s.tail.strikeQueue = []) (guard : s.guardHolds = true) : s.chooseTail = s := by
  unfold State.chooseTail
  rw [queue]
  exact if_pos guard

theorem chooseTail_of_command {f : CommandFrame} {c : Command} (queue : s.tail.strikeQueue = [])
    (guard : s.guardHolds = false) (ready : s.readyCommand = some (f, c)) : s.chooseTail = s.sendCommand f c := by
  unfold State.chooseTail
  rw [queue, ready]
  exact if_neg (by simp [guard])

theorem chooseTail_of_idle (queue : s.tail.strikeQueue = []) (guard : s.guardHolds = false)
    (ready : s.readyCommand = none) : s.chooseTail = s.startPass := by
  unfold State.chooseTail
  rw [queue, ready]
  exact if_neg (by simp [guard])

theorem startPass_of_cons {f : List Byte} {fs : List (List Byte)} (queue : s.tail.passQueue = f :: fs) :
    s.startPass = s.modTail (fun t => { t with passQueue := fs, sending := some f }) := by
  unfold State.startPass
  rw [queue]

theorem startPass_of_nil (queue : s.tail.passQueue = []) : s.startPass = s := by
  unfold State.startPass
  rw [queue]

/-- The guard looks at the head of the waiting list (R19). -/
theorem guardHolds_iff : s.guardHolds = true ↔ ∃ e rest, s.launch.waiting = e :: rest ∧
    e.fire ≤ s.clock.time + s.mgmt.settings.strikeGuard := by
  unfold State.guardHolds
  cases s.launch.waiting with
  | nil => exact ⟨nofun, fun ⟨_, _, h, _⟩ => nomatch h⟩
  | cons e rest =>
    refine decide_eq_true_iff.trans ⟨fun h => ⟨e, rest, rfl, h⟩, ?_⟩
    rintro ⟨_, _, h, soon⟩
    cases h
    exact soon

/-! Which frame is ready (R129). -/

theorem isStop_iff (op : CommandOp) : op.isStop = true ↔ op = .stop := by cases op <;> simp [CommandOp.isStop]

theorem running_iff : s.running = true ↔ s.mgmt.engine = .run := decide_eq_true_iff

/-- A frame of the command queue that may start, with its command. -/
def State.Ready (s : State) (f : CommandFrame) (c : Command) : Prop :=
  s.boards[f.board].commands.find? (fun d => d.id = f.id) = some c ∧
    (c.condition = .resend ∨
      (c.condition = .waiting ∧ (∀ d ∈ s.boards[f.board].commands, d.condition.inHandshake = false) ∧
        (s.mgmt.engine = .run ∨ c.op = .stop) ∧
        ∃ before after, s.boards[f.board].commands = before ++ c :: after ∧
          (∀ d ∈ before, d.condition ≠ .waiting) ∧
          (c.op = .stop ∨ ∀ d ∈ before, ∀ until_, d.condition ≠ .holdoff until_)))

/-- A frame is ready when its command is. -/
theorem commandReady_iff (f : CommandFrame) : s.commandReady f = true ↔ ∃ c, s.Ready f c := by
  unfold State.commandReady State.Ready BoardState.command?
  cases found : s.boards[f.board].commands.find? (fun d => d.id = f.id) with
  | none => exact ⟨nofun, fun ⟨_, h, _⟩ => nomatch h⟩
  | some c =>
    have id : c.id = f.id := by simpa using List.find?_some found
    simp only [Option.some.injEq, exists_eq_left']
    cases condition : c.condition with
    | resend => simp
    | holdoff t => simp
    | outstanding t => simp
    | waiting =>
      simp only [Bool.and_eq_true, Bool.or_eq_true, readyInList_iff f.id c id condition _ false found, isStop_iff,
        running_iff, List.all_eq_true, Bool.not_eq_true', reduceCtorEq, false_or, true_and, and_assoc]
      constructor
      · exact fun ⟨hand, list, run⟩ => ⟨hand, run, list⟩
      · exact fun ⟨hand, run, list⟩ => ⟨hand, list, run⟩

/-- The oldest frame that is ready is chosen. -/
theorem readyCommand_of_first {older newer : List CommandFrame} {f : CommandFrame} {c : Command}
    (queue : s.tail.commandQueue = older ++ f :: newer) (first : ∀ g ∈ older, ∀ d, ¬s.Ready g d) (ready : s.Ready f c) :
    s.readyCommand = some (f, c) := by
  have found : s.tail.commandQueue.find? s.commandReady = some f := by
    rw [queue, List.find?_append, List.find?_eq_none.2 (fun g m h => ?_),
      List.find?_cons_of_pos ((commandReady_iff f).2 ⟨c, ready⟩)]
    · rfl
    · obtain ⟨d, k⟩ := (commandReady_iff g).1 h
      exact first g m d k
  unfold State.readyCommand BoardState.command?
  rw [found]
  dsimp only
  rw [ready.1]
  rfl

theorem readyCommand_of_none (none : ∀ f ∈ s.tail.commandQueue, ∀ c, ¬s.Ready f c) : s.readyCommand = .none := by
  have found : s.tail.commandQueue.find? s.commandReady = .none := List.find?_eq_none.2 (fun f m h => by
    obtain ⟨c, k⟩ := (commandReady_iff f).1 h
    exact none f m c k)
  unfold State.readyCommand
  rw [found]

/-! The frame of a command. -/

theorem modBoard_eq (b : Fin 32) (g : BoardState → BoardState) :
    s.modBoard b g = { s with boards := s.boards.set b.val (g s.boards[b]) b.isLt } := rfl

/-- A board changed twice is changed once by both (R129). -/
theorem modBoard_modBoard (b : Fin 32) (g h : BoardState → BoardState) :
    (s.modBoard b g).modBoard b h = s.modBoard b (fun t => h (g t)) := by
  simp [modBoard_eq, Vector.set_set]

theorem sendTag_eq {t : BoardState} {c : Command} {tag : Byte}
    (h : (c.condition = .resend ∧ c.tag = some tag) ∨ (c.condition = .waiting ∧ tag = t.nextTag)) :
    sendTag t c = tag ∧ tagAfter t c = if c.condition = .resend then t.nextTag else t.nextTag + 1 := by
  unfold sendTag tagAfter
  obtain ⟨e, k⟩ | ⟨e, k⟩ := h <;> simp [e, k]

theorem sendCommand_eq (f : CommandFrame) (c : Command) :
    s.sendCommand f c = { s with
      tail := { s.tail with
        commandQueue := s.tail.commandQueue.filter (fun g => g ≠ f),
        sending := some (formFrame f.dest s.node 0x41 (commandPayload (sendTag s.boards[f.board] c) c)) },
      boards := s.boards.set f.board.val { s.boards[f.board] with
        commands := s.boards[f.board].commands.map (fun d => if d.id = c.id then
          { d with condition := .outstanding (s.clock.time + s.mgmt.settings.answerTimeout),
                   tag := some (sendTag s.boards[f.board] c) } else d),
        nextTag := tagAfter s.boards[f.board] c, sent := min (s.boards[f.board].sent + 1) 65535 } } := by
  unfold State.sendCommand State.modCommand
  dsimp only
  rw [modBoard_modBoard]
  rfl

/-- Settles O22: the four choices of the port, the oldest ready frame among the commands, and the frame that starts. -/
theorem tailPortChooses : Obligations.TailPortChooses := by
  refine ⟨fun s => ?_, fun s => ⟨fun _ _ _ _ => readyCommand_of_first, readyCommand_of_none⟩, fun s f c tag h => ?_⟩
  · intro free
    refine ⟨fun f fs queue => ?_, fun queue guard => ?_, fun f c queue guard ready => ?_,
      fun f fs queue guard ready pass => ?_, fun queue guard ready pass => ?_, guardHolds_iff⟩ <;>
      refine congrArg Host.Outcome.next ?_
    · exact chooseTail_of_strike queue
    · exact chooseTail_of_guard queue guard
    · exact chooseTail_of_command queue guard ready
    · exact (chooseTail_of_idle (s := free) queue guard ready).trans (startPass_of_cons (s := free) pass)
    · exact (chooseTail_of_idle (s := free) queue guard ready).trans (startPass_of_nil (s := free) pass)
  · obtain ⟨tagged, after⟩ := sendTag_eq h
    rw [sendCommand_eq, tagged, after]
    unfold commandPayload CommandOp.parameters CommandOp.code channelCode
    cases c.op <;> cases c.channel <;> rfl

/-! The head port (R20 to R22). -/

theorem dropFirst_filter {α : Type} (p : α → Bool) (l : List α) :
    (dropFirst p l).filter p = (l.filter p).drop 1 ∧
      (dropFirst p l).filter (fun x => !p x) = l.filter (fun x => !p x) := by
  induction l with
  | nil => exact ⟨rfl, rfl⟩
  | cons x xs ih =>
    unfold dropFirst
    cases h : p x <;> simp [h, ih]

theorem chooseHead_of_response {r : ReportFrame} (oldest : s.head.reportQueue.find? (fun r => r.isEvent = false) = some r) :
    s.chooseHead = s.startReport false r := by
  unfold State.chooseHead
  rw [oldest]

theorem chooseHead_of_event {r : ReportFrame} (none : s.head.reportQueue.find? (fun r => r.isEvent = false) = none)
    (oldest : s.head.reportQueue.find? (fun r => r.isEvent = true) = some r)
    (turn : s.head.passQueue = [] ∨ s.head.turn = .events) : s.chooseHead = (s.startReport true r).turnTo .pass := by
  unfold State.chooseHead
  rw [none, oldest]
  exact if_pos turn

/-- With no response waiting, and no event report or the turn of the pass queue, an inbound frame starts (R22). -/
theorem chooseHead_of_pass (none : s.head.reportQueue.find? (fun r => r.isEvent = false) = none)
    (turn : s.head.reportQueue.find? (fun r => r.isEvent = true) = .none ∨
      ¬(s.head.passQueue = [] ∨ s.head.turn = .events)) : s.chooseHead = s.startInbound := by
  unfold State.chooseHead
  rw [none]
  cases oldest : s.head.reportQueue.find? (fun r => r.isEvent = true) with
  | none => rfl
  | some r => exact if_neg (turn.resolve_left (by rw [oldest]; exact nofun))

/-- The oldest response or event report, by the list of them. -/
theorem find?_of_filter {l : List ReportFrame} {b : Bool} {p : ReportFrame → Bool} (same : ∀ r, p r = decide (r.isEvent = b)) :
    l.find? (fun r => decide (r.isEvent = b)) = (l.filter p).head? := by
  rw [List.head?_filter, funext same]

theorem startInbound_of_cons {f : List Byte} {fs : List (List Byte)} (queue : s.head.passQueue = f :: fs) :
    s.startInbound = { s with head := { s.head with passQueue := fs, sending := some f, turn := .events } } := by
  unfold State.startInbound
  rw [queue]
  rfl

theorem startInbound_of_nil (queue : s.head.passQueue = []) : s.startInbound = s := by
  unfold State.startInbound
  rw [queue]

theorem canReport_iff : s.canReport = true ↔ s.mgmt.events ≠ [] ∧ s.head.reportQueue.length < 8 ∧
    s.head.pendingResponse = none ∧ ∀ r ∈ s.head.reportQueue, r.isEvent = false := by
  simp [State.canReport, and_assoc]

/-- Settles O23: the two kinds of report in the queue are told apart by their lists, of which the port takes the first. -/
theorem headPortAndItsReports : Obligations.HeadPortAndItsReports := by
  refine ⟨fun s => ?_, fun s => ?_⟩
  · intro responses events
    have response : ∀ r : ReportFrame, (!r.isEvent) = decide (r.isEvent = false) := fun r => by cases r.isEvent <;> rfl
    have event : ∀ r : ReportFrame, r.isEvent = decide (r.isEvent = true) := fun r => by cases r.isEvent <;> rfl
    have firstResponse : s.head.reportQueue.find? (fun r => r.isEvent = false) = responses.head? := find?_of_filter response
    have firstEvent : s.head.reportQueue.find? (fun r => r.isEvent = true) = events.head? := find?_of_filter event
    let free := s.modHead (fun h => { h with sending := none })
    refine ⟨fun r rs some => ?_, fun r rs none some turn => ?_, fun f fs none turn queue => ?_, fun none none' queue => ?_⟩
    · obtain ⟨taken, left⟩ := dropFirst_filter (fun r : ReportFrame => r.isEvent = false) s.head.reportQueue
      refine ⟨_, congrArg Host.Outcome.next (chooseHead_of_response (s := free) (firstResponse.trans (by rw [some]; rfl))),
        rfl, rfl, rfl, ?_, ?_, rfl⟩
      · rw [funext response]
        exact taken.trans (by rw [← funext response]; exact congrArg (List.drop 1) some)
      · have back : (fun r : ReportFrame => r.isEvent) = fun r => !decide (r.isEvent = false) := by
          funext r; cases r.isEvent <;> rfl
        show List.filter (fun r : ReportFrame => r.isEvent) _ = List.filter (fun r : ReportFrame => r.isEvent) _
        rw [back]
        exact left
    · have all : s.head.reportQueue = r :: rs := by
        rw [← some]
        refine (List.filter_eq_self.2 (fun x m => ?_)).symm
        simpa using List.filter_eq_nil_iff.1 none x m
      have isEvent : r.isEvent = true := by
        have m : r ∈ events := by rw [some]; exact List.mem_cons_self
        exact (List.mem_filter.1 m).2
      refine congrArg Host.Outcome.next ((chooseHead_of_event (s := free) (firstResponse.trans (by rw [none]; rfl))
        (firstEvent.trans (by rw [some]; rfl)) turn).trans ?_)
      have drop : dropFirst (fun x : ReportFrame => x.isEvent = true) s.head.reportQueue = rs := by
        rw [all, dropFirst]
        exact if_pos (by simpa using isEvent)
      rw [← drop]
      rfl
    · have turn' : s.head.reportQueue.find? (fun r => r.isEvent = true) = .none ∨
          ¬(s.head.passQueue = [] ∨ s.head.turn = .events) := by
        obtain none | pass := turn
        · exact .inl (firstEvent.trans (by rw [none]; rfl))
        · exact .inr (by simp [queue, pass])
      exact congrArg Host.Outcome.next ((chooseHead_of_pass (s := free) (firstResponse.trans (by rw [none]; rfl))
        turn').trans (startInbound_of_cons (s := free) queue))
    · exact congrArg Host.Outcome.next ((chooseHead_of_pass (s := free) (firstResponse.trans (by rw [none]; rfl))
        (.inl (firstEvent.trans (by rw [none']; rfl)))).trans (startInbound_of_nil (s := free) queue))
  · refine ⟨fun r pending room => ?_, fun no => ?_, fun some room free one => ?_, fun no => ?_⟩ <;>
      refine congrArg Host.Outcome.next ?_
    · unfold State.placePending
      rw [pending]
      exact if_pos room
    · unfold State.placePending
      cases pending : s.head.pendingResponse with
      | none => rfl
      | some r => exact if_neg (Nat.not_lt.2 (no.resolve_left (by simp [pending])))
    · exact if_pos (canReport_iff.2 ⟨some, room, free, one⟩)
    · refine if_neg (fun can => ?_)
      obtain ⟨some, room, free, one⟩ := canReport_iff.1 can
      obtain h | h | h | ⟨r, m, h⟩ := no
      · exact some h
      · omega
      · exact h free
      · simp [one r m] at h

end

end Sys2Proof.Machine

/-! Strikes: what the planner answers to a request, what a firing does with its entry, and what a time step does with the
waiting list (R44 to R73, R98). -/

namespace Sys2Proof.Machine

section

variable {s : State}

@[simp] theorem fin?_val {n : Nat} (i : Fin n) : fin? n i.val = some i := dif_pos i.isLt

theorem fin?_of_le {n k : Nat} (h : n ≤ k) : fin? n k = none := dif_neg (Nat.not_lt.2 h)

/-! Planning (R44 to R49). -/

theorem planStrike_of_refuse {q : StrikeRequest} {r : StrikeRefusal} (h : planDecision s q = .refuse r) :
    planStrike s q = (.refused r, s.modStrikeCounters (fun c => c.refuse r)) := by
  unfold planStrike
  rw [h]

theorem planStrike_of_ignore {q : StrikeRequest} (h : planDecision s q = .ignore) : planStrike s q = (.ignored, s) := by
  unfold planStrike
  rw [h]

theorem planStrike_of_enter {q : StrikeRequest} {e : LaunchEntry} (h : planDecision s q = .enter e) :
    planStrike s q =
      (.accepted, (s.joinWaiting e).modStrikeCounters (fun c => { c with accepted := inc32 c.accepted })) := by
  unfold planStrike
  rw [h]

/-- A bell that is not there or not enabled is refused before the velocity is looked at (R45). -/
theorem planDecision_of_bad_bell {q : StrikeRequest}
    (bad : 47 < q.bell ∨ ∃ bell : Fin 48, q.bell = bell.val ∧ s.bellRecs[bell].enabled = false) :
    planDecision s q = .refuse .bellInvalid := by
  unfold planDecision
  obtain high | ⟨bell, at_, off⟩ := bad
  · rw [fin?_of_le high]
  · rw [at_, fin?_val]
    exact if_pos off

theorem planDecision_of_bell {q : StrikeRequest} {bell : Fin 48} (at_ : q.bell = bell.val)
    (on : s.bellRecs[bell].enabled = true) :
    planDecision s q =
      match usedVelocity q.origin q.velocity with
      | none => .ignore
      | some v => judgeEntry s (plannedEntry s bell v q) := by
  unfold planDecision
  rw [at_, fin?_val]
  exact if_neg (fun off => Bool.noConfusion (on.symm.trans off))

/-- A velocity is used unless it is a cue's 0 (R45). -/
theorem usedVelocity_of_used {o : StrikeOrigin} {v : Nat} (used : o = .cue → v ≠ 0) :
    usedVelocity o v = some (max 1 (min 127 v)) := by
  rw [← clamp_eq (by decide)]
  cases o with
  | cue => exact if_neg (used rfl)
  | run k => rfl

theorem planDecision_of_used {q : StrikeRequest} {bell : Fin 48} (at_ : q.bell = bell.val)
    (on : s.bellRecs[bell].enabled = true) (used : q.origin = .cue → q.velocity ≠ 0) :
    planDecision s q = judgeEntry s (plannedEntry s bell (max 1 (min 127 q.velocity)) q) := by
  rw [planDecision_of_bell at_ on, usedVelocity_of_used used]

section

variable {e : LaunchEntry}

theorem judgeEntry_of_late
    (late : e.fire < 0 ∨ (e.fire ≤ s.clock.time + 10000 ∧ e.fire < s.clock.time - s.mgmt.settings.expiry)) :
    judgeEntry s e = .refuse .late := by
  by_cases neg : e.fire < 0
  · exact if_pos neg
  · obtain ⟨near, past⟩ := late.resolve_left neg
    exact (if_neg neg).trans ((if_neg (Int.not_lt.2 near)).trans (if_pos past))

theorem judgeEntry_of_far (pos : 0 ≤ e.fire) (far : s.clock.time + 10000 < e.fire) :
    judgeEntry s e = .refuse .beyondHorizon := (if_neg (Int.not_lt.2 pos)).trans (if_pos far)

/-- An entry within its times is refused by a full queue alone (R49). -/
theorem judgeEntry_of_timely (pos : 0 ≤ e.fire) (near : e.fire ≤ s.clock.time + 10000)
    (due : s.clock.time - s.mgmt.settings.expiry ≤ e.fire) :
    judgeEntry s e = if 256 ≤ s.held then .refuse .queueFull else .enter e :=
  (if_neg (Int.not_lt.2 pos)).trans ((if_neg (Int.not_lt.2 near)).trans (if_neg (Int.not_lt.2 due)))

/-- The waiting list after an entry joins, behind every entry at or before it (R60). -/
theorem joinWaiting_eq (s : State) (e : LaunchEntry) :
    s.joinWaiting e = { s with launch := { s.launch with 
      waiting := s.launch.waiting.takeWhile (fun x => x.fire ≤ e.fire) ++
        e :: s.launch.waiting.dropWhile (fun x => x.fire ≤ e.fire) } } := by
  rw [← insertByFire_eq]
  rfl

end

/-- An entry of a STRIKE cue that is refused raises CUE_REFUSED with its index (R174). -/
theorem cueEntry_eq (base : Nat) (e : CueStrike) (i : Nat) :
    s.cueEntry base e i =
      match (planStrike s { bell := e.bell, velocity := e.velocity, time := strikeWhen base e.offset, origin := .cue }).1 with
      | .accepted => (planStrike s
          { bell := e.bell, velocity := e.velocity, time := strikeWhen base e.offset, origin := .cue }).2
      | .ignored => (planStrike s
          { bell := e.bell, velocity := e.velocity, time := strikeWhen base e.offset, origin := .cue }).2
      | .refused r => (planStrike s
          { bell := e.bell, velocity := e.velocity, time := strikeWhen base e.offset, origin := .cue }).2.refuseCue
            r.reason 1 i := rfl

/-- Settles O24: the checks of R45 to R49 in their order, and the entries of a cue one by one. -/
theorem strikePlanning : Obligations.StrikePlanning := by
  refine ⟨fun s q => ⟨fun bad => ?_, fun bell at_ on => ⟨fun cue zero => ?_, fun used => ?_⟩⟩, ?_, fun _ _ _ => rfl,
    fun s base i e es => ?_⟩
  · exact planStrike_of_refuse (planDecision_of_bad_bell bad)
  · refine planStrike_of_ignore ((planDecision_of_bell at_ on).trans ?_)
    rw [cue, zero]
    rfl
  · have planned := planDecision_of_used at_ on used
    refine ⟨fun late => ?_, fun pos far => ?_, fun pos near due full => ?_, fun pos near due room => ?_⟩
    · exact planStrike_of_refuse (planned.trans (judgeEntry_of_late late))
    · exact planStrike_of_refuse (planned.trans (judgeEntry_of_far pos far))
    · exact planStrike_of_refuse (planned.trans ((judgeEntry_of_timely pos near due).trans (if_pos full)))
    · rw [planStrike_of_enter (planned.trans ((judgeEntry_of_timely pos near due).trans (if_neg (Nat.not_le.2 room)))),
        joinWaiting_eq]
      rfl
  · intro s f base entries cued run read timed
    exact congrArg Host.Outcome.next (cueFrame_carried s f _ _ cued run read (timed.imp_left (fun h => by simp [Cue.timed, h])))
  · refine ⟨fun h => ?_, fun r h => ?_⟩ <;> rw [State.cueEntries, cueEntry_eq]
    · have taken : ∀ {o : PlanOutcome} (t u : State), o = .accepted ∨ o = .ignored →
          (match o with | .accepted => t | .ignored => t | .refused r => u.refuseCue r.reason 1 i) = t := by
        rintro o t u (rfl | rfl) <;> rfl
      exact congrArg _ (taken _ _ h)
    · have refused : ∀ {o : PlanOutcome} (t u : State), o = .refused r →
          (match o with | .accepted => t | .ignored => t | .refused r => u.refuseCue r.reason 1 i) =
            u.raise .cueRefused r.reason.code (256 + i) := by
        rintro o t u rfl
        simp [State.refuseCue]
      exact congrArg _ (refused _ _ h)

/-! Firing (R50 to R58, R63 to R69). -/

theorem bellsOpen_iff (c : Calendar) : c.bellsOpen = true ↔ c.listBells = .opened ∧ c.override = none := by
  simp [Calendar.bellsOpen]

theorem coilReachable_iff (bell : Fin 48) : s.coilReachable bell = true ↔
    s.bellRecs[bell].enabled = true ∧ s.boardRecs[s.bellRecs[bell].board].enabled = true ∧
      s.boardRecs[s.bellRecs[bell].board].kind = .bell ∧ s.boards[s.bellRecs[bell].board].presence = .present ∧
      s.bells[bell].unavailable = false := by
  simp [State.coilReachable, and_assoc]

theorem recovered_iff (bell : Fin 48) : s.recovered bell = true ↔
    ∀ last, s.bells[bell].lastFire = some last → (s.bellRecs[bell].recovery : Int) ≤ s.clock.time - last := by
  unfold State.recovered
  cases s.bells[bell].lastFire with
  | none => exact ⟨nofun, fun _ => rfl⟩
  | some t => exact decide_eq_true_iff.trans ⟨fun h _ e => by cases e; exact h, fun h => h t rfl⟩

section

variable {e : LaunchEntry}

theorem fireEntry_of_gated (shut : ¬s.calendar.bellsOpen = true) :
    s.fireEntry e = s.modStrikeCounters (fun c => { c with gated := inc32 c.gated }) :=
  if_pos (Bool.eq_false_iff.2 shut)

theorem fireEntry_of_unreachable (opened : s.calendar.bellsOpen = true) (dead : ¬s.coilReachable e.bell = true) :
    s.fireEntry e = s.skipStrike .boardAbsent :=
  (if_neg (by rw [opened]; exact nofun)).trans (if_pos (Bool.eq_false_iff.2 dead))

theorem fireEntry_of_recovering (opened : s.calendar.bellsOpen = true) (coil : s.coilReachable e.bell = true)
    (tired : ¬s.recovered e.bell = true) : s.fireEntry e = s.skipStrike .recovery :=
  (if_neg (by rw [opened]; exact nofun)).trans ((if_neg (by rw [coil]; exact nofun)).trans
    (if_pos (Bool.eq_false_iff.2 tired)))

/-- A strike that the first three firing steps let through reaches the heat step (R51 to R53). -/
theorem fireEntry_of_rested (opened : s.calendar.bellsOpen = true) (coil : s.coilReachable e.bell = true)
    (rested : s.recovered e.bell = true) : s.fireEntry e = s.heatStep e :=
  (if_neg (by rw [opened]; exact nofun)).trans ((if_neg (by rw [coil]; exact nofun)).trans
    (if_neg (by rw [rested]; exact nofun)))

/-- The state with a bell's heat decayed to now (R55). -/
def State.cooled (s : State) (bell : Fin 48) : State :=
  s.setBell bell { s.bells[bell] with
    heat := decayedHeat s.bellRecs[bell] s.bells[bell] s.now, heatAt := s.now }

/-- The pulse p1 of an entry (R54). -/
def State.pulse1 (s : State) (e : LaunchEntry) : Nat :=
  compensatedPulse s.bellRecs[e.bell] e.shaped s.settings.vnom s.boards[s.bellRecs[e.bell].board].rail

/-- The group of a bell's board. -/
def State.groupOf (s : State) (bell : Fin 48) : Fin 4 := s.boardRecs[s.bellRecs[bell].board].group

theorem heatStep_eq : s.heatStep e =
    match fittedPulse s.bellRecs[e.bell] (decayedHeat s.bellRecs[e.bell] s.bells[e.bell] s.now) (s.pulse1 e) with
    | none => (s.cooled e.bell).skipStrike .heat
    | some p2 =>
      if (s.cooled e.bell).admitsStrike (s.groupOf e.bell) s.bellRecs[e.bell].coilCurrent then
        (s.cooled e.bell).emitStrike e (s.pulse1 e) p2
      else (s.cooled e.bell).deferStrike e (s.groupOf e.bell) := rfl

/-- A pulse fits under the heat limit whole, or cut to what is left of it (R55). -/
theorem fittedPulse_of_cold {b : BellRec} {heat p1 : Nat}
    (cold : heat + p1 ≤ b.heatLimit ∨ b.pulseMin ≤ b.heatLimit - heat) :
    fittedPulse b heat p1 = some (if heat + p1 ≤ b.heatLimit then p1 else b.heatLimit - heat) := by
  unfold fittedPulse
  split
  · rfl
  · next hot => exact if_neg (Nat.not_lt.2 (cold.resolve_left hot))

theorem fittedPulse_of_hot {b : BellRec} {heat p1 : Nat}
    (hot : ¬(heat + p1 ≤ b.heatLimit ∨ b.pulseMin ≤ b.heatLimit - heat)) : fittedPulse b heat p1 = none := by
  rw [not_or] at hot
  exact (if_neg hot.1).trans (if_pos (Nat.not_le.1 hot.2))

theorem deferStrike_of_budget {g : Fin 4} (late : s.earliestEnd g = none ∨
    ∃ t, s.earliestEnd g = some t ∧ (s.mgmt.settings.expiry : Int) < t - e.fire0) :
    s.deferStrike e g = s.skipStrike .budget := by
  unfold State.deferStrike
  obtain none | ⟨t, end_, beyond⟩ := late
  · rw [none]
  · rw [end_]
    exact if_pos beyond

theorem deferStrike_of_end {g : Fin 4} {t : Time} (end_ : s.earliestEnd g = some t)
    (within : t - e.fire0 ≤ (s.mgmt.settings.expiry : Int)) :
    s.deferStrike e g = (s.joinWaiting { e with fire := t, deferred := min (e.deferred + 1) 255 }).modStrikeCounters
      (fun c => { c with deferrals := inc32 c.deferrals }) := by
  unfold State.deferStrike
  rw [end_]
  exact if_neg (Int.not_lt.2 within)

theorem setBell_get (i : Fin 48) (x : BellState) : (s.setBell i x).bells[i] = x := by
  simp [State.setBell]

theorem setBell_setBell (i : Fin 48) (x y : BellState) : (s.setBell i x).setBell i y = s.setBell i y := by
  simp [State.setBell, Vector.set_set]

/-- The state of an emission before its pair joins the assembly (R58). -/
theorem emitStrike_cooled (p1 p2 : Nat) :
    (s.cooled e.bell).emitStrike e p1 p2 =
      State.joinAssembly
        { s with
          bells := s.bells.set e.bell.val { s.bells[e.bell] with
            heat := decayedHeat s.bellRecs[e.bell] s.bells[e.bell] s.now + p2, heatAt := s.now, lastFire := some s.now },
          strikeAccount := s.strikeAccount ++ [
            { group := s.groupOf e.bell, bell := e.bell, current := s.bellRecs[e.bell].coilCurrent,
              windowEnd := pulseEnd s.now p2 }],
          launch := { s.launch with
            counters := s.launch.counters.emission (decide (p2 < p1)) (decide (e.fire0 < s.now)),
            greatestLateness := max s.launch.greatestLateness (min (s.now - e.fire0).toNat 65535) } }
        s.bellRecs[e.bell].board (s.bellRecs[e.bell].channel, p2) := by
  unfold State.emitStrike State.cooled
  dsimp only
  rw [setBell_get, setBell_setBell]
  rfl

end

theorem emission_eq (c : StrikeCounters) (p q : Prop) [Decidable p] [Decidable q] :
    c.emission (decide p) (decide q) = { c with
      heatTrimmed := if p then min (c.heatTrimmed + 1) 4294967295 else c.heatTrimmed,
      lateFired := if q then min (c.lateFired + 1) 4294967295 else c.lateFired } := by
  simp only [StrikeCounters.emission, decide_eq_true_eq, inc32_eq]

/-- The due head leaves the list, the windows that have ended are released, and the entry is fired (R63). -/
theorem exec_fireHeadEntry_of_due {e : LaunchEntry} {rest : List LaunchEntry} (head : s.launch.waiting = e :: rest)
    (due : e.fire ≤ s.clock.time) {t : State}
    (fired : State.fireEntry { s with
      launch := { s.launch with waiting := rest },
      strikeAccount := s.strikeAccount.filter (fun a => decide (s.clock.time < a.windowEnd)) } e = t) :
    exec .fireHeadEntry s = .next (t.endBatch.noticeRoom s.held) := by
  have out : s.fireHead = t.endBatch.noticeRoom s.held := by
    unfold State.fireHead
    rw [head, ← fired]
    exact if_pos due
  exact congrArg Host.Outcome.next out

theorem endBatch_of_due (due : s.headDue = true) : s.endBatch = s := if_pos due

theorem endBatch_of_later (later : ¬s.headDue = true) : s.endBatch = s.closeFrames (fun _ => true) := if_neg later

theorem joinAssembly_of_joined {b : Fin 32} {pair : Fin 16 × Nat} {l : List OpenFrame}
    (joined : joinFrame b pair s.launch.assembly = l) :
    s.joinAssembly b pair = (s.modLaunch (fun x => { x with assembly := l })).closeFrames OpenFrame.full := by
  unfold State.joinAssembly
  rw [← joined]
  rfl

/-- Settles O25: the firing steps one after another, then the assembly, the end of the batch and the notice of room. -/
theorem firingOutcomes : Obligations.FiringOutcomes := by
  refine ⟨?_, fun s g => ⟨rfl, rfl, earliestEnd_iff g⟩, fun s => ?_⟩
  · intro s e rest head due now open_ fired ends c b h board g gate coil rested heat cooled p0 vnom vb p1 p2 cold
      admitted skipped
    have opened : fired.calendar.bellsOpen = true ↔ gate := bellsOpen_iff _
    have reachable : fired.coilReachable e.bell = true ↔ coil := coilReachable_iff e.bell
    have recovered : fired.recovered e.bell = true ↔ rested := recovered_iff e.bell
    have fire : ∀ {t : State}, fired.fireEntry e = t → ends t := exec_fireHeadEntry_of_due head due
    have admits : (fired.cooled e.bell).admitsStrike (fired.groupOf e.bell) b.coilCurrent = true ↔ admitted :=
      decide_eq_true_iff
    have step : gate → coil → rested → fired.fireEntry e =
        match fittedPulse b heat p1 with
        | none => (fired.cooled e.bell).skipStrike .heat
        | some p2 =>
          if (fired.cooled e.bell).admitsStrike (fired.groupOf e.bell) b.coilCurrent then
            (fired.cooled e.bell).emitStrike e p1 p2
          else (fired.cooled e.bell).deferStrike e (fired.groupOf e.bell) := fun gate coil rested =>
      (fireEntry_of_rested (opened.2 gate) (reachable.2 coil) (recovered.2 rested)).trans heatStep_eq
    refine ⟨fun shut => ?_, fun gate dead => ?_, fun gate coil tired => ?_, fun gate coil rested hot => ?_,
      fun gate coil rested cold no late => ?_, fun t gate coil rested cold no end_ within => ?_,
      fun gate coil rested cold yes => ?_⟩
    · exact fire (fireEntry_of_gated (fun h => shut (opened.1 h)))
    · exact fire (fireEntry_of_unreachable (opened.2 gate) (fun h => dead (reachable.1 h)))
    · exact fire (fireEntry_of_recovering (opened.2 gate) (reachable.2 coil) (fun h => tired (recovered.1 h)))
    · refine fire ((step gate coil rested).trans ?_)
      rw [fittedPulse_of_hot hot]
      rfl
    · refine fire ((step gate coil rested).trans ?_)
      rw [fittedPulse_of_cold cold]
      exact (if_neg (fun h => no (admits.1 h))).trans (deferStrike_of_budget (s := fired.cooled e.bell) late)
    · refine fire ((step gate coil rested).trans ?_)
      rw [fittedPulse_of_cold cold]
      refine (if_neg (fun h => no (admits.1 h))).trans
        ((deferStrike_of_end (s := fired.cooled e.bell) end_ within).trans ?_)
      rw [joinWaiting_eq]
      rfl
    · refine fire ((step gate coil rested).trans ?_)
      rw [fittedPulse_of_cold cold]
      refine (if_pos (admits.2 yes)).trans ((emitStrike_cooled p1 p2).trans ?_)
      rw [emission_eq]
      rfl
  · intro closed assembled
    refine ⟨fun o => ⟨fun room => if_pos room, fun full => if_neg (Nat.not_lt.2 full)⟩, fun b pair => ?_,
      fun later => ?_, fun e rest head due => ?_, rfl, fun before full room => if_pos ⟨full, room⟩, fun before no => ?_⟩
    · obtain ⟨opens, joins⟩ := joinFrame_iff b pair s.launch.assembly
      exact ⟨fun new => joinAssembly_of_joined (opens new),
        fun before o after at_ other own => joinAssembly_of_joined (joins before o after at_ other own)⟩
    · refine endBatch_of_later (fun due => ?_)
      cases head : s.launch.waiting with
      | nil => simp [State.headDue, head] at due
      | cons e rest => exact absurd ((headDue_iff head).1 due) (Int.not_le.2 (later e rest head))
    · exact endBatch_of_due ((headDue_iff head).2 due)
    · exact if_neg (fun h => by omega)

/-! Purges and time steps (R60, R70, R71, R98). -/

/-- The waiting list and the counts of purges: what the assembly and its frames leave alone. -/
def State.purges (s : State) : List LaunchEntry × Nat × Nat × Nat × Nat :=
  (s.launch.waiting, s.launch.counters.purged, s.launch.counters.stepPurged, s.launch.counters.runPurged,
    s.launch.counters.stopPurged)

theorem offerFrame_purges (o : OpenFrame) : (s.offerFrame o).purges = s.purges := by
  unfold State.offerFrame
  split <;> rfl

theorem endBatch_purges : s.endBatch.purges = s.purges := by
  unfold State.endBatch State.closeFrames
  split
  · rfl
  · exact foldl_part _ State.purges _ (fun _ => offerFrame_purges) _

theorem noticeRoom_launch (n : Nat) : (s.noticeRoom n).launch = s.launch := by
  unfold State.noticeRoom
  split <;> rfl

/-- What the end of a batch and the notice of room leave of a purge. -/
theorem purge_purges (r : PurgeReason) (p : LaunchEntry → Bool) :
    (s.purge r p).purges = (s.modLaunch (fun l => { l with
      waiting := l.waiting.filter (fun e => !p e), counters := l.counters.purge r (l.waiting.countP p) })).purges := by
  have same : ∀ (u : State) (n : Nat), (u.endBatch.noticeRoom n).purges = u.purges := fun u n => by
    have : (u.endBatch.noticeRoom n).purges = u.endBatch.purges := by unfold State.purges; rw [noticeRoom_launch]
    exact this.trans endBatch_purges
  exact same _ _

/-- A time step's purge takes the entries picked out of the list and counts them (R71). -/
theorem purge_step (p : LaunchEntry → Bool) :
    (s.purge .step p).launch.waiting = s.launch.waiting.filter (fun e => !p e) ∧
      (s.purge .step p).launch.counters.purged =
        min (s.launch.counters.purged + s.launch.waiting.countP p) 4294967295 ∧
      (s.purge .step p).launch.counters.stepPurged =
        min (s.launch.counters.stepPurged + s.launch.waiting.countP p) 4294967295 := by
  have h := purge_purges (s := s) .step p
  exact ⟨congrArg (fun x => x.1) h, congrArg (fun x => x.2.1) h, congrArg (fun x => x.2.2.1) h⟩

theorem insertByFire_perm (e : LaunchEntry) (l : List LaunchEntry) : (insertByFire e l).Perm (e :: l) := by
  rw [insertByFire_eq]
  refine List.perm_middle.trans ?_
  rw [List.takeWhile_append_dropWhile]

theorem foldl_insertByFire_perm (es acc : List LaunchEntry) :
    (es.foldl (fun acc e => insertByFire e acc) acc).Perm (acc ++ es) := by
  induction es generalizing acc with
  | nil => simp
  | cons e es ih =>
    exact (ih _).trans (((insertByFire_perm e acc).append_right es).trans List.perm_middle.symm)

theorem reorder_perm (es : List LaunchEntry) : (reorder es).Perm es := foldl_insertByFire_perm es []

/-- An entry put into an ordered list comes behind those of its own fire time (R60). -/
theorem insertByFire_filter (e : LaunchEntry) (l : List LaunchEntry) (sorted : l.Pairwise (fun a b => a.fire ≤ b.fire))
    (t : Int) :
    (insertByFire e l).filter (fun x => x.fire = t) = (l ++ [e]).filter (fun x => x.fire = t) := by
  induction l with
  | nil => rfl
  | cons x xs ih =>
    obtain ⟨first, rest⟩ := List.pairwise_cons.1 sorted
    unfold insertByFire
    split
    · rw [List.filter_cons, ih rest, List.cons_append, List.filter_cons]
    · next after =>
      by_cases same : e.fire = t
      · have none : (x :: xs).filter (fun y => y.fire = t) = [] := by
          refine List.filter_eq_nil_iff.2 (fun y m => ?_)
          have later : x.fire ≤ y.fire := by
            obtain rfl | m := List.mem_cons.1 m
            · exact Int.le_refl _
            · exact first y m
          exact fun h => after (later.trans (Int.le_of_eq ((of_decide_eq_true h).trans same.symm)))
        rw [List.filter_cons, none, List.filter_append, none, List.filter_cons]
        rfl
      · rw [List.filter_cons, List.filter_append, List.filter_cons (xs := [])]
        simp [same]

/-- Re-ordering keeps the order among entries of one fire time (R71). -/
theorem reorder_filter (es : List LaunchEntry) (t : Int) :
    (reorder es).filter (fun x => x.fire = t) = es.filter (fun x => x.fire = t) := by
  have go : ∀ es acc : List LaunchEntry, acc.Pairwise (fun a b => a.fire ≤ b.fire) →
      (es.foldl (fun acc e => insertByFire e acc) acc).filter (fun x => x.fire = t) =
        (acc ++ es).filter (fun x => x.fire = t) := by
    intro es
    induction es with
    | nil => intro acc _; rw [List.append_nil]; rfl
    | cons e es ih =>
      intro acc sorted
      rw [List.foldl_cons, ih _ (insertByFire_sorted e acc sorted), List.filter_append,
        insertByFire_filter e acc sorted, ← List.filter_append, List.append_assoc]
      rfl
  exact go es [] List.Pairwise.nil

/-- Settles O26: the moved entries are re-ordered and then purged, and an entry keeps its place among those of one time. -/
theorem stepsMoveRuns : Obligations.StepsMoveRuns := by
  refine fun s d => ⟨?_, fun k => ⟨fun free => ?_, fun busy => ?_⟩⟩
  · intro moved purged t
    have picks : stepPurges s.now s.settings.expiry = purged := by
      funext e
      cases origin : e.origin with
      | cue => simp only [stepPurges, purged, origin, true_and]; rfl
      | run k => simp [stepPurges, purged, origin]
    obtain ⟨waiting, all, step⟩ := purge_step
      (s := s.modLaunch (fun l => { l with waiting := reorder (l.waiting.map (LaunchEntry.stepBy d)) }))
      (stepPurges s.now s.settings.expiry)
    have count : (reorder moved).countP (stepPurges s.now s.settings.expiry) = moved.countP purged := by
      rw [picks]
      exact (reorder_perm moved).countP_eq _
    have listed : t.launch.waiting = (reorder moved).filter (fun e => !purged e) := by
      rw [← picks]
      exact waiting
    refine ⟨?_, fun fire => ?_, ?_, ?_⟩
    · unfold State.inFireOrder
      rw [listed]
      exact (reorder_sorted moved).filter _
    · rw [listed, List.filter_comm, reorder_filter, List.filter_comm]
    · rw [← count]
      exact all
    · rw [← count]
      exact step
  · show (s.runs.map (Run.stepBy d))[k] = _
    rw [Fin.getElem_fin, Vector.getElem_map]
    exact if_pos free
  · show (s.runs.map (Run.stepBy d))[k] = _
    rw [Fin.getElem_fin, Vector.getElem_map]
    exact if_neg busy

end

end Sys2Proof.Machine

/-! Runs: their creation by a cue, the steps of their expansion, and how they resume and complete (R82 to R95). -/

namespace Sys2Proof.Machine

section

variable {s : State} {k : Fin 4}

/-! One run record set. -/

theorem setRun_get (x : Run) : (s.setRun k x).runs[k] = x := by simp [State.setRun]

theorem setRun_setRun (x y : Run) : (s.setRun k x).setRun k y = s.setRun k y := by simp [State.setRun, Vector.set_set]

theorem modRun_setRun (x : Run) (g : Run → Run) : (s.setRun k x).modRun k g = s.setRun k (g x) := by
  rw [State.modRun, setRun_get, setRun_setRun]

theorem setRun_other (x : Run) {j : Fin 4} (ne : j ≠ k) : (s.setRun k x).runs[j] = s.runs[j] := by
  have ne' : k.val ≠ j.val := fun h => ne (Fin.ext h.symm)
  simp [State.setRun, ne']

/-- A step that changes nothing the show unit looks at: the run record, its state kept, and parts outside R145. -/
theorem judgeAfter_setRun {u : State} (x : Run) (runs : u.runs = s.runs) (state : x.state = s.runs[k].state)
    (queue : u.showUnit.queue = s.showUnit.queue) (figs : u.figs = s.figs) (recs : u.figRecs = s.figRecs)
    (calendar : u.calendar = s.calendar) : s.judgeAfter (u.setRun k x) = u.setRun k x := by
  refine judgeAfter_of_unchanged s _ ?_ (fun j => ?_) (fun f => ?_) (fun f => ?_) ?_ ?_ ?_
  · rw [queue_setRun, queue]
  · by_cases same : j = k
    · rw [same, setRun_get, state]
    · rw [setRun_other x same, runs]
  · rw [State.setRun_figs, figs]
  · rw [State.setRun_figs, figs]
  · rw [State.setRun_figRecs, recs]
  · rw [State.setRun_calendar, calendar]
  · rw [State.setRun_calendar, calendar]

/-! The end of a step (R83, R91). -/

theorem advance_fst (p delta : Nat) : (advance p delta).1 = min (p + delta) 4294967295 := by
  unfold advance
  split <;> simp only <;> omega

theorem advance_snd (p delta : Nat) : (advance p delta).2 = decide (0 < delta ∧ p + delta ≤ 4294967295) := by
  unfold advance
  split
  · simp only [Bool.false_eq, decide_eq_false_iff_not]; omega
  · next fits =>
    rw [Bool.eq_iff_iff]
    simp only [bne_iff_ne, decide_eq_true_eq]
    omega

theorem rowDone_eq (r : Run) {f : StackFrame} {fs : List StackFrame} (stack : r.stack = f :: fs) (delta : Nat) :
    r.rowDone delta = { r with
      position := min (r.position + delta) 4294967295, stack := { f with nextRow := f.nextRow + 1 } :: fs } := by
  unfold Run.rowDone
  rw [stack, advance_fst]

theorem endStep_of_raised (x : Run) : (s.setRun k x).endStep k true = s.setRun k { x with zeroCount := 0 } :=
  (if_pos rfl).trans (modRun_setRun x _)

theorem endStep_of_counted {x : Run} (below : x.zeroCount < 255) :
    (s.setRun k x).endStep k false = s.setRun k { x with zeroCount := x.zeroCount + 1 } := by
  unfold State.endStep
  rw [if_neg (by decide), setRun_get, if_pos below, modRun_setRun]

theorem endStep_of_guard {x : Run} (limit : 255 ≤ x.zeroCount) :
    (s.setRun k x).endStep k false = (s.setRun k x).cancelRun k .zeroTimeGuard := by
  unfold State.endStep
  rw [if_neg (by decide), setRun_get, if_neg (Nat.not_lt.2 limit)]

theorem finishRow_setRun (x : Run) (delta : Nat) :
    (s.setRun k x).finishRow k delta =
      (s.setRun k (x.rowDone delta)).endStep k (decide (0 < delta ∧ x.position + delta ≤ 4294967295)) := by
  unfold State.finishRow
  rw [modRun_setRun, setRun_get, advance_snd]

theorem setRun_self : s.setRun k s.runs[k] = s := by
  have same : s.runs.set k.val s.runs[k] k.isLt = s.runs := by
    refine Vector.ext (fun j _ => ?_)
    rw [Vector.getElem_set]
    split
    · next h => subst h; rfl
    · rfl
  unfold State.setRun
  rw [same]

theorem modRun_eq_setRun (g : Run → Run) : s.modRun k g = s.setRun k (g s.runs[k]) := rfl

theorem finishRow_eq (delta : Nat) :
    s.finishRow k delta = (s.setRun k (s.runs[k].rowDone delta)).endStep k
      (decide (0 < delta ∧ s.runs[k].position + delta ≤ 4294967295)) := by
  rw [← finishRow_setRun, setRun_self]

/-! The row of an expansion step (R84). -/

theorem exec_expansionStep_of_step {t : State} (expands : s.expands k = true) (step : s.stepRun k = t) :
    exec (.expansionStep k) s = .next (s.judgeAfter t) := by
  rw [← step]
  exact congrArg (fun u => Host.Outcome.next (s.judgeAfter u)) (if_pos expands)

section

variable {f : StackFrame} {fs : List StackFrame}

/-- The meaning of a row of the top frame (R84). -/
def State.takeRow (s : State) (k : Fin 4) (f : StackFrame) : Row → State
  | .note bell velocity delta => s.noteRow k f bell velocity delta
  | .rest delta => s.finishRow k delta
  | .nest motif times transpose scale => s.nestRow k f motif times transpose scale
  | .mark m => s.markRow k m

/-- A run whose top frame has a row left takes that row. -/
theorem stepRun_of_row {row : Row} (stack : s.runs[k].stack = f :: fs)
    (inside : f.nextRow < s.motifDirs[f.motif].firstRow + s.motifDirs[f.motif].rowCount)
    (at_ : s.rows[f.nextRow]? = some row) : s.stepRun k = s.takeRow k f row := by
  unfold State.stepRun
  rw [stack]
  dsimp only
  rw [if_neg (Nat.not_le.2 inside), at_]
  cases row <;> rfl

theorem stepRun_of_end (stack : s.runs[k].stack = f :: fs)
    (end_ : s.motifDirs[f.motif].firstRow + s.motifDirs[f.motif].rowCount ≤ f.nextRow) :
    s.stepRun k = s.motifEnd k f fs := by
  unfold State.stepRun
  rw [stack]
  exact if_pos end_

/-- An expansion step that ends with the zero-time guard, in its three outcomes (R91). -/
theorem exec_expansionStep_of_endStep {u : State} {x : Run} {raised : Prop} [Decidable raised]
    (expands : s.expands k = true) (step : s.stepRun k = (u.setRun k x).endStep k (decide raised))
    (runs : u.runs = s.runs) (state : x.state = s.runs[k].state) (queue : u.showUnit.queue = s.showUnit.queue)
    (figs : u.figs = s.figs) (recs : u.figRecs = s.figRecs) (calendar : u.calendar = s.calendar) :
    (raised → exec (.expansionStep k) s = .next { u with runs := s.runs.set k.val { x with zeroCount := 0 } }) ∧
    (¬raised → x.zeroCount < 255 → exec (.expansionStep k) s =
      .next { u with runs := s.runs.set k.val { x with zeroCount := x.zeroCount + 1 } }) ∧
    (¬raised → 255 ≤ x.zeroCount → exec (.expansionStep k) s = .next
      (s.judgeAfter (State.cancelRun { u with runs := s.runs.set k.val x } k .zeroTimeGuard))) := by
  have put : ∀ y : Run, { u with runs := s.runs.set k.val y k.isLt } = u.setRun k y := fun y => by rw [← runs]; rfl
  refine ⟨fun yes => ?_, fun no below => ?_, fun no limit => ?_⟩
  · rw [put, exec_expansionStep_of_step expands step, decide_eq_true yes, endStep_of_raised,
      judgeAfter_setRun _ runs (by exact state) queue figs recs calendar]
  · rw [put, exec_expansionStep_of_step expands step, decide_eq_false no, endStep_of_counted below,
      judgeAfter_setRun _ runs (by exact state) queue figs recs calendar]
  · rw [put, exec_expansionStep_of_step expands step, decide_eq_false no, endStep_of_guard limit]

end

/-- Settles O28: a REST row is a row done with its delta, and the guard ends it. -/
theorem restRow : Obligations.RestRow := by
  intro s k f fs delta expands stack inside at_
  have step := (stepRun_of_row stack inside at_).trans (finishRow_eq delta)
  rw [rowDone_eq _ stack] at step
  exact exec_expansionStep_of_endStep expands step rfl rfl rfl rfl rfl rfl

/-! NOTE rows (R85, R87). -/

/-- The planner changes the launch queue alone (R44). -/
theorem planStrike_leaves (q : StrikeRequest) : (planStrike s q).2 = { s with launch := (planStrike s q).2.launch } := by
  unfold planStrike
  split <;> rfl

theorem setRun_of_runs {u : State} (runs : u.runs = s.runs) (g : Run → Run) :
    u.modRun k g = u.setRun k (g s.runs[k]) := by rw [modRun_eq_setRun, runs]

/-- A note outside the bells is lost (R85). -/
theorem noteRow_of_outside {f : StackFrame} {bell : Fin 48} {velocity delta : Nat}
    (outside : (bell.val : Int) + f.transpose < 0 ∨ 47 < (bell.val : Int) + f.transpose) :
    s.noteRow k f bell velocity delta = (s.loseStrike k).finishRow k delta := if_pos outside

/-- The strike that a NOTE row asks for (R85). -/
def noteRequest (s : State) (k : Fin 4) (f : StackFrame) (bell : Fin 48) (velocity : Nat) : StrikeRequest :=
  { bell := ((bell.val : Int) + f.transpose).toNat, velocity := (velocity * f.scale + 32) / 64,
    time := .soundAt s.runs[k].soundNow, origin := .run k }

theorem noteRow_of_inside {f : StackFrame} {bell : Fin 48} {velocity delta : Nat}
    (inside : ¬((bell.val : Int) + f.transpose < 0 ∨ 47 < (bell.val : Int) + f.transpose)) :
    s.noteRow k f bell velocity delta =
      match (planStrike s (noteRequest s k f bell velocity)).1 with
      | .accepted => ((planStrike s (noteRequest s k f bell velocity)).2.modRun k
          (fun r => { r with planned := inc32 r.planned })).finishRow k delta
      | .refused .queueFull => (planStrike s (noteRequest s k f bell velocity)).2.modRun k
          (fun r => { r with paused := true, roomNotice := false })
      | .refused .bellInvalid => ((planStrike s (noteRequest s k f bell velocity)).2.loseStrike k).finishRow k delta
      | .refused .late => ((planStrike s (noteRequest s k f bell velocity)).2.loseStrike k).finishRow k delta
      | .refused .beyondHorizon => ((planStrike s (noteRequest s k f bell velocity)).2.loseStrike k).finishRow k delta
      | .ignored => (planStrike s (noteRequest s k f bell velocity)).2.finishRow k delta := if_neg inside

/-- Settles O29: the outcome of the planner decides which count rises, and the row is done unless the queue is full. -/
theorem noteRow : Obligations.NoteRow := by
  intro s k f fs bell velocity delta expands stack inside at_ r target sound p rowDone planned lost raised ends
  have step := stepRun_of_row stack inside at_
  have runs : p.2.runs = s.runs := (congrArg State.runs (planStrike_leaves (s := s) _)).trans rfl
  have queue : p.2.showUnit.queue = s.showUnit.queue := (congrArg (fun t => t.showUnit.queue) (planStrike_leaves (s := s) _)).trans rfl
  have figs : p.2.figs = s.figs := (congrArg State.figs (planStrike_leaves (s := s) _)).trans rfl
  have recs : p.2.figRecs = s.figRecs := (congrArg State.figRecs (planStrike_leaves (s := s) _)).trans rfl
  have calendar : p.2.calendar = s.calendar := (congrArg State.calendar (planStrike_leaves (s := s) _)).trans rfl
  have done : ∀ {u : State} {g : Run → Run}, u.runs = s.runs → (g r).stack = r.stack →
      (g r).position = r.position → (u.modRun k g).finishRow k delta =
        (u.setRun k (rowDone (g r))).endStep k (decide raised) := by
    intro u g same keeps stays
    rw [setRun_of_runs same, finishRow_setRun, rowDone_eq _ (keeps.trans stack), stays]
  have within : 0 ≤ target → target ≤ 47 → ¬(target < 0 ∨ 47 < target) := fun low high => by omega
  refine ⟨fun outside => ?_, fun low high accepted => ?_, fun low high refused => ?_, fun low high full => ?_⟩
  · exact exec_expansionStep_of_endStep expands
      ((step.trans (noteRow_of_outside outside)).trans (done rfl rfl rfl)) rfl rfl rfl rfl rfl rfl
  · refine exec_expansionStep_of_endStep expands ((step.trans (noteRow_of_inside (within low high))).trans ?_)
      runs rfl queue figs recs calendar
    have accepted' : (planStrike s (noteRequest s k f bell velocity)).1 = .accepted := accepted
    rw [accepted']
    exact done runs rfl rfl
  · refine exec_expansionStep_of_endStep expands ((step.trans (noteRow_of_inside (within low high))).trans ?_)
      runs rfl queue figs recs calendar
    have refused' : (planStrike s (noteRequest s k f bell velocity)).1 = .refused .bellInvalid ∨
      (planStrike s (noteRequest s k f bell velocity)).1 = .refused .late ∨
      (planStrike s (noteRequest s k f bell velocity)).1 = .refused .beyondHorizon := refused
    obtain e | e | e := refused' <;> rw [e] <;> exact done runs rfl rfl
  · have full' : (planStrike s (noteRequest s k f bell velocity)).1 = .refused .queueFull := full
    have paused : s.stepRun k = p.2.setRun k { r with paused := true, roomNotice := false } := by
      refine (step.trans (noteRow_of_inside (within low high))).trans ?_
      rw [full']
      exact setRun_of_runs runs _
    rw [exec_expansionStep_of_step expands paused, judgeAfter_setRun { r with paused := true, roomNotice := false }
      runs rfl queue figs recs calendar, ← runs]
    rfl

/-! NEST rows (R88, R89). -/

theorem rowDone_zero (r : Run) {f : StackFrame} {fs : List StackFrame} (stack : r.stack = f :: fs)
    (within : r.position ≤ 4294967295) :
    r.rowDone 0 = { r with stack := { f with nextRow := f.nextRow + 1 } :: fs } := by
  rw [rowDone_eq r stack, Nat.add_zero, Nat.min_eq_left within]

theorem finishRow_zero (x : Run) : (s.setRun k x).finishRow k 0 = (s.setRun k (x.rowDone 0)).endStep k false := by
  rw [finishRow_setRun]
  simp

/-- Settles O30: the three outcomes of a NEST row each end with the guard, P as it was. -/
theorem nestRow : Obligations.NestRow := by
  intro s k f fs motif times transpose scale expands stack inside at_ within r n done ends
  have step := stepRun_of_row stack inside at_
  have rowDone : r.rowDone 0 = done := rowDone_zero r stack within
  have ended : ∀ {x : Run}, x.state = r.state → x.zeroCount = r.zeroCount →
      s.stepRun k = (s.setRun k x).endStep k false → ends x := by
    intro x state zero e
    obtain ⟨-, counted, guard⟩ := exec_expansionStep_of_endStep (raised := False) expands e rfl state rfl rfl rfl rfl
    rw [zero] at counted guard
    exact ⟨counted id, guard id⟩
  have length : r.stack.length = (f :: fs).length := congrArg List.length stack
  refine ⟨fun none => ?_, fun some deep => ?_, fun some room => ?_⟩
  · refine ended rfl rfl (step.trans ((if_pos none).trans ?_))
    rw [← setRun_self (s := s) (k := k), finishRow_zero, setRun_self, rowDone]
  · refine ended rfl rfl (step.trans ((if_neg some).trans ((if_pos (by rw [length]; exact deep)).trans ?_)))
    rw [modRun_eq_setRun, finishRow_zero]
    exact congrArg (fun x => (s.setRun k x).endStep k false)
      (rowDone_zero { r with nestTooDeep := inc16 r.nestTooDeep } stack within)
  · refine ended rfl rfl (step.trans ((if_neg some).trans ((if_neg (by rw [length]; exact Nat.not_le.2 room)).trans ?_)))
    rw [modRun_eq_setRun]
    simp only [show s.runs[k].rowDone 0 = done from rowDone]
    rfl

/-! MARK rows and the end of a motif (R90, R92, R149). -/

theorem ended_eq_false_iff (p : Progress) : p.ended = false ↔ p = .notIssued ∨ p = .issued := by
  cases p <;> simp [Progress.ended]

theorem ended_iff (p : Progress) : p.ended = true ↔ p = .arrived ∨ p = .failed ∨ p = .unreached := by
  cases p <;> simp [Progress.ended]

theorem awaits_iff (r : Run) (m : Fin 16) : s.awaits r m = true ↔
    ∃ x ∈ (s.runMoves r).zip r.progress, x.1.arriveMark = some m ∧ (x.2 = .notIssued ∨ x.2 = .issued) := by
  simp [State.awaits, List.any_eq_true, ended_eq_false_iff]

/-- A step that does not raise P ends with the guard: counted, or the run cancelled (R91). -/
theorem endStep_guarded {u : State} {x : Run} (runs : u.runs = s.runs) :
    (x.zeroCount < 255 → (u.setRun k x).endStep k false =
      { u with runs := s.runs.set k.val { x with zeroCount := x.zeroCount + 1 } }) ∧
    (255 ≤ x.zeroCount → (u.setRun k x).endStep k false =
      State.cancelRun { u with runs := s.runs.set k.val x } k .zeroTimeGuard) := by
  rw [← runs]
  exact ⟨endStep_of_counted, endStep_of_guard⟩

/-- A MARK row's step, for a barrier that the awaited moves decide (R92). -/
theorem markRow_eq (m : Fin 16) {x : Run}
    (done : ({ s.runs[k].rowDone 0 with
      marks := s.runs[k].marks.set m.val (some s.runs[k].soundNow) m.isLt,
      barrier := if s.awaits s.runs[k] m then some { mark := m, time := s.runs[k].soundNow } else s.runs[k].barrier } :
        Run) = x) : s.markRow k m = ((s.setRun k x).endStep k false).judgeCursor k := by
  rw [← done]
  rfl

section

variable {f : StackFrame} {fs : List StackFrame}

theorem motifEnd_of_repeat (more : 1 < f.repeatsLeft) :
    s.motifEnd k f fs = (s.modRun k (fun r => { r with stack := { f with
      repeatsLeft := f.repeatsLeft - 1, nextRow := s.motifDirs[f.motif].firstRow } :: fs })).endStep k false :=
  if_pos more

theorem motifEnd_of_return (last : f.repeatsLeft ≤ 1) (below : fs ≠ []) :
    s.motifEnd k f fs = (s.modRun k (fun r => { r with stack := fs })).endStep k false :=
  (if_neg (Nat.not_lt.2 last)).trans (if_neg (by simpa using below))

theorem motifEnd_of_top (last : f.repeatsLeft ≤ 1) (top : fs = []) :
    s.motifEnd k f fs = ((s.enterDraining k).endStep k false).judgeCursor k :=
  (if_neg (Nat.not_lt.2 last)).trans (if_pos (by rw [top]; rfl))

end

/-- Settles O31: each of the four steps sets the run record once, and the guard ends it. -/
theorem markAndMotifEnd : Obligations.MarkAndMotifEnd := by
  intro s k f fs expands stack within r range sound guarded
  have guards : ∀ {u : State} {x : Run}, u.runs = s.runs → x.zeroCount = r.zeroCount →
      guarded u x ((u.setRun k x).endStep k false) := by
    intro u x runs zero
    have h := endStep_guarded (s := s) (k := k) (x := x) runs
    rw [zero] at h
    exact h
  refine ⟨?_, ?_, ?_, ?_⟩
  · intro m inside at_ outstanding marked barred
    have step : s.stepRun k = s.markRow k m := stepRun_of_row stack inside at_
    have rowDone := rowDone_zero r stack within
    refine ⟨fun some => ?_, fun none => ?_⟩
    · have awaits : s.awaits s.runs[k] m = true := (awaits_iff _ m).2 some
      refine ⟨_, exec_expansionStep_of_step expands (step.trans (markRow_eq m (x := barred) ?_)), guards rfl rfl⟩
      rw [rowDone, if_pos awaits]
      rfl
    · have awaits : ¬s.awaits s.runs[k] m = true := fun h => none ((awaits_iff _ m).1 h)
      refine ⟨_, exec_expansionStep_of_step expands (step.trans (markRow_eq m (x := marked) ?_)), guards rfl rfl⟩
      rw [rowDone, if_neg awaits]
      rfl
  · intro again end_ more
    exact ⟨_, exec_expansionStep_of_step expands ((stepRun_of_end stack end_).trans (motifEnd_of_repeat more)),
      guards rfl rfl⟩
  · intro end_ last below
    exact ⟨_, exec_expansionStep_of_step expands ((stepRun_of_end stack end_).trans (motifEnd_of_return last below)),
      guards rfl rfl⟩
  · intro end_ last top after progress missed counted
    have drains : s.enterDraining k = State.setRun { s with showUnit := counted } k
        { r with stack := [], state := .draining, progress := progress } := rfl
    refine ⟨_, exec_expansionStep_of_step expands ((stepRun_of_end stack end_).trans (motifEnd_of_top last top)), ?_⟩
    rw [drains]
    exact guards rfl rfl

/-! Resuming and completing (R84, R87, R95). -/

theorem expands_iff : s.expands k = true ↔ s.runs[k].state = .playing ∧ s.runs[k].barrier = none ∧
    s.runs[k].paused = false ∧ s.runs[k].soundNow ≤ s.clock.time + s.mgmt.settings.lookahead := by
  simp only [State.expands, Bool.and_eq_true, decide_eq_true_iff, Bool.not_eq_true', Option.isNone_iff_eq_none, and_assoc]
  exact Iff.rfl

theorem runCount_eq_zero_iff : s.runCount k = 0 ↔ ∀ e ∈ s.launch.waiting, e.origin ≠ .run k := by
  simp [State.runCount, List.countP_eq_zero]

theorem completes_iff : s.completes k = true ↔ s.runs[k].state = .draining ∧
    (∀ e ∈ s.launch.waiting, e.origin ≠ .run k) ∧
    ∀ p ∈ s.runs[k].progress, p = .arrived ∨ p = .failed ∨ p = .unreached := by
  simp [State.completes, and_assoc, runCount_eq_zero_iff, List.all_eq_true, ended_iff]

theorem raiseDone_of_show {r : Run} {w : Fin 32} (show_ : r.showId = some w) :
    s.raiseDone k r = s.raise .showDone k.val w.val := by
  unfold State.raiseDone
  rw [show_]

theorem raiseDone_of_motif {r : Run} (motif : r.showId = none) :
    s.raiseDone k r = s.raise .motifDone k.val (256 + r.topMotif.val) := by
  unfold State.raiseDone
  rw [motif]

theorem completeRun_of_completes (done : s.completes k = true) :
    s.completeRun k = ((s.modRun k (fun r => { r with state := .free })).raiseDone k s.runs[k]).releaseFigures k :=
  if_pos done

theorem completeRun_of_busy (busy : ¬s.completes k = true) : s.completeRun k = s := if_neg busy

/-- Settles O32: a row of a run whose condition does not hold leaves the state, and then nothing is judged either. -/
theorem runsResumeAndComplete : Obligations.RunsResumeAndComplete := by
  intro s k r resumed sound
  refine ⟨expands_iff, fun no => ?_, rfl, fun paused told => ?_, fun no => ?_, fun draining clear ended => ?_,
    fun no => ?_⟩
  · have idle : s.expand k = s := if_neg (by rw [no]; exact nofun)
    exact congrArg Host.Outcome.next ((congrArg s.judgeAfter idle).trans (judgeAfter_self s))
  · exact congrArg (fun u => Host.Outcome.next (s.judgeAfter u)) (if_pos (by simp [r] at paused told; simp [paused, told]))
  · have idle : s.resumeRun k = s := if_neg (by obtain h | h := no <;> simp [r] at h <;> simp [h])
    exact congrArg Host.Outcome.next ((congrArg s.judgeAfter idle).trans (judgeAfter_self s))
  · have done := completeRun_of_completes (completes_iff.2 ⟨draining, clear, ended⟩)
    refine ⟨fun w show_ => ?_, fun motif => ?_⟩
    · rw [raiseDone_of_show show_] at done
      exact congrArg (fun u => Host.Outcome.next (s.judgeAfter u)) done
    · rw [raiseDone_of_motif motif] at done
      exact congrArg (fun u => Host.Outcome.next (s.judgeAfter u)) done
  · have busy : ¬s.completes k = true := by
      rw [completes_iff]
      rintro ⟨draining, clear, ended⟩
      obtain h | ⟨e, m, h⟩ | ⟨p, m, h⟩ := no
      · exact h draining
      · exact clear e m h
      · obtain rfl | rfl := h <;> simpa using ended _ m
    exact congrArg Host.Outcome.next ((congrArg s.judgeAfter (completeRun_of_busy busy)).trans (judgeAfter_self s))

/-! Creation by a MOTIF_PLAY cue (R82, R94). -/

/-- The first index that a test picks. -/
theorem find?_indices {n : Nat} {p : Fin n → Bool} {i : Fin n} (yes : p i = true) (first : ∀ j < i, p j = false) :
    (indices n).find? p = some i := by
  refine List.find?_eq_some_iff_getElem.2 ⟨yes, i.val, by simp [indices], by simp [indices], fun j lt => ?_⟩
  simpa [indices] using first ⟨j, lt.trans i.isLt⟩ lt

theorem freeSlot_of_first (free : s.runs[k].state = .free) (first : ∀ j < k, s.runs[j].state ≠ .free) :
    s.freeSlot = some k :=
  find?_indices (decide_eq_true free) (fun j lt => decide_eq_false (first j lt))

theorem freeSlot_of_none (busy : ∀ k : Fin 4, s.runs[k].state ≠ .free) : s.freeSlot = none :=
  List.find?_eq_none.2 (fun k _ => by simpa using busy k)

theorem judgeCursor_of_no_moves (none : s.runMoves s.runs[k] = []) : s.judgeCursor k = s := by
  unfold State.judgeCursor
  dsimp only
  rw [none, List.drop_nil]
  exact ite_self _

/-- A motif run has no moves for its cursor, so its start is its first expansion step (R82). -/
theorem beginRun_of_motif (motif : s.runs[k].showId = none) : s.beginRun k = s.expand k := by
  unfold State.beginRun
  rw [judgeCursor_of_no_moves]
  unfold State.runMoves
  rw [motif]

/-- Settles O27: the first free slot takes the run, whose start is its first step. -/
theorem motifPlayCreatesARun : Obligations.MotifPlayCreatesARun := by
  intro s f m anchor tempo transpose scale count cued run read timed
  have timely : (Cue.motifPlay m.val anchor tempo transpose scale count).timed = false ∨ s.clock.state ≠ .unset :=
    timed.imp_left (fun h => by simp [Cue.timed, h])
  have carried : exec (.motifPlay f) s = .next (s.playMotif m.val anchor tempo transpose scale count) :=
    congrArg Host.Outcome.next (cueFrame_carried s f _ _ cued run read timely)
  refine ⟨fun k free first => ?_, fun busy => ?_⟩
  · intro run
    rw [carried]
    unfold State.playMotif
    rw [fin?_val, freeSlot_of_first free first]
    dsimp only
    rw [clamp_eq (by decide), clamp_eq (by decide), clampInt_eq (by decide), beginRun_of_motif]
    · rfl
    · rw [State.raise_runs, State.createRun, setRun_get]
      rfl
  · rw [carried]
    unfold State.playMotif
    rw [fin?_val, freeSlot_of_none busy]
    rfl

end

end Sys2Proof.Machine

/-! Shows: the requests of cues, the admission of the head, and the barriers of a run (R142 to R147, R150 to R152). -/

namespace Sys2Proof.Machine

section

variable {s : State} {k : Fin 4}

/-! Show requests (R142, R143). -/

theorem showInUse_iff (w : Fin 32) : s.showInUse w = true ↔
    (∃ q ∈ s.showUnit.queue, q.showId = w) ∨ ∃ k : Fin 4, s.runs[k].state ≠ .free ∧ s.runs[k].showId = some w := by
  simp [State.showInUse, indices, List.any_eq_true]

theorem requestTempo_eq (w : Fin 32) (tempo : Nat) :
    s.requestTempo w tempo = if tempo = 0 then s.shows[w].tempo else max 50 (min 200 tempo) := by
  rw [← clamp_eq (by decide)]
  rfl

theorem captureDrop_eq (w : Fin 32) (tempo : Nat) : s.captureDrop w tempo = { s with showUnit := { s.showUnit with
    capture := match s.showUnit.capture with
      | none => some (w, (s.shows[w].declaredLength * 100 + tempo / 2) / tempo)
      | some x => some x } } := by
  unfold State.captureDrop State.modShowUnit
  dsimp only
  cases h : s.showUnit.capture with
  | none => rfl
  | some x => dsimp only; rw [← h]

section

variable {w : Fin 32} {anchor tempo count : Nat}

theorem startShow_of_refused {r : ShowRefusal} (judge : s.judgeRequest w (s.requestTempo w tempo) = some r) :
    s.startShow w.val anchor tempo count =
      (s.refuseShow w (s.requestTempo w tempo) r).refuseCue r.reason 3 0 := by
  unfold State.startShow State.requestShow
  rw [fin?_val]
  dsimp only
  rw [judge]

theorem startShow_of_queued (judge : s.judgeRequest w (s.requestTempo w tempo) = none) :
    s.startShow w.val anchor tempo count = s.judgeAfter (s.joinShows
      { showId := w, count := count, tempo := s.requestTempo w tempo,
        anchor := if anchor = 0 then none else some (anchor : Int), origin := .cue, cyclesWaited := 0 }) := by
  unfold State.startShow State.requestShow
  rw [fin?_val]
  dsimp only
  rw [judge]

end

section

variable {w : Fin 32} {t : Nat}

theorem judgeRequest_of_disabled (off : s.shows[w].enabled = false) : s.judgeRequest w t = some .invalid := if_pos off

theorem judgeRequest_of_inUse (on : s.shows[w].enabled = true) (held : s.showInUse w = true) :
    s.judgeRequest w t = some .duplicate := (if_neg (by rw [on]; exact nofun)).trans (if_pos held)

theorem judgeRequest_of_unfit (on : s.shows[w].enabled = true) (spare : ¬s.showInUse w = true)
    (unfit : s.fitsActive w t = false) : s.judgeRequest w t = some .fitsNowhere :=
  (if_neg (by rw [on]; exact nofun)).trans ((if_neg spare).trans (if_pos unfit))

theorem judgeRequest_of_fit (on : s.shows[w].enabled = true) (spare : ¬s.showInUse w = true)
    (fit : s.fitsActive w t = true) :
    s.judgeRequest w t = if 8 ≤ s.showUnit.queue.length then some .queueFull else none :=
  (if_neg (by rw [on]; exact nofun)).trans ((if_neg spare).trans (if_neg (by rw [fit]; exact nofun)))

end

/-- What a bank's fit says of a show, with its gates written out (R143). -/
theorem opens_eq (need : GateNeed) (e : SchedEntry) : e.opens need = (match need with
    | .bells => decide (e.bellGate = .opened)
    | .figures => decide (e.figureGate = .opened)
    | .both => decide (e.bellGate = .opened) && decide (e.figureGate = .opened)) := by cases need <;> rfl

/-- Settles O33: the checks of a request in their order, and the fit of a bank by its stretches. -/
theorem showStartQueues : Obligations.ShowStartQueues := by
  refine ⟨fun s f w anchor tempo count cued run read timed => ?_, fun s w tempo => rfl, fun b need length => ?_⟩
  · intro t held u c joined counting captured
    have timely : (Cue.showStart w.val anchor tempo count).timed = false ∨ s.clock.state ≠ .unset :=
      timed.imp_left (fun h => by simp [Cue.timed, h])
    have carried : exec (.showStart f) s = .next (s.startShow w.val anchor tempo count) :=
      congrArg Host.Outcome.next (cueFrame_carried s f _ _ cued run read timely)
    have at_ : s.requestTempo w tempo = t := requestTempo_eq w tempo
    have refused : ∀ {r : ShowRefusal}, s.judgeRequest w t = some r →
        exec (.showStart f) s = .next ((s.refuseShow w t r).refuseCue r.reason 3 0) := by
      intro r judge
      rw [carried, startShow_of_refused (by rw [at_]; exact judge), at_]
    refine ⟨fun off => ?_, fun on inUse => ?_, fun on spare unfit => ?_, fun on spare fit full => ?_,
      fun on spare fit room => ?_⟩
    · exact refused (judgeRequest_of_disabled off)
    · exact refused (judgeRequest_of_inUse on ((showInUse_iff w).2 inUse))
    · refine (refused (judgeRequest_of_unfit on (fun h => spare ((showInUse_iff w).1 h)) unfit)).trans ?_
      show Host.Outcome.next (((s.modShowCounters (fun c => c.refuse .fitsNowhere)).captureDrop w t).raise _ _ _) = _
      rw [captureDrop_eq]
      rfl
    · refine refused (r := .queueFull) ?_
      rw [judgeRequest_of_fit on (fun h => spare ((showInUse_iff w).1 h)) fit, if_pos full]
    · rw [carried, startShow_of_queued, at_]
      · rfl
      · rw [at_, judgeRequest_of_fit on (fun h => spare ((showInUse_iff w).1 h)) fit, if_neg (Nat.not_le.2 room)]
  · intro entries opens ends spans
    have same : ∀ e : SchedEntry, e.opens need = opens e := opens_eq need
    have h := Bank.fits_iff b need length
    simp only [same] at h
    exact h

/-! The admission of the head (R144 to R146). -/

/-- The figures of a list of moves become owned, each healthy one once (R146). -/
theorem ownEach_eq (k : Fin 4) (ms : List MoveEntry) (u : State) :
    ms.foldl (fun t m => if t.healthy m.figure then t.modFig m.figure (fun x => { x with owner := some k }) else t) u =
      { u with figs := Vector.ofFn (fun x : Fin 16 =>
        if u.healthy x = true ∧ ∃ m ∈ ms, m.figure = x then { u.figs[x] with owner := some k } else u.figs[x]) } := by
  induction ms generalizing u with
  | nil =>
    have same : u.figs = Vector.ofFn (fun x : Fin 16 => u.figs[x]) := by ext i h; simp
    simp only [List.foldl_nil, List.not_mem_nil, false_and, exists_false, and_false, if_false]
    rw [← same]
  | cons m ms ih =>
    rw [List.foldl_cons, ih]
    by_cases well : u.healthy m.figure = true
    · rw [if_pos well]
      have healthy : ∀ x, (u.modFig m.figure (fun x => { x with owner := some k })).healthy x = u.healthy x := by
        intro x
        unfold State.healthy
        rw [State.modFig_figRecs, State.modFig_get]
        split
        · next h => rw [h]
        · rfl
      refine congrArg (fun v => { u with figs := v }) (congrArg Vector.ofFn (funext fun x => ?_))
      rw [healthy, State.modFig_get]
      by_cases same : x = m.figure
      · rw [if_pos same, same]
        simp [well]
      · simp [same, Ne.symm same]
    · rw [if_neg well]
      refine congrArg (fun v => { u with figs := v }) (congrArg Vector.ofFn (funext fun x => ?_))
      by_cases same : m.figure = x
      · simp [← same, well]
      · simp [same]

theorem healthy_iff (x : Fin 16) : s.healthy x = true ↔
    s.figRecs[x].enabled = true ∧ s.figs[x].state ≠ .fault ∧ s.figs[x].state ≠ .unhomed := by
  simp [State.healthy, and_assoc]

theorem met_iff {need : GateNeed} {bells figures : Bool} : need.met bells figures = true ↔
    match (motive := GateNeed → Prop) need with
    | .bells => bells = true
    | .figures => figures = true
    | .both => bells = true ∧ figures = true := by cases need <;> simp [GateNeed.met]

theorem calendar_bellsOpen_iff (c : Calendar) : c.bellsOpen = true ↔ c.listBells = .opened ∧ c.override = none := by
  simp [Calendar.bellsOpen]

theorem calendar_figuresOpen_iff (c : Calendar) :
    c.figuresOpen = true ↔ c.listFigures = .opened ∧ ∀ o, c.override = some o → o.level ≠ .all := by
  unfold Calendar.figuresOpen Calendar.quietAll
  cases c.override <;> simp

theorem leadReached_iff : s.leadReached = true ↔ ∃ e ∈ s.calendar.activeBank.used, ∃ te : Int,
    (te = s.calendar.cycleStart + e.offset ∨ te = s.calendar.cycleStart + e.offset + s.calendar.activeBank.cycle) ∧
    s.calendar.leadsTaken < te - 300 ∧ te - 300 ≤ s.clock.time := by
  unfold State.leadReached
  simp only [List.any_eq_true, List.mem_cons, List.not_mem_nil, or_false, decide_eq_true_iff]
  exact Iff.rfl

/-- Settles O36: one judgement of the head, the checks of R144 and the events of R145. -/
theorem headsAreAdmitted : Obligations.HeadsAreAdmitted := by
  refine ⟨fun s q rest queue => ?_, fun s empty => congrArg Host.Outcome.next (judgeHead_of_empty s empty), fun s q => ?_,
    fun s => ?_, fun before after => ?_⟩
  · intro w start
    refine ⟨fun yes k free first => ?_, fun no => congrArg Host.Outcome.next (judgeHead_of_blocked s q rest queue no)⟩
    intro run u admitted owned begun
    refine congrArg Host.Outcome.next ((judgeHead_of_admissible s q rest k queue yes (freeSlot_of_first free first)).trans ?_)
    refine congrArg State.judgeHead ?_
    unfold State.admitTo State.ownFigures
    dsimp only
    rw [ownEach_eq, State.modShowUnit, queue]
    rfl
  · intro w c bank entries start length position met opens inForce
    refine ⟨?_, rfl, healthy_iff, calendar_bellsOpen_iff c, calendar_figuresOpen_iff c, leadReached_iff⟩
    have metIff : ∀ a b : Bool, w.need.met a b = true ↔ met (a = true) (b = true) := fun a b => met_iff
    have opensIff : ∀ e : SchedEntry, e.opens w.need = true ↔ opens e := by
      intro e
      refine (metIff _ _).trans ?_
      simp only [decide_eq_true_eq]
      exact Iff.rfl
    rw [admissible_iff, freeSlot_isSome_iff, figuresReady_iff, openOver_iff]
    refine and_congr_right fun _ => and_congr_right fun _ => and_congr_right fun _ =>
      and_congr (metIff _ _) (and_congr ?_ ?_)
    · exact forall_congr' fun e => imp_congr_right fun _ => opensIff e
    · exact forall_congr' fun n => forall_congr' fun e => imp_congr_right fun _ => imp_congr_right fun _ =>
        imp_congr_right fun _ => opensIff e
  · refine ⟨fun yes => congrArg Host.Outcome.next (if_pos yes), fun no => ?_⟩
    exact congrArg Host.Outcome.next (if_neg (by rw [no]; exact nofun))
  · intro head freed judged
    have events := headEvent_iff before after
    refine ⟨fun yes => congrArg Host.Outcome.next ?_, fun no => judgeAfter_of_none _ _ ?_⟩
    · exact (if_pos (events.2 yes)).symm
    · exact Bool.eq_false_iff.2 (fun h => no (events.1 h))

/-! Barriers (R150 to R152). -/

/-- The run record set, no slot freed by it: nothing that the head is judged for. -/
theorem judgeAfter_setRun_of_busy (x : Run) (busy : x.state ≠ .free) : s.judgeAfter (s.setRun k x) = s.setRun k x := by
  refine judgeAfter_of_none _ _ (Bool.eq_false_iff.2 (fun h => ?_))
  obtain h | ⟨j, was, is⟩ | ⟨y, h | h | h⟩ | h | h := (headEvent_iff _ _).1 h
  · exact h rfl
  · by_cases same : j = k
    · rw [same, setRun_get] at is
      exact busy is
    · rw [setRun_other x same] at is
      exact was is
  · exact h.1 h.2
  · exact h.2 rfl
  · exact Bool.noConfusion (h.1.symm.trans h.2)
  · exact h rfl
  · exact h rfl

theorem ended_iff_not_awaits (r : Run) (m : Fin 16) : (∀ x ∈ (s.runMoves r).zip r.progress, x.1.arriveMark = some m →
    x.2 = .arrived ∨ x.2 = .failed ∨ x.2 = .unreached) ↔ s.awaits r m = false := by
  rw [← Bool.not_eq_true, awaits_iff]
  simp only [not_exists, not_and]
  refine forall_congr' fun x => imp_congr_right fun _ => imp_congr_right fun _ => ?_
  cases x.2 <;> simp

section

variable {b : Barrier}

theorem clearBarrier_of_awaited (barrier : s.runs[k].barrier = some b) (awaits : s.awaits s.runs[k] b.mark = true) :
    s.clearBarrier k = s := by
  have stays : ¬s.barrierClears k = true := by
    unfold State.barrierClears
    rw [barrier]
    simp only [awaits]
    simp
  unfold State.clearBarrier
  rw [barrier]
  exact if_neg stays

theorem clearBarrier_of_ended (barrier : s.runs[k].barrier = some b) (ended : s.awaits s.runs[k] b.mark = false)
    (state : s.runs[k].state = .playing ∨ s.runs[k].state = .holding) :
    s.clearBarrier k = (s.setRun k (s.runs[k].endBarrier b s.now)).beginRun k := by
  have clears : s.barrierClears k = true := by
    unfold State.barrierClears
    rw [barrier]
    simp only [ended, Bool.not_false, Bool.and_true, Bool.or_eq_true, decide_eq_true_eq]
    exact state
  unfold State.clearBarrier
  rw [barrier]
  exact if_pos clears

/-- A hold released at its deadline: the run goes on, LATE_FIGURE tells of it, and the run begins again (R152). -/
theorem releaseHold_of_due (barrier : s.runs[k].barrier = some b) (holding : s.runs[k].state = .holding)
    (due : b.time + s.graceOf s.runs[k] ≤ s.now) :
    s.releaseHold k = ((((s.setRun k (s.runs[k].endBarrier b s.now)).modShowCounters
      (fun c => { c with lateFigure := inc32 c.lateFigure })).raise .lateFigure k.val
        (256 * b.mark.val + s.runs[k].eventId)).beginRun k) := by
  unfold State.releaseHold
  rw [barrier]
  exact if_pos ⟨holding, due⟩

theorem releaseHold_of_early (barrier : s.runs[k].barrier = some b)
    (early : ¬(s.runs[k].state = .holding ∧ b.time + s.graceOf s.runs[k] ≤ s.now)) : s.releaseHold k = s := by
  unfold State.releaseHold
  rw [barrier]
  exact if_neg early

theorem reachBarrier_of_reached (barrier : s.runs[k].barrier = some b)
    (reached : s.runs[k].state = .playing ∧ b.time ≤ s.now) : s.reachBarrier k =
      if s.graceOf s.runs[k] = 0 then (s.setRun k { s.runs[k] with state := .holding }).releaseHold k
      else s.setRun k { s.runs[k] with state := .holding } := by
  unfold State.reachBarrier
  rw [barrier]
  exact if_pos reached

theorem reachBarrier_of_early (barrier : s.runs[k].barrier = some b)
    (early : ¬(s.runs[k].state = .playing ∧ b.time ≤ s.now)) : s.reachBarrier k = s := by
  unfold State.reachBarrier
  rw [barrier]
  exact if_neg early

theorem endBarrier_of_holding {r : Run} {now : Int} (holding : r.state = .holding) :
    r.endBarrier b now = { r with
      anchor := r.anchor + (now - b.time), marks := r.marks.set b.mark.val (some now) b.mark.isLt,
      holdTotal := min (r.holdTotal + (now - b.time).toNat) 4294967295, barrier := none, state := .playing } :=
  if_pos holding

theorem endBarrier_of_playing {r : Run} {now : Int} (playing : r.state = .playing) :
    r.endBarrier b now = { r with barrier := none } := if_neg (by rw [playing]; exact nofun)

end

/-- The grace in ms, as a length of show time. -/
theorem graceOf_cast (r : Run) : (match r.showId with
    | some w => (s.shows[w].grace : Int)
    | none => 0) = (s.graceOf r : Int) := by
  unfold State.graceOf
  cases r.showId <;> rfl

/-- Settles O37: the barrier reached, cleared and overdue, each with the start of the run that follows it. -/
theorem barriersHoldAndClear : Obligations.BarriersHoldAndClear := by
  refine ⟨fun s k b barrier => ?_, fun s k => ⟨_, rfl, rfl, rfl⟩⟩
  intro r now released ended grace counters setRun late id overdue
  have graceIs : grace = (s.graceOf r : Int) := graceOf_cast r
  rw [graceIs]
  have endedIff : ended ↔ s.awaits r b.mark = false := ended_iff_not_awaits r b.mark
  have idle : ∀ {u : State}, u = s → Host.Outcome.next (s.judgeAfter u) =
      (Host.Outcome.next s : Host.Outcome State Fault Refusal) := by
    rintro u rfl
    rw [judgeAfter_self]
  refine ⟨fun playing reached some => ?_, fun playing reached none => ?_, fun early => ?_, fun playing done => ?_,
    fun holding done => ?_, fun open_ => ?_, fun holding due => ?_, fun early => ?_⟩
  · have step := reachBarrier_of_reached barrier ⟨playing, reached⟩
    rw [if_neg (Nat.pos_iff_ne_zero.1 (Int.natCast_pos.1 some))] at step
    exact congrArg Host.Outcome.next ((congrArg s.judgeAfter step).trans (judgeAfter_setRun_of_busy _ (by exact nofun)))
  · have step := reachBarrier_of_reached barrier ⟨playing, reached⟩
    rw [if_pos (Int.natCast_eq_zero.1 none)] at step
    have due : b.time + (s.graceOf s.runs[k] : Int) ≤ s.now := by
      rw [show (s.graceOf s.runs[k] : Int) = 0 from none, Int.add_zero]
      exact reached
    rw [releaseHold_of_due (b := b) (by rw [setRun_get]; exact barrier) (by rw [setRun_get])
      (by rw [setRun_get]; exact due), setRun_get, setRun_setRun, endBarrier_of_holding rfl] at step
    exact congrArg (fun u => Host.Outcome.next (s.judgeAfter u)) step
  · refine idle (reachBarrier_of_early barrier ?_)
    rintro ⟨playing, reached⟩
    obtain h | h := early
    · exact h playing
    · exact absurd reached (Int.not_le.2 h)
  · have step := clearBarrier_of_ended barrier (endedIff.1 done) (.inl playing)
    rw [endBarrier_of_playing playing] at step
    exact congrArg (fun u => Host.Outcome.next (s.judgeAfter u)) step
  · have step := clearBarrier_of_ended barrier (endedIff.1 done) (.inr holding)
    rw [endBarrier_of_holding holding] at step
    exact congrArg (fun u => Host.Outcome.next (s.judgeAfter u)) step
  · exact idle (clearBarrier_of_awaited barrier (Bool.not_eq_false _ ▸ fun h => open_ (endedIff.2 h)))
  · have step := releaseHold_of_due barrier holding due
    rw [endBarrier_of_holding holding] at step
    exact congrArg (fun u => Host.Outcome.next (s.judgeAfter u)) step
  · refine idle (releaseHold_of_early barrier ?_)
    rintro ⟨holding, due⟩
    obtain h | h := early
    · exact h holding
    · exact absurd due (Int.not_le.2 h)

end

end Sys2Proof.Machine

/-! What an operation on one figure leaves of the rest: the other figures, the zones they hold, the runs but for the
progress of their moves, the STOPs already asked, and the events already raised (R103 to R123). -/

namespace Sys2Proof.Machine

section

variable {s t u : State}

/-- A STOP of the board's list has the figure as an owner. -/
def State.stopAsked (s : State) (b : Fin 32) (x : Fin 16) : Prop :=
  ∃ c ∈ s.boards[b].commands, c.op = .stop ∧ x ∈ c.owners

/-- What stays while runs are cancelled and moves withdrawn: the clock, the tables, the calendar, the strike account,
the presence of boards and the STOPs asked; and the management unit is only offered events. -/
structure Backdrop (s t : State) : Prop where
  clock : t.clock = s.clock
  written : t.written = s.written
  calendar : t.calendar = s.calendar
  account : t.strikeAccount = s.strikeAccount
  presence : ∀ b : Fin 32, t.boards[b].presence = s.boards[b].presence
  stops : ∀ b x, s.stopAsked b x → t.stopAsked b x
  offers : ∃ es : List EventRecord, t.mgmt = es.foldl Management.offer s.mgmt

theorem Backdrop.refl (s : State) : Backdrop s s := ⟨rfl, rfl, rfl, rfl, fun _ => rfl, fun _ _ h => h, [], rfl⟩

theorem Backdrop.trans (h : Backdrop s t) (k : Backdrop t u) : Backdrop s u := by
  obtain ⟨es, first⟩ := h.offers
  obtain ⟨fs, second⟩ := k.offers
  refine ⟨k.clock.trans h.clock, k.written.trans h.written, k.calendar.trans h.calendar, k.account.trans h.account,
    fun b => (k.presence b).trans (h.presence b), fun b x a => k.stops b x (h.stops b x a), es ++ fs, ?_⟩
  rw [second, first, List.foldl_append]

theorem Backdrop.figRecs (h : Backdrop s t) : t.figRecs = s.figRecs := congrArg Written.figRecs h.written
theorem Backdrop.boardRecs (h : Backdrop s t) : t.boardRecs = s.boardRecs := congrArg Written.boardRecs h.written
theorem Backdrop.shows (h : Backdrop s t) : t.shows = s.shows := congrArg Written.shows h.written
theorem Backdrop.moves (h : Backdrop s t) : t.moves = s.moves := congrArg Written.moves h.written

/-- An edit that the backdrop does not show. -/
theorem Backdrop.of_same (clock : t.clock = s.clock) (written : t.written = s.written)
    (calendar : t.calendar = s.calendar) (account : t.strikeAccount = s.strikeAccount) (boards : t.boards = s.boards)
    (mgmt : t.mgmt = s.mgmt) : Backdrop s t :=
  ⟨clock, written, calendar, account, fun b => by rw [boards],
    fun b x a => by rw [State.stopAsked, boards]; exact a, [], mgmt⟩

theorem backdrop_raise (s : State) (k : EventKind) (a b : Int) : Backdrop s (s.raise k a b) :=
  ⟨rfl, congrArg (fun x => { s.written with settings := x }) (by
      show (s.mgmt.offer _).settings = s.mgmt.settings
      unfold Management.offer
      split
      · rfl
      · split <;> rfl), rfl, rfl, fun _ => rfl, fun _ _ h => h, [_], rfl⟩

/-! The board unit's requests. -/

@[simp] theorem placeFrame_boards (s : State) (b : Fin 32) (id : Nat) : (s.placeFrame b id).boards = s.boards := by
  unfold State.placeFrame; split <;> rfl

@[simp] theorem fillPlaces_boards (n : Nat) (s : State) : (s.fillPlaces n).boards = s.boards := by
  induction n generalizing s with
  | zero => rfl
  | succ n ih =>
    unfold State.fillPlaces
    split
    · rfl
    · rw [ih, placeFrame_boards]

@[simp] theorem fillQueue_boards (s : State) : s.fillQueue.boards = s.boards := fillPlaces_boards _ s

theorem modBoard_self (b : Fin 32) (g : BoardState → BoardState) : (s.modBoard b g).boards[b] = g s.boards[b] := by
  simp [State.modBoard, State.setBoard]

theorem modBoard_other (g : BoardState → BoardState) {b d : Fin 32} (ne : d ≠ b) :
    (s.modBoard b g).boards[d] = s.boards[d] := by
  have ne' : b.val ≠ d.val := fun h => ne (Fin.ext h.symm)
  simp [State.modBoard, State.setBoard, ne']

/-- One board's list changed, the STOPs in it kept with their owners. -/
theorem stopAsked_modBoard {b : Fin 32} {g : BoardState → BoardState}
    (keeps : ∀ c ∈ s.boards[b].commands, c.op = .stop → ∀ x ∈ c.owners,
      ∃ d ∈ (g s.boards[b]).commands, d.op = .stop ∧ x ∈ d.owners) (d : Fin 32) (x : Fin 16)
    (asked : s.stopAsked d x) : (s.modBoard b g).stopAsked d x := by
  obtain ⟨c, mem, stop, owner⟩ := asked
  unfold State.stopAsked
  by_cases same : d = b
  · subst same
    rw [modBoard_self]
    exact keeps c mem stop x owner
  · rw [modBoard_other g same]
    exact ⟨c, mem, stop, owner⟩

theorem mem_insertStop {x c : Command} {l : List Command} : c ∈ insertStop x l ↔ c = x ∨ c ∈ l := by
  induction l with
  | nil => simp [insertStop]
  | cons d ds ih =>
    unfold insertStop
    split
    · simp
    · simp only [List.mem_cons, ih]
      tauto

theorem mem_addOwner {ch : Option (Fin 4)} {o : Option (Fin 16)} {c : Command} {l : List Command} (mem : c ∈ l) :
    ∃ d ∈ addOwner ch o l, d.op = c.op ∧ ∀ x ∈ c.owners, x ∈ d.owners := by
  induction l with
  | nil => exact absurd mem List.not_mem_nil
  | cons a l ih =>
    unfold addOwner
    obtain rfl | later := List.mem_cons.1 mem
    · split
      · exact ⟨_, List.mem_cons_self, rfl, fun x h => List.mem_append_left _ h⟩
      · exact ⟨c, List.mem_cons_self, rfl, fun x h => h⟩
    · split
      · exact ⟨c, List.mem_cons_of_mem _ later, rfl, fun x h => h⟩
      · obtain ⟨d, mem, op, owners⟩ := ih later
        exact ⟨d, List.mem_cons_of_mem _ mem, op, owners⟩

/-- The first STOP that serves the channel takes the owner. -/
theorem addOwner_owns {ch : Option (Fin 4)} {x : Fin 16} {l : List Command}
    (serves : l.any (Command.servesStop ch) = true) :
    ∃ d ∈ addOwner ch (some x) l, d.op = .stop ∧ x ∈ d.owners := by
  induction l with
  | nil => simp at serves
  | cons a l ih =>
    unfold addOwner
    split
    · next h =>
      have stop : a.op = .stop := by
        simp only [Command.servesStop, Bool.and_eq_true] at h
        exact (isStop_iff _).1 h.1.1.2
      exact ⟨_, List.mem_cons_self, stop, by simp⟩
    · next h =>
      have later : l.any (Command.servesStop ch) = true := by simpa [h] using serves
      obtain ⟨d, mem, op⟩ := ih later
      exact ⟨d, List.mem_cons_of_mem _ mem, op⟩

theorem withdrawCommands_boards (s : State) (b : Fin 32) (p : Command → Bool) : (s.withdrawCommands b p).boards =
    (s.modBoard b (fun t => { t with commands := t.commands.filter (fun c => !p c) })).boards := rfl

theorem joinCommands_boards (s : State) (b : Fin 32) (op : CommandOp) (ch : Option (Fin 4)) (o : Option (Fin 16)) :
    (s.joinCommands b op ch o).boards = (s.modBoard b (fun t => { t with
      commands := if op.isStop then insertStop (newCommand s.boardUnit.nextId op ch o) t.commands
        else t.commands ++ [newCommand s.boardUnit.nextId op ch o] })).boards := by
  unfold State.joinCommands
  rw [fillQueue_boards]
  rfl

theorem stopAsked_congr (boards : t.boards = s.boards) (b : Fin 32) (x : Fin 16) : t.stopAsked b x ↔ s.stopAsked b x := by
  unfold State.stopAsked
  rw [boards]

theorem mem_joined {op : CommandOp} {n : Command} {c : Command} {l : List Command} (mem : c = n ∨ c ∈ l) :
    c ∈ (if op.isStop then insertStop n l else l ++ [n]) := by
  split
  · exact mem_insertStop.2 mem
  · exact List.mem_append.2 (mem.symm.imp_right List.mem_singleton.2)

theorem stopAsked_joinCommands {b : Fin 32} {op : CommandOp} {ch : Option (Fin 4)} {o : Option (Fin 16)} {d : Fin 32}
    {x : Fin 16} (asked : s.stopAsked d x) : (s.joinCommands b op ch o).stopAsked d x := by
  refine (stopAsked_congr (joinCommands_boards s b op ch o) d x).2 (stopAsked_modBoard ?_ d x asked)
  exact fun c mem stop y owner => ⟨c, mem_joined (.inr mem), stop, owner⟩

theorem stopAsked_withdrawCommands {b : Fin 32} {p : Command → Bool} (moves : ∀ c, c.op = .stop → p c = false)
    {d : Fin 32} {x : Fin 16} (asked : s.stopAsked d x) : (s.withdrawCommands b p).stopAsked d x := by
  refine (stopAsked_congr (withdrawCommands_boards s b p) d x).2 (stopAsked_modBoard ?_ d x asked)
  exact fun c mem stop y owner => ⟨c, List.mem_filter.2 ⟨mem, by rw [moves c stop]; rfl⟩, stop, owner⟩

/-- A STOP withdraws no STOP (R128). -/
theorem yieldsTo_of_stop (ch : Option (Fin 4)) (c : Command) (stop : c.op = .stop) : c.yieldsTo ch = false := by
  simp [Command.yieldsTo, stop, CommandOp.isMoveOrHome]

theorem stopAsked_requestCommand {b : Fin 32} {op : CommandOp} {ch : Option (Fin 4)} {o : Option (Fin 16)} {d : Fin 32}
    {x : Fin 16} (asked : s.stopAsked d x) : (s.requestCommand b op ch o).1.stopAsked d x := by
  unfold State.requestCommand
  split
  · exact asked
  · split
    · have left := stopAsked_withdrawCommands (b := b) (yieldsTo_of_stop ch) asked
      dsimp only
      split
      · refine stopAsked_modBoard ?_ d x left
        intro c mem stop y owner
        obtain ⟨e, mem, op, owners⟩ := mem_addOwner mem
        exact ⟨e, mem, op.trans stop, owners y owner⟩
      · exact stopAsked_joinCommands left
    · exact stopAsked_joinCommands asked

/-- A STOP that the board takes has the figure that asked as an owner (R128). -/
theorem stopAsked_of_request {b : Fin 32} {ch : Option (Fin 4)} {x : Fin 16} (there : s.boards[b].presence ≠ .absent) :
    (s.requestCommand b .stop ch (some x)).1.stopAsked b x := by
  unfold State.requestCommand
  rw [if_neg there, if_pos (show CommandOp.stop.isStop = true from rfl)]
  dsimp only
  split
  · next serves =>
    unfold State.stopAsked
    rw [modBoard_self]
    exact addOwner_owns serves
  · refine (stopAsked_congr (joinCommands_boards _ _ _ _ _) b x).2 ?_
    unfold State.stopAsked
    rw [modBoard_self]
    refine ⟨newCommand (s.withdrawCommands b (Command.yieldsTo ch)).boardUnit.nextId .stop ch (some x), ?_, rfl,
      List.mem_singleton.2 rfl⟩
    exact mem_joined (op := .stop) (.inl rfl)

@[simp] theorem withdrawCommands_presence (s : State) (b : Fin 32) (p : Command → Bool) (d : Fin 32) :
    (s.withdrawCommands b p).boards[d].presence = s.boards[d].presence := by
  rw [withdrawCommands_boards]
  by_cases same : d = b
  · rw [same, modBoard_self]
  · rw [modBoard_other _ same]

@[simp] theorem joinCommands_presence (s : State) (b : Fin 32) (op : CommandOp) (ch : Option (Fin 4))
    (o : Option (Fin 16)) (d : Fin 32) : (s.joinCommands b op ch o).boards[d].presence = s.boards[d].presence := by
  rw [joinCommands_boards]
  by_cases same : d = b
  · rw [same, modBoard_self]
  · rw [modBoard_other _ same]

@[simp] theorem requestCommand_presence (s : State) (b : Fin 32) (op : CommandOp) (ch : Option (Fin 4))
    (o : Option (Fin 16)) (d : Fin 32) : (s.requestCommand b op ch o).1.boards[d].presence = s.boards[d].presence := by
  unfold State.requestCommand
  split
  · rfl
  · split
    · dsimp only
      split
      · by_cases same : d = b
        · rw [same, modBoard_self]
          exact withdrawCommands_presence s b _ b
        · rw [modBoard_other _ same, withdrawCommands_presence]
      · rw [joinCommands_presence, withdrawCommands_presence]
    · rw [joinCommands_presence]

theorem backdrop_requestCommand (s : State) (b : Fin 32) (op : CommandOp) (ch : Option (Fin 4)) (o : Option (Fin 16)) :
    Backdrop s (s.requestCommand b op ch o).1 := by
  have off := offBoards_requestCommand s b op ch o
  exact ⟨off.clock, (made_requestCommand b op ch o (Made.refl s)).written, off.calendar, off.strikeAccount,
    requestCommand_presence s b op ch o, fun _ _ h => stopAsked_requestCommand h, [], off.mgmt⟩

/-! Steps of one figure. -/

/-- An operation on the figure: nothing of the others changes, and of the runs only the progress of their moves. -/
structure FigStep (f : Fin 16) (s t : State) : Prop where
  backdrop : Backdrop s t
  others : ∀ y : Fin 16, y ≠ f → t.figs[y] = s.figs[y]
  zones : ∀ z : Fin 24, t.zones[z] = s.zones[z] ∨ (s.zones[z] = some f ∧ t.zones[z] = none)
  runs : ∀ j : Fin 4, ∃ p, t.runs[j] = { s.runs[j] with progress := p }
  launch : t.launch = s.launch
  showUnit : t.showUnit = s.showUnit

variable {f : Fin 16}

theorem FigStep.refl (f : Fin 16) (s : State) : FigStep f s s :=
  ⟨.refl s, fun _ _ => rfl, fun _ => .inl rfl, fun _ => ⟨_, rfl⟩, rfl, rfl⟩

theorem FigStep.trans (h : FigStep f s t) (k : FigStep f t u) : FigStep f s u := by
  refine ⟨h.backdrop.trans k.backdrop, fun y ne => (k.others y ne).trans (h.others y ne), fun z => ?_, fun j => ?_,
    k.launch.trans h.launch, k.showUnit.trans h.showUnit⟩
  · obtain same | ⟨held, gone⟩ := k.zones z
    · rw [same]
      exact h.zones z
    · obtain same | ⟨_, gone'⟩ := h.zones z
      · exact .inr ⟨same ▸ held, gone⟩
      · exact absurd (gone'.symm.trans held) nofun
  · obtain ⟨p, first⟩ := h.runs j
    obtain ⟨q, second⟩ := k.runs j
    exact ⟨q, by rw [second, first]⟩

/-- Zones of other figures stay. -/
theorem FigStep.keepsZone (h : FigStep f s t) {z : Fin 24} {x : Fin 16} (ne : x ≠ f) (held : s.zones[z] = some x) :
    t.zones[z] = some x := by
  obtain same | ⟨mine, -⟩ := h.zones z
  · rw [same, held]
  · exact absurd (Option.some.inj (held.symm.trans mine)) ne

theorem FigStep.zone_none (h : FigStep f s t) {z : Fin 24} (open_ : s.zones[z] = none) : t.zones[z] = none := by
  obtain same | ⟨-, gone⟩ := h.zones z
  · rw [same, open_]
  · exact gone

theorem FigStep.runState (h : FigStep f s t) (j : Fin 4) : t.runs[j].state = s.runs[j].state := by
  obtain ⟨p, same⟩ := h.runs j
  rw [same]

@[simp] theorem figStep_modFig (g : Figure → Figure) (h : FigStep f s t) : FigStep f s (t.modFig f g) :=
  h.trans ⟨.of_same rfl rfl rfl rfl rfl rfl, fun y ne => modFig_figs_other t f y g ne, fun _ => .inl rfl,
    fun _ => ⟨_, rfl⟩, rfl, rfl⟩

@[simp] theorem figStep_raise (k : EventKind) (a b : Int) (h : FigStep f s t) : FigStep f s (t.raise k a b) :=
  h.trans ⟨backdrop_raise t k a b, fun _ _ => rfl, fun _ => .inl rfl, fun _ => ⟨_, rfl⟩, rfl, rfl⟩

@[simp] theorem figStep_requestCommand (b : Fin 32) (op : CommandOp) (ch : Option (Fin 4)) (o : Option (Fin 16))
    (h : FigStep f s t) : FigStep f s (t.requestCommand b op ch o).1 := by
  have off := offBoards_requestCommand t b op ch o
  exact h.trans ⟨backdrop_requestCommand t b op ch o, fun _ _ => by rw [off.figs], fun _ => .inl (by rw [off.zones]),
    fun _ => ⟨_, by rw [off.runs]⟩, off.launch, off.showUnit⟩

@[simp] theorem figStep_releaseZones (keep : List (Fin 24)) (h : FigStep f s t) :
    FigStep f s (t.releaseZones f keep) := by
  refine h.trans ⟨?_, fun _ _ => by simp [State.releaseZones], fun z => ?_, fun _ => ⟨_, by simp [State.releaseZones]; rfl⟩,
    by simp [State.releaseZones], by simp [State.releaseZones]⟩
  · exact .of_same (by simp [State.releaseZones]) (by simp [State.releaseZones, State.written])
      (by simp [State.releaseZones]) (by simp [State.releaseZones]) (by simp [State.releaseZones])
      (by simp [State.releaseZones])
  · have released : (t.releaseZones f keep).zones[z] =
        if t.zones[z] = some f && !keep.contains z then none else t.zones[z] := by simp [State.releaseZones]
    rw [released]
    split
    · next h =>
      simp only [Bool.and_eq_true, decide_eq_true_eq] at h
      exact .inr ⟨h.1, rfl⟩
    · exact .inl rfl

@[simp] theorem figStep_recordOutcome (k : Fin 4) (i : Nat) (p : Progress) (h : FigStep f s t) :
    FigStep f s (t.recordOutcome k i p) := by
  unfold State.recordOutcome
  split
  · exact h
  · refine h.trans ⟨.of_same rfl rfl rfl rfl rfl rfl, fun _ _ => rfl, fun _ => .inl rfl, fun j => ?_, rfl, rfl⟩
    by_cases same : j = k
    · subst same
      exact ⟨_, setRun_get _⟩
    · exact ⟨_, setRun_other _ same⟩

@[simp] theorem figStep_askStop (h : FigStep f s t) : FigStep f s (t.askStop f).1 := by
  unfold State.askStop; simp [h]

@[simp] theorem figStep_keepResting (h : FigStep f s t) : FigStep f s (t.keepResting f) := figStep_releaseZones _ h
@[simp] theorem figStep_restFigure (h : FigStep f s t) : FigStep f s (t.restFigure f) := figStep_modFig _ h
@[simp] theorem figStep_releaseCurrent (h : FigStep f s t) : FigStep f s (t.releaseCurrent f) := figStep_modFig _ h
@[simp] theorem figStep_enterWaitZone (h : FigStep f s t) : FigStep f s (t.enterWaitZone f) := figStep_modFig _ h

@[simp] theorem figStep_endMove (m : Move) (a : Bool) (h : FigStep f s t) : FigStep f s (t.endMove f m a) := by
  unfold State.endMove; dsimp only; split <;> simp (maxDischargeDepth := 20) [h]

@[simp] theorem figStep_failCurrent (h : FigStep f s t) : FigStep f s (t.failCurrent f) := by
  unfold State.failCurrent
  split
  · split <;> simp (maxDischargeDepth := 20) [h]
  · exact h

@[simp] theorem figStep_failNext (h : FigStep f s t) : FigStep f s (t.failNext f) := by
  unfold State.failNext; split <;> simp (maxDischargeDepth := 20) [h]

@[simp] theorem figStep_stopFaulted (h : FigStep f s t) : FigStep f s (t.stopFaulted f) := by
  unfold State.stopFaulted; dsimp only; split <;> simp (maxDischargeDepth := 20) [h]

@[simp] theorem figStep_enterFault (c : FaultCause) (h : FigStep f s t) : FigStep f s (t.enterFault f c) := by
  unfold State.enterFault
  dsimp only
  split
  · exact h
  · split <;> simp (maxDischargeDepth := 20) [h]

@[simp] theorem figStep_stopFigure (e : StopEnd) (h : FigStep f s t) : FigStep f s (t.stopFigure f e) := by
  unfold State.stopFigure; dsimp only; split <;> simp (maxDischargeDepth := 20) [h]

@[simp] theorem figStep_beginMove (m : Move) (h : FigStep f s t) : FigStep f s (t.beginMove f m) := by
  unfold State.beginMove; dsimp only; split <;> simp (maxDischargeDepth := 20) [h]

@[simp] theorem figStep_takeNextSlot (m : Move) (h : FigStep f s t) : FigStep f s (t.takeNextSlot f m) := by
  unfold State.takeNextSlot; split <;> simp (maxDischargeDepth := 20) [h]

@[simp] theorem figStep_takeMove (m : Move) (h : FigStep f s t) : FigStep f s (t.takeMove f m) := by
  unfold State.takeMove
  dsimp only
  split
  · simp (maxDischargeDepth := 20) [h]
  · cases t.figs[f].state with
    | idle => dsimp only; split <;> simp (maxDischargeDepth := 20) [h]
    | _ => simp (maxDischargeDepth := 20) [h]

@[simp] theorem figStep_requestMove (target pct : Nat) (w : Way) (q : Requester) (h : FigStep f s t) :
    FigStep f s (t.requestMove f target pct w q) := figStep_takeMove _ h

@[simp] theorem figStep_takeWaiting (h : FigStep f s t) : FigStep f s (t.takeWaiting f) := by
  unfold State.takeWaiting; split <;> simp (maxDischargeDepth := 20) [h]

@[simp] theorem figStep_withdrawCurrent (h : FigStep f s t) : FigStep f s (t.withdrawCurrent f) := by
  unfold State.withdrawCurrent; split <;> simp (maxDischargeDepth := 20) [h]

@[simp] theorem figStep_takeAtRest (h : FigStep f s t) : FigStep f s (t.takeAtRest f) := by
  unfold State.takeAtRest; split <;> simp (maxDischargeDepth := 20) [h]

@[simp] theorem figStep_withdrawRunFrom (k : Fin 4) (h : FigStep f s t) : FigStep f s (t.withdrawRunFrom k f) := by
  unfold State.withdrawRunFrom
  dsimp only
  split <;> split <;> simp (maxDischargeDepth := 20) [h]

@[simp] theorem figStep_withdrawLiveFrom (h : FigStep f s t) : FigStep f s (t.withdrawLiveFrom f) := by
  unfold State.withdrawLiveFrom
  dsimp only
  repeat' split
  all_goals simp (maxDischargeDepth := 20) [h]

/-! The cursor of a run (R148). -/

theorem moveStartTime_of_free {k : Fin 4} (free : s.runs[k].state = .free) : s.judgeCursor k = s := if_pos free

theorem judgeCursor_of_busy {k : Fin 4} (busy : s.runs[k].state ≠ .free) : s.judgeCursor k =
    State.judgeFrom k ((s.runMoves s.runs[k]).drop s.runs[k].cursor) s.runs[k].cursor s := if_neg busy

/-- The cursor judged from the move that a step has left it at. -/
theorem judgeFrom_eq_judgeCursor {k : Fin 4} {ms : List MoveEntry} {i : Nat} (busy : u.runs[k].state ≠ .free)
    (cursor : u.runs[k].cursor = i) (moves : (u.runMoves u.runs[k]).drop i = ms) :
    State.judgeFrom k ms i u = u.judgeCursor k := by
  rw [judgeCursor_of_busy busy, cursor, moves]

theorem runMoves_congr (shows : t.shows = s.shows) (moves : t.moves = s.moves) {r q : Run} (showId : q.showId = r.showId) :
    t.runMoves q = s.runMoves r := by
  unfold State.runMoves State.movesOf
  rw [shows, moves, showId]

theorem cursorWaits_of_unmarked {r : Run} {m : MoveEntry} {now : Int} (none : r.marks[m.startMark] = none) :
    r.cursorWaits m now = true := by
  unfold Run.cursorWaits
  rw [none]

theorem cursorWaits_of_marked {r : Run} {m : MoveEntry} {now t : Int} (mark : r.marks[m.startMark] = some t) :
    r.cursorWaits m now = true ↔ (∃ b, r.barrier = some b ∧ b.mark = m.startMark) ∨ now < t + m.startDelay := by
  unfold Run.cursorWaits
  rw [mark]
  cases r.barrier <;> simp

/-- Settles O38: the cursor's move passed, waiting, failed or issued, and the cursor judged from the next one. -/
theorem cursorIssuesMoves : Obligations.CursorIssuesMoves := by
  intro s k r
  refine ⟨fun idle => ?_, fun m ms busy at_ => ?_⟩
  · obtain free | done := idle
    · exact congrArg Host.Outcome.next (moveStartTime_of_free free)
    · refine congrArg Host.Outcome.next ?_
      unfold State.judgeCursor
      dsimp only
      rw [done]
      exact ite_self _
  · intro goesOn barred failed issued
    have judged : s.judgeCursor k = State.judgeFrom k (m :: ms) r.cursor s := by
      rw [judgeCursor_of_busy busy, at_]
    have rest : (s.runMoves r).drop (r.cursor + 1) = ms := by
      rw [← List.drop_drop, at_]
      rfl
    have goes : ∀ {v : State}, s.judgeCursor k = State.judgeFrom k ms (r.cursor + 1) v →
        v.runs[k].state ≠ .free → v.runs[k].cursor = r.cursor + 1 → v.runMoves v.runs[k] = s.runMoves r → goesOn v := by
      intro v step busy cursor moves
      refine ⟨State.judgeFrom k ms (r.cursor + 1) v, congrArg Host.Outcome.next step, ?_, fun none => by rw [none]; rfl⟩
      exact congrArg Host.Outcome.next (judgeFrom_eq_judgeCursor busy cursor (by rw [moves, rest])).symm
    refine ⟨fun passed => ?_, fun pending unmarked => ?_, fun t pending mark => ⟨fun waits => ?_,
      fun open_ due strange => ?_, fun open_ due owned => ?_⟩⟩
    · refine goes (v := s.setRun k { r with cursor := r.cursor + 1 }) (judged.trans (if_pos passed)) ?_ ?_ ?_ <;>
        rw [setRun_get]
      · exact busy
      · rfl
    · refine congrArg Host.Outcome.next (judged.trans ((if_neg (not_not.2 pending)).trans (if_pos ?_)))
      exact cursorWaits_of_unmarked unmarked
    · refine congrArg Host.Outcome.next (judged.trans ((if_neg (not_not.2 pending)).trans (if_pos ?_)))
      exact (cursorWaits_of_marked mark).2 waits
    all_goals
      have ready : ¬s.runs[k].cursorWaits m s.now = true := by
        rw [cursorWaits_of_marked mark]
        rintro (h | h)
        · exact open_ h
        · exact absurd due (Int.not_le.2 h)
      have step := judged.trans ((if_neg (not_not.2 pending)).trans (if_neg ready))
    · have fails : s.issueMove k r.cursor m = s.recordOutcome k r.cursor .failed := if_neg strange
      have set_ : s.recordOutcome k r.cursor .failed =
          s.setRun k { r with progress := r.progress.set r.cursor .failed } := if_neg busy
      rw [fails, set_, modRun_setRun] at step
      refine goes (v := s.setRun k failed) step ?_ ?_ ?_ <;> rw [setRun_get]
      · exact busy
      · rfl
    · have issues : s.issueMove k r.cursor m = (s.recordOutcome k r.cursor .issued).requestMove m.figure m.target
        m.speedPercent m.way (.run k r.cursor) := if_pos owned
      have set_ : s.recordOutcome k r.cursor .issued = s.setRun k issued := if_neg busy
      rw [issues, set_] at step
      have fig := figStep_requestMove (f := m.figure) m.target m.speedPercent m.way (.run k r.cursor)
        (FigStep.refl m.figure (s.setRun k issued))
      obtain ⟨p, run⟩ := fig.runs k
      rw [setRun_get] at run
      refine goes (v := ((s.setRun k issued).requestMove m.figure m.target m.speedPercent m.way
        (.run k r.cursor)).modRun k (fun x => { x with cursor := r.cursor + 1 })) step ?_ ?_ ?_ <;>
        rw [modRun_eq_setRun, setRun_get, run]
      · exact busy
      · exact runMoves_congr fig.backdrop.shows fig.backdrop.moves rfl

end

end Sys2Proof.Machine

/-! Moves taken, homings and cleared faults (R103, R105, R119, R120, R122). -/

namespace Sys2Proof.Machine

section

variable {s t u : State} {x : Fin 16}

/-! One figure's record set. -/

theorem setFig_get (y : Figure) : (s.setFig x y).figs[x] = y := by simp [State.setFig]

theorem setFig_setFig (y z : Figure) : (s.setFig x y).setFig x z = s.setFig x z := by
  simp [State.setFig, Vector.set_set]

theorem setFig_other (y : Figure) {w : Fin 16} (ne : w ≠ x) : (s.setFig x y).figs[w] = s.figs[w] := by
  have ne' : x.val ≠ w.val := fun h => ne (Fin.ext h.symm)
  simp [State.setFig, ne']

theorem modFig_eq_setFig (g : Figure → Figure) : s.modFig x g = s.setFig x (g s.figs[x]) := rfl

theorem modFig_setFig (y : Figure) (g : Figure → Figure) : (s.setFig x y).modFig x g = s.setFig x (g y) := by
  rw [modFig_eq_setFig, setFig_get, setFig_setFig]

theorem modFig_modFig (g h : Figure → Figure) : (s.modFig x g).modFig x h = s.setFig x (h (g s.figs[x])) := by
  rw [modFig_eq_setFig (s := s), modFig_setFig]

theorem modFig_raise (k : EventKind) (a b : Int) (g : Figure → Figure) :
    (s.raise k a b).modFig x g = (s.modFig x g).raise k a b := rfl

theorem setFig_self : s.setFig x s.figs[x] = s := by
  have same : s.figs.set x.val s.figs[x] x.isLt = s.figs := by
    refine Vector.ext (fun j _ => ?_)
    rw [Vector.getElem_set]
    split
    · next h => subst h; rfl
    · rfl
  unfold State.setFig
  rw [same]

/-! What a figure does with a move (R105). -/

/-- The figure's record and board can take a move. -/
def State.canMove (s : State) (x : Fin 16) : Prop :=
  s.figRecs[x].enabled = true ∧ s.boardRecs[s.figRecs[x].board].enabled = true ∧
    s.boardRecs[s.figRecs[x].board].kind = .motion

theorem canMove_iff : s.canMove x ↔
    ¬(!s.figRecs[x].enabled || !s.boardRecs[s.figRecs[x].board].isMotion) = true := by
  unfold State.canMove BoardRec.isMotion
  simp

theorem takeMove_of_unable (m : Move) (unable : ¬s.canMove x) : s.takeMove x m = s.endMove x m false :=
  if_pos (not_not.1 (fun h => unable (canMove_iff.2 h)))

theorem takeMove_of_able (m : Move) (able : s.canMove x) : s.takeMove x m = match s.figs[x].state with
    | .idle => if atTarget s.figRecs[x] m.goal s.figs[x].position then s.endMove x m true else s.beginMove x m
    | .waitZone => s.takeNextSlot x m
    | .waitSupply => s.takeNextSlot x m
    | .starting => s.takeNextSlot x m
    | .moving => s.takeNextSlot x m
    | .held => s.takeNextSlot x m
    | .unhomed => s.endMove x m false
    | .homing => s.endMove x m false
    | .stopping => s.endMove x m false
    | .fault => s.endMove x m false := if_neg (canMove_iff.1 able)

theorem takeMove_of_there (m : Move) (able : s.canMove x) (idle : s.figs[x].state = .idle)
    (there : atTarget s.figRecs[x] m.goal s.figs[x].position = true) : s.takeMove x m = s.endMove x m true := by
  rw [takeMove_of_able m able, idle]
  exact if_pos there

theorem takeMove_of_idle (m : Move) (able : s.canMove x) (idle : s.figs[x].state = .idle)
    (away : atTarget s.figRecs[x] m.goal s.figs[x].position = false) : s.takeMove x m = s.beginMove x m := by
  rw [takeMove_of_able m able, idle]
  exact if_neg (by rw [away]; exact nofun)

/-- A figure that is neither at rest nor out of use keeps the move for later. -/
theorem takeMove_of_busy (m : Move) (able : s.canMove x) (busy : s.figs[x].state ≠ .idle ∧ s.figs[x].state ≠ .unhomed ∧
    s.figs[x].state ≠ .homing ∧ s.figs[x].state ≠ .stopping ∧ s.figs[x].state ≠ .fault) :
    s.takeMove x m = s.takeNextSlot x m := by
  rw [takeMove_of_able m able]
  obtain ⟨idle, unhomed, homing, stopping, fault⟩ := busy
  cases h : s.figs[x].state <;> simp_all

theorem beginMove_of_open (m : Move) (gate : s.calendar.figuresOpen = true) : s.beginMove x m = s.setFig x { s.figs[x] with
    state := .waitZone, current := some m, waitStart := some s.clock.time, waitUsed := 0,
    needed := neededZones s.figRecs[x] m.goal s.figs[x].position,
    resolvedWay := goalWay s.figRecs[x] m.goal s.figs[x].position } := by
  unfold State.beginMove
  dsimp only
  rw [if_pos gate]
  exact modFig_modFig _ _

theorem beginMove_of_closed (m : Move) (gate : s.calendar.figuresOpen = false) : s.beginMove x m = s.setFig x { s.figs[x] with
    state := .held, current := some m, waitStart := none, waitUsed := 0 } := by
  unfold State.beginMove
  dsimp only
  rw [if_neg (by rw [gate]; exact nofun), modFig_modFig]

theorem takeNextSlot_of_empty (m : Move) (empty : s.figs[x].nextMove = none) :
    s.takeNextSlot x m = s.setFig x { s.figs[x] with nextMove := some m } := by
  unfold State.takeNextSlot
  rw [empty]
  rfl

theorem takeNextSlot_of_full (m : Move) {old : Move} (full : s.figs[x].nextMove = some old) :
    s.takeNextSlot x m = (s.endMove x old false).modFig x (fun y => { y with
      nextMove := some m, moveReplaced := inc16 y.moveReplaced }) := by
  unfold State.takeNextSlot
  rw [full]

theorem endMove_of_cue (m : Move) (arrived : Bool) (live : m.requester = .cue) : s.endMove x m arrived =
    (s.modFig x (fun y => if arrived then { y with movesArrived := inc16 y.movesArrived }
      else { y with movesFailed := inc16 y.movesFailed })).raise .liveMoveDone x.val (if arrived then 1 else 0) := by
  unfold State.endMove
  dsimp only
  rw [live]

theorem workingForm_eq (r : FigRec) (target pct : Nat) (w : Way) : workingForm r target pct w = .go (match r.kind with
    | .linear => clamp r.softLo r.softHi target
    | .rotary => target % r.span) (max 1 (min 100 pct)) w := by
  exact congrArg (fun n => MoveGoal.go _ n w) (clamp_eq (lo := 1) (hi := 100) (by decide))

theorem refusesLive_eq_false_iff (st : FigState) : st.refusesLive = false ↔
    st ≠ .unhomed ∧ st ≠ .homing ∧ st ≠ .stopping ∧ st ≠ .fault := by
  cases st <;> simp [FigState.refusesLive]

section

variable {target pct : Nat} {w : Way}

theorem goFigure_of_disabled (off : s.figRecs[x].enabled = false) :
    s.goFigure x.val target pct w = s.refuseCue .figureInvalid 5 0 := by
  unfold State.goFigure
  rw [fin?_val]
  exact if_pos off

/-- A figure that is owned, or in a state that takes no live move, refuses it (R122). -/
theorem goFigure_of_enabled (on : s.figRecs[x].enabled = true) : s.goFigure x.val target pct w =
    if s.figs[x].owner = none ∧ s.figs[x].state ≠ .unhomed ∧ s.figs[x].state ≠ .homing ∧ s.figs[x].state ≠ .stopping ∧
      s.figs[x].state ≠ .fault
    then s.takeMove x { goal := workingForm s.figRecs[x] target pct w, requester := .cue, withdrawn := false }
    else s.refuseCue .figureBusy 5 0 := by
  unfold State.goFigure
  rw [fin?_val]
  dsimp only
  rw [if_neg (by rw [on]; exact nofun)]
  have free : (s.figs[x].owner.isSome || s.figs[x].state.refusesLive) = true ↔ ¬(s.figs[x].owner = none ∧
      s.figs[x].state ≠ .unhomed ∧ s.figs[x].state ≠ .homing ∧ s.figs[x].state ≠ .stopping ∧ s.figs[x].state ≠ .fault) := by
    rw [← refusesLive_eq_false_iff, ← Option.not_isSome_iff_eq_none, Bool.or_eq_true, ← Bool.not_eq_true]
    tauto
  by_cases h : (s.figs[x].owner.isSome || s.figs[x].state.refusesLive) = true
  · rw [if_pos h, if_neg (free.1 h)]
  · rw [if_neg h, if_pos (not_not.1 (fun k => h (free.2 k)))]
    rfl

end

/-- Settles O39: the checks of a live move, and what a free figure does with it by its state. -/
theorem liveMovesAreTaken : Obligations.LiveMovesAreTaken := by
  intro s f x target pct w cued run read fig r goal move able taken free fresh
  have carried : exec (.figureGo f) s = .next (s.goFigure x.val target pct w) :=
    congrArg Host.Outcome.next (cueFrame_carried s f _ _ cued run read (.inl rfl))
  have form : ({ goal := workingForm s.figRecs[x] target pct w, requester := .cue, withdrawn := false } : Move) = move :=
    congrArg (fun g => ({ goal := g, requester := .cue, withdrawn := false } : Move)) (workingForm_eq _ target pct w)
  have takes : r.enabled = true → free → exec (.figureGo f) s = .next (s.takeMove x move) := by
    intro on idle
    rw [carried, goFigure_of_enabled on, if_pos idle, form]
  refine ⟨fun off => ?_, fun on busy => ?_, fun on idle unable => ?_, fun ok gate => ?_, fun ok gate => ?_,
    fun idle ok rest there => ?_, fun idle ok rest empty => ?_, fun old idle ok rest full live => ?_⟩
  · rw [carried, goFigure_of_disabled off]
    rfl
  · rw [carried, goFigure_of_enabled on, if_neg busy]
    rfl
  · rw [takes on idle, takeMove_of_unable move unable, endMove_of_cue move false rfl]
    rfl
  · obtain ⟨idle, ok, rest, away⟩ := ok
    rw [takes ok.1 idle, takeMove_of_idle move ok rest away, beginMove_of_open move gate]
    rfl
  · obtain ⟨idle, ok, rest, away⟩ := ok
    rw [takes ok.1 idle, takeMove_of_idle move ok rest away, beginMove_of_closed move gate]
    rfl
  · rw [takes ok.1 idle, takeMove_of_there move ok rest there, endMove_of_cue move true rfl]
    rfl
  · rw [takes ok.1 idle, takeMove_of_busy move ok ⟨rest, idle.2⟩, takeNextSlot_of_empty move empty]
    rfl
  · rw [takes ok.1 idle, takeMove_of_busy move ok ⟨rest, idle.2⟩, takeNextSlot_of_full move full,
      endMove_of_cue old false live, modFig_raise, modFig_modFig]
    rfl

/-! Requests answered (R20, R171). -/

/-- A request that can be read has its tag and code echoed, so its response is formed the same after it. -/
theorem requestFrame_answers {f : List Byte} {r : RequestRow} {q : Request} {a : Reply} (reached : s.reaches f r = true)
    (read : readRequest (framePayload f) = some q) (out : carryOut q s = (a, u)) (node : u.node = s.node) :
    s.requestFrame f r = u.respond f a := by
  have long := readRequest_length _ _ read
  have echoed : s.echoed (framePayload f) = u.echoed (framePayload f) := by
    obtain ⟨b, c, rest, e⟩ : ∃ b c rest, framePayload f = b :: c :: rest := by
      match framePayload f, long with
      | b :: c :: rest, _ => exact ⟨b, c, rest, rfl⟩
    rw [e]
    rfl
  rw [requestFrame_reached s f r q reached read, out, State.respond]
  unfold State.responseFrame
  rw [echoed, node]

/-- Steps of other figures, for a figure and the zones it holds. -/
structure Apart (x : Fin 16) (s t : State) : Prop where
  backdrop : Backdrop s t
  fig : t.figs[x] = s.figs[x]
  held : ∀ z : Fin 24, t.zones[z] = some x ↔ s.zones[z] = some x
  free : ∀ z : Fin 24, s.zones[z] = none → t.zones[z] = none

theorem Apart.refl (x : Fin 16) (s : State) : Apart x s s := ⟨.refl s, rfl, fun _ => Iff.rfl, fun _ h => h⟩

theorem Apart.trans (h : Apart x s t) (k : Apart x t u) : Apart x s u :=
  ⟨h.backdrop.trans k.backdrop, k.fig.trans h.fig, fun z => (k.held z).trans (h.held z), fun z e => k.free z (h.free z e)⟩

theorem FigStep.apart {y : Fin 16} (h : FigStep y s t) (ne : x ≠ y) : Apart x s t := by
  refine ⟨h.backdrop, h.others x ne, fun z => ⟨fun held => ?_, h.keepsZone ne⟩, fun z => h.zone_none⟩
  obtain same | ⟨-, gone⟩ := h.zones z
  · rw [← same, held]
  · exact absurd (gone.symm.trans held) nofun

section

variable {g : State → Fin 16 → State} (step : ∀ (v : State) (y : Fin 16), FigStep y v (g v y))
include step

/-- Steps over figures that are not `x`. -/
theorem foldl_apart {l : List (Fin 16)} (away : x ∉ l) (v : State) : Apart x v (l.foldl g v) := by
  induction l generalizing v with
  | nil => exact .refl x v
  | cons y l ih =>
    obtain ⟨ne, away⟩ : x ≠ y ∧ x ∉ l := by simpa using away
    exact ((step v y).apart ne).trans (ih away _)

/-- A pass over figures comes to the step of `x` from a state where nothing of `x` has changed, and leaves it as that
step leaves it. -/
theorem foldl_at {l : List (Fin 16)} (once : l.Nodup) (mem : x ∈ l) (v : State) :
    ∃ w, Apart x v w ∧ Apart x (g w x) (l.foldl g v) := by
  induction l generalizing v with
  | nil => exact absurd mem List.not_mem_nil
  | cons y l ih =>
    obtain ⟨away, once⟩ := List.nodup_cons.1 once
    obtain rfl | later := List.mem_cons.1 mem
    · exact ⟨v, .refl x v, foldl_apart step away _⟩
    · have ne : x ≠ y := fun h => away (h ▸ later)
      obtain ⟨w, first, rest⟩ := ih once later (g v y)
      exact ⟨w, ((step v y).apart ne).trans first, rest⟩

end

/-! Faults cleared (R119). -/

theorem unhome_eq (x : Fin 16) : s.unhome x = { s with
    figs := s.figs.set x.val { s.figs[x] with state := .unhomed, position := none, faultCause := none },
    zones := s.zones.map (fun h => if h = some x then none else h) } := by
  have zones : Vector.ofFn (fun z : Fin 24 => if s.zones[z] = some x && !([] : List (Fin 24)).contains z then none
      else s.zones[z]) = s.zones.map (fun h => if h = some x then none else h) := by
    ext i h
    simp
  unfold State.unhome State.releaseZones State.setZones
  rw [zones]
  rfl

theorem unhome_of_same {u : State} (x : Fin 16) (figs : s.figs = u.figs) (zones : s.zones = u.zones) :
    u.unhome x = { u with
      figs := s.figs.set x.val { s.figs[x] with state := .unhomed, position := none, faultCause := none },
      zones := s.zones.map (fun h => if h = some x then none else h) } := by
  rw [unhome_eq, figs, zones]

/-- A figure cleared: CLEAR_FAULT asked of a board that is not ABSENT, and the figure UNHOMED with no zone (R119). -/
theorem clearFigure_eq (x : Fin 16) {b : Fin 32} {ch : Fin 4} (board : s.figRecs[x].board = b)
    (channel : s.figRecs[x].channel = ch) : s.clearFigure x =
    { (if s.boards[b].presence = .absent then s else s.joinCommands b .clearFault (some ch) (some x)) with
      figs := s.figs.set x.val { s.figs[x] with state := .unhomed, position := none, faultCause := none },
      zones := s.zones.map (fun h => if h = some x then none else h) } := by
  unfold State.clearFigure State.requestCommand
  rw [board, channel]
  split
  · exact unhome_of_same x rfl rfl
  · have off := offBoards_joinCommands s b .clearFault (some ch) (some x)
    rw [if_neg (show ¬CommandOp.clearFault.isStop = true from nofun)]
    exact unhome_of_same x off.figs.symm off.zones.symm

theorem clearFigure_fig (x : Fin 16) :
    (s.clearFigure x).figs[x] = { s.figs[x] with state := .unhomed, position := none, faultCause := none } := by
  rw [clearFigure_eq x rfl rfl]
  simp

theorem clearFigure_zone (x : Fin 16) (z : Fin 24) : (s.clearFigure x).zones[z] ≠ some x := by
  rw [clearFigure_eq x rfl rfl]
  simp

theorem figStep_clearFigure (v : State) (y : Fin 16) : FigStep y v (v.clearFigure y) := by
  unfold State.clearFigure State.unhome
  exact figStep_modFig _ (figStep_releaseZones _ (figStep_requestCommand _ _ _ _ (.refl y v)))

theorem clearable_iff (y : Figure) : y.clearable = true ↔ y.state = .fault ∧ y.admitted = none := by
  simp [Figure.clearable]

section

variable {l : List (Fin 16)}

theorem clearFigures_of_some (some_ : ∃ y ∈ l, s.figs[y].clearable = true) : s.clearFigures l =
    (.ok, (l.filter (fun y => s.figs[y].clearable)).foldl (fun t y => t.judgeAfter (t.clearFigure y)) s) :=
  if_pos (List.any_eq_true.2 some_)

theorem clearFigures_of_held (none_ : ∀ y ∈ l, s.figs[y].clearable = false) (fault : ∃ y ∈ l, s.figs[y].state = .fault) :
    s.clearFigures l = (.busy, s) :=
  (if_neg (by simpa using none_)).trans (if_pos (by simpa using fault))

theorem clearFigures_of_well (well : ∀ y ∈ l, s.figs[y].state ≠ .fault) : s.clearFigures l = (.wrongState, s) := by
  refine (if_neg ?_).trans (if_neg ?_)
  · simp only [List.any_eq_true, not_exists, not_and]
    exact fun y mem h => well y mem ((clearable_iff _).1 h).1
  · simpa using well

end

theorem faultClear_figure (run : s.mgmt.engine = .run) : s.faultClear 0 x.val = s.clearFigures [x] := by
  unfold State.faultClear
  rw [if_neg (by rw [running_iff.2 run]; exact nofun), if_pos rfl, fin?_val]

theorem faultClear_board (b : Fin 32) (run : s.mgmt.engine = .run) : s.faultClear 1 b.val = s.clearFigures (s.figuresOf b) := by
  unfold State.faultClear
  rw [if_neg (by rw [running_iff.2 run]; exact nofun), if_neg (by decide), if_pos rfl, fin?_val]

theorem config_not_running (config : s.mgmt.engine = .config) : s.running = false := by
  simp [State.running, config]

theorem made_clearJudge (v : State) (y : Fin 16) : Made v (v.judgeAfter (v.clearFigure y)) :=
  made_judgeAfter v (made_clearFigure y (Made.refl v))

/-- Two folds whose steps agree where the figure records are those of the start, which the steps keep. -/
theorem foldl_congr_figRecs {g h : State → Fin 16 → State}
    (same : ∀ (t : State) (y : Fin 16), t.figRecs = s.figRecs → g t y = h t y)
    (keeps : ∀ (t : State) (y : Fin 16), (g t y).figRecs = t.figRecs) (l : List (Fin 16)) {t : State}
    (start : t.figRecs = s.figRecs) : l.foldl g t = l.foldl h t := by
  induction l generalizing t with
  | nil => rfl
  | cons y l ih =>
    rw [List.foldl_cons, List.foldl_cons, ← same t y start]
    exact ih ((keeps t y).trans start)

theorem mem_figuresOf (b : Fin 32) (y : Fin 16) : y ∈ s.figuresOf b ↔ s.figRecs[y].board = b := by
  simp [State.figuresOf, indices]

/-- With no show queued nothing is judged between the figures cleared. -/
theorem foldl_clear_of_empty (l : List (Fin 16)) {v : State} (empty : v.showUnit.queue = []) :
    l.foldl (fun t y => t.judgeAfter (t.clearFigure y)) v = l.foldl State.clearFigure v := by
  induction l generalizing v with
  | nil => rfl
  | cons y l ih =>
    have still : (v.clearFigure y).showUnit.queue = [] :=
      (congrArg ShowUnit.queue (figStep_clearFigure v y).showUnit).trans empty
    rw [List.foldl_cons, List.foldl_cons, judgeAfter_of_empty _ _ still]
    exact ih still

/-- Settles O40: each request's checks in order, its effect, and the answer. -/
theorem homingsAndFaultsAreManaged : Obligations.HomingsAndFaultsAreManaged := by
  refine ⟨fun s f x reached read => ?_, fun s f x reached read => ?_, fun s f b reached read run => ?_,
    fun s f scope index run => ⟨fun reached read out => ?_, fun reached read => ⟨fun out => ?_, fun out => ?_⟩⟩⟩
  · intro fig r able move taken
    have answer : ∀ {st : Status} {u : State}, s.homeFigure x.val = (st, u) → u.node = s.node →
        exec (.figureHome f) s = .next (u.respond f (Reply.plain st)) := by
      intro st u out node
      refine congrArg Host.Outcome.next (requestFrame_answers reached read ?_ node)
      exact congrArg plainReply out
    have ableIff : s.canHome x = true ↔ able := by
      simp [State.canHome, BoardRec.isMotion, and_assoc, able, fig, r]
    have home : s.mgmt.engine = .run → s.homeFigure x.val = if s.canHome x = false then (.wrongState, s)
        else if s.figs[x].owner.isSome then (.busy, s) else (.ok, s.beginHoming x) := by
      intro run
      unfold State.homeFigure
      rw [if_neg (by rw [running_iff.2 run]; exact nofun), fin?_val]
    have ready : s.mgmt.engine = .run → able → fig.owner = none → s.homeFigure x.val = (.ok, s.beginHoming x) := by
      intro run ok free
      rw [home run, if_neg (by rw [ableIff.2 ok]; exact nofun), if_neg (by rw [free]; exact nofun)]
    have begun : s.beginHoming x = ((s.setFig x { fig with position := none }).beginMove x move) := rfl
    refine ⟨fun config => answer (if_pos (config_not_running config)) rfl, fun run unable => answer ?_ rfl,
      fun run ok owned => answer ?_ rfl, fun run ok free gate => ?_, fun run ok free gate => ?_⟩
    · rw [home run, if_pos (Bool.eq_false_iff.2 (fun h => unable (ableIff.1 h)))]
    · rw [home run, if_neg (by rw [ableIff.2 ok]; exact nofun), if_pos (Option.isSome_iff_ne_none.2 owned)]
    · refine answer ((ready run ok free).trans (congrArg (Prod.mk Status.ok) ?_)) rfl
      rw [begun, beginMove_of_open (s := s.setFig x _) move gate, setFig_get, setFig_setFig]
      rfl
    · refine answer ((ready run ok free).trans (congrArg (Prod.mk Status.ok) ?_)) rfl
      rw [begun, beginMove_of_closed (s := s.setFig x _) move gate, setFig_get, setFig_setFig]
      rfl
  · intro fig r
    have answer : ∀ {st : Status} {u : State}, s.faultClear 0 x.val = (st, u) → u.node = s.node →
        exec (.faultClear f) s = .next (u.respond f (Reply.plain st)) := by
      intro st u out node
      refine congrArg Host.Outcome.next (requestFrame_answers reached read ?_ node)
      exact congrArg plainReply out
    refine ⟨fun config => answer (if_pos (config_not_running config)) rfl, fun run well => answer ?_ rfl,
      fun run fault held => answer ?_ rfl, ?_⟩
    · rw [faultClear_figure run]
      exact clearFigures_of_well (fun y mem => by rw [List.mem_singleton.1 mem]; exact well)
    · rw [faultClear_figure run]
      refine clearFigures_of_held ?_ ⟨x, List.mem_singleton.2 rfl, fault⟩
      intro y mem
      rw [List.mem_singleton.1 mem]
      exact Bool.eq_false_iff.2 (fun h => held ((clearable_iff _).1 h).2)
    · intro cleared
      have clears : s.mgmt.engine = .run → fig.state = .fault → fig.admitted = none →
          exec (.faultClear f) s = .next ((s.judgeAfter (s.clearFigure x)).respond f (Reply.plain .ok)) := by
        intro run fault free
        have can : s.figs[x].clearable = true := (clearable_iff _).2 ⟨fault, free⟩
        refine answer ?_ (congrArg Written.node (made_clearJudge s x).written)
        rw [faultClear_figure run, clearFigures_of_some ⟨x, List.mem_singleton.2 rfl, can⟩,
          show [x].filter (fun y : Fin 16 => s.figs[y].clearable) = [x] from List.filter_cons_of_pos can]
        rfl
      refine ⟨fun run fault free there => ?_, fun run fault free absent => ?_⟩
      · rw [clears run fault free, clearFigure_eq x rfl rfl, if_neg there]
      · rw [clears run fault free, clearFigure_eq x rfl rfl, if_pos absent]
  · intro named clears cleared
    have answer : ∀ {st : Status} {u : State}, s.clearFigures (s.figuresOf b) = (st, u) → u.node = s.node →
        exec (.faultClear f) s = .next (u.respond f (Reply.plain st)) := by
      intro st u out node
      refine congrArg Host.Outcome.next (requestFrame_answers reached read ?_ node)
      exact congrArg plainReply ((faultClear_board b run).trans out)
    have mem : ∀ y, y ∈ (s.figuresOf b).filter (fun y => s.figs[y].clearable) ↔ clears y := by
      intro y
      rw [List.mem_filter, mem_figuresOf, clearable_iff, ← and_assoc]
    have some_ : (∃ y, clears y) → ∃ y ∈ s.figuresOf b, s.figs[y].clearable = true := by
      rintro ⟨y, h⟩
      exact ⟨y, List.mem_filter.1 ((mem y).2 h)⟩
    have node : ∀ (l : List (Fin 16)) (v : State), (l.foldl (fun t y => t.judgeAfter (t.clearFigure y)) v).node = v.node :=
      fun l v => foldl_part v State.node _ (fun t y => congrArg Written.node (made_clearJudge t y).written) l
    have done : (∃ y, clears y) → exec (.faultClear f) s = .next ((((s.figuresOf b).filter
        (fun y => s.figs[y].clearable)).foldl (fun t y => t.judgeAfter (t.clearFigure y)) s).respond f
          (Reply.plain .ok)) := fun h => answer (clearFigures_of_some (some_ h)) (node _ _)
    refine ⟨fun h => ?_, fun h empty => ?_, fun h ⟨y, fault⟩ => answer ?_ rfl, fun h => answer ?_ rfl⟩
    · rw [done h]
      refine congrArg (fun u => Host.Outcome.next (State.respond u f (Reply.plain .ok))) ?_
      have list : (s.figuresOf b).filter (fun y => s.figs[y].clearable) = (List.finRange 16).filter
          (fun y => decide (s.figRecs[y].board = b ∧ s.figs[y].state = .fault ∧ s.figs[y].admitted = none)) := by
        unfold State.figuresOf
        rw [List.filter_filter]
        refine List.filter_congr fun y _ => ?_
        rw [Bool.eq_iff_iff, Bool.and_eq_true, decide_eq_true_iff, decide_eq_true_iff, clearable_iff]
        tauto
      rw [list, List.foldl_filter]
      refine foldl_congr_figRecs (s := s) ?_ ?_ _ rfl
      · intro t y recs
        simp only [decide_eq_true_eq]
        split
        · next h =>
          rw [clearFigure_eq y (show t.figRecs[y].board = b by rw [recs]; exact h.1) (by rw [recs])]
        · rfl
      · intro t y
        split
        · exact congrArg Written.figRecs (made_clearJudge t y).written
        · rfl
    · refine ⟨_, done h, fun y yes => ?_, fun y no => ?_⟩ <;> rw [foldl_clear_of_empty _ empty]
      · obtain ⟨w, before, after⟩ := foldl_at figStep_clearFigure
          (show ((s.figuresOf b).filter _).Nodup from ((List.nodup_finRange 16).filter _).filter _) ((mem y).2 yes) s
        refine ⟨?_, fun z => ?_⟩
        · rw [after.fig, clearFigure_fig, before.fig]
        · rw [Ne, after.held z]
          exact clearFigure_zone y z
      · have apart := foldl_apart figStep_clearFigure (fun h => no ((mem y).1 h)) s
        exact ⟨apart.fig, fun z held => (apart.held z).2 held⟩
    · refine clearFigures_of_held (fun z at_ => ?_) ⟨y, (mem_figuresOf b y).2 fault.1, fault.2⟩
      exact Bool.eq_false_iff.2 (fun can => h z ((mem z).1 (List.mem_filter.2 ⟨at_, can⟩)))
    · exact clearFigures_of_well (fun y at_ fault => h y ⟨(mem_figuresOf b y).1 at_, fault⟩)
  · refine congrArg Host.Outcome.next (requestFrame_answers reached read
      (congrArg plainReply (show s.homeFigure index = (.badIndex, s) from ?_)) rfl)
    unfold State.homeFigure
    rw [if_neg (by rw [running_iff.2 run]; exact nofun), fin?_of_le out]
  · refine congrArg Host.Outcome.next (requestFrame_answers reached read
      (congrArg plainReply (show s.faultClear scope index = (.badIndex, s) from ?_)) rfl)
    unfold State.faultClear
    rw [if_neg (by rw [running_iff.2 run]; exact nofun)]
    obtain ⟨rfl, out⟩ | ⟨rfl, out⟩ := out
    · rw [if_pos rfl, fin?_of_le out]
    · rw [if_neg (by decide), if_pos rfl, fin?_of_le out]
  · refine congrArg Host.Outcome.next (requestFrame_answers reached read
      (congrArg plainReply (show s.faultClear scope index = (.badValue, s) from ?_)) rfl)
    unfold State.faultClear
    rw [if_neg (by rw [running_iff.2 run]; exact nofun), if_neg (by omega), if_neg (by omega)]

end

end Sys2Proof.Machine

/-! The arbiter's pass over the waiters in order of priority (R107). -/

namespace Sys2Proof.Machine

section

variable {s t u : State} {x : Fin 16}

/-! The order of the waiters. -/

theorem insertByPriority_perm (f : Fin 16) (l : List (Fin 16)) : (s.insertByPriority f l).Perm (f :: l) := by
  induction l with
  | nil => exact .refl _
  | cons a l ih =>
    unfold State.insertByPriority
    split
    · exact .refl _
    · exact (ih.cons a).trans (.swap f a l)

theorem sortByPriority_perm (l : List (Fin 16)) : (l.foldr s.insertByPriority []).Perm l := by
  induction l with
  | nil => exact .refl _
  | cons a l ih => exact (insertByPriority_perm a _).trans (ih.cons a)

theorem byPriority_nodup (st : FigState) : (s.byPriority st).Nodup :=
  (sortByPriority_perm _).nodup_iff.2 ((List.nodup_finRange 16).filter _)

theorem mem_byPriority (st : FigState) : x ∈ s.byPriority st ↔ s.figs[x].state = st :=
  (sortByPriority_perm _).mem_iff.trans (by simp [indices])

/-- The figure that goes before all the others of a list heads it once they are in order. -/
theorem sortByPriority_head (l : List (Fin 16)) (mem : x ∈ l) (once : l.Nodup)
    (first : ∀ y ∈ l, y ≠ x → s.goesBefore x y = true ∧ s.goesBefore y x = false) :
    ∃ rest, l.foldr s.insertByPriority [] = x :: rest := by
  induction l with
  | nil => exact absurd mem List.not_mem_nil
  | cons a l ih =>
    obtain ⟨away, once⟩ := List.nodup_cons.1 once
    rw [List.foldr_cons]
    obtain rfl | later := List.mem_cons.1 mem
    · cases sorted : l.foldr s.insertByPriority [] with
      | nil => exact ⟨[], rfl⟩
      | cons b rest =>
        have there : b ∈ l := (sortByPriority_perm l).mem_iff.1 (sorted ▸ List.mem_cons_self)
        have ahead := (first b (List.mem_cons_of_mem _ there) (fun h => away (h ▸ there))).1
        exact ⟨b :: rest, if_pos ahead⟩
    · obtain ⟨rest, sorted⟩ := ih later once (fun y at_ => first y (List.mem_cons_of_mem _ at_))
      have behind := (first a List.mem_cons_self (fun h => away (h ▸ later))).2
      rw [sorted]
      exact ⟨s.insertByPriority a rest, if_neg (by rw [behind]; exact nofun)⟩

theorem goesBefore_iff (y : Fin 16) : s.goesBefore x y = true ↔ s.figRecs[y].priority < s.figRecs[x].priority ∨
    (s.figRecs[x].priority = s.figRecs[y].priority ∧ x < y) := by
  simp [State.goesBefore]

/-! One grant, and the pass. -/

theorem zonesFree_iff : s.zonesFree x = true ↔ ∀ z ∈ s.figs[x].needed, s.zones[z] = none ∨ s.zones[z] = some x := by
  simp [State.zonesFree]

theorem grantOne_of_blocked (blocked : ¬s.zonesFree x = true) : s.grantOne x = s := if_neg blocked

theorem grantOne_of_free (free : s.zonesFree x = true) : s.grantOne x =
    (s.setZones (fun z => if s.figs[x].needed.contains z then some x else s.zones[z])).modFig x
      (fun y => { y with state := .waitSupply }) := if_pos free

theorem grantOne_zones (free : s.zonesFree x = true) (z : Fin 24) :
    (s.grantOne x).zones[z] = if z ∈ s.figs[x].needed then some x else s.zones[z] := by
  rw [grantOne_of_free free]
  simp [State.setZones]

theorem grantOne_fig (free : s.zonesFree x = true) :
    (s.grantOne x).figs[x] = { s.figs[x] with state := .waitSupply } := by
  rw [grantOne_of_free free, modFig_figs_self, State.setZones_figs]

/-- A grant takes no zone from the figure that holds it. -/
theorem grantOne_keeps_zone (x : Fin 16) {z : Fin 24} {y : Fin 16} (held : s.zones[z] = some y) :
    (s.grantOne x).zones[z] = some y := by
  by_cases free : s.zonesFree x = true
  · rw [grantOne_zones free]
    split
    · next needs =>
      obtain none_ | mine := zonesFree_iff.1 free z needs
      · exact absurd (none_.symm.trans held) nofun
      · exact mine.symm.trans held
    · exact held
  · rw [grantOne_of_blocked free, held]

theorem grants_keep_zone (l : List (Fin 16)) {z : Fin 24} {y : Fin 16} {v : State} (held : v.zones[z] = some y) :
    (l.foldl State.grantOne v).zones[z] = some y := by
  induction l generalizing v with
  | nil => exact held
  | cons a l ih => exact ih (grantOne_keeps_zone a held)

theorem arbitrate_keeps_zone {z : Fin 24} {y : Fin 16} (held : s.zones[z] = some y) : s.arbitrate.zones[z] = some y :=
  grants_keep_zone _ held

theorem grantOne_parts (x : Fin 16) : ∃ zones figs, s.grantOne x = { s with zones := zones, figs := figs } := by
  by_cases free : s.zonesFree x = true
  · rw [grantOne_of_free free]
    unfold State.setZones
    generalize Vector.ofFn (fun z : Fin 24 => if s.figs[x].needed.contains z then some x else s.zones[z]) = zones
    exact ⟨zones, _, rfl⟩
  · exact ⟨s.zones, s.figs, grantOne_of_blocked free⟩

theorem grants_parts (l : List (Fin 16)) (v : State) :
    ∃ zones figs, l.foldl State.grantOne v = { v with zones := zones, figs := figs } := by
  induction l generalizing v with
  | nil => exact ⟨v.zones, v.figs, rfl⟩
  | cons x l ih =>
    obtain ⟨zones, figs, one⟩ := grantOne_parts (s := v) x
    obtain ⟨zones', figs', rest⟩ := ih (v.grantOne x)
    refine ⟨zones', figs', ?_⟩
    rw [List.foldl_cons, rest, one]

/-- A pass changes zones and figures alone. -/
theorem passIfReleased_parts (before : State) :
    ∃ zones figs, State.passIfReleased before s = { s with zones := zones, figs := figs } := by
  unfold State.passIfReleased
  split
  · exact ⟨s.zones, s.figs, rfl⟩
  · exact grants_parts _ s

theorem arbitrate_leaves : { s.arbitrate with zones := s.zones, figs := s.figs } = s := by
  obtain ⟨zones, figs, pass⟩ := grants_parts (s.byPriority .waitZone) s
  have parts : s.arbitrate = { s with zones := zones, figs := figs } := pass
  rw [parts]

/-- The turn of one waiter in a pass: it finds its zones free and takes them, or finds one of them held. -/
theorem arbitrate_at (waits : s.figs[x].state = .waitZone) : ∃ v, PassKeeps s v x ∧
    (∀ (z : Fin 24) (y : Fin 16), s.zones[z] = some y → v.zones[z] = some y) ∧
    PassKeeps (v.grantOne x) s.arbitrate x ∧
    ∀ (z : Fin 24) (y : Fin 16), (v.grantOne x).zones[z] = some y → s.arbitrate.zones[z] = some y := by
  obtain ⟨before, after, order⟩ := List.append_of_mem ((mem_byPriority .waitZone).2 waits)
  have once := byPriority_nodup (s := s) .waitZone
  rw [order] at once
  have apart : x ∉ before ∧ x ∉ after := by
    obtain ⟨-, tail, disjoint⟩ := List.nodup_append.1 once
    exact ⟨fun h => disjoint x h x List.mem_cons_self rfl, (List.nodup_cons.1 tail).1⟩
  refine ⟨before.foldl State.grantOne s, passKeeps_grants x before apart.1 s, fun z y => grants_keep_zone before, ?_⟩
  have split_ : s.arbitrate = after.foldl State.grantOne ((before.foldl State.grantOne s).grantOne x) := by
    unfold State.arbitrate
    rw [order, List.foldl_append]
    rfl
  rw [split_]
  exact ⟨passKeeps_grants x after apart.2 _, fun z y => grants_keep_zone after⟩

/-- Settles O41: each waiter by its turn in the pass. -/
theorem zoneGrants : Obligations.ZoneGrants := by
  intro s
  refine ⟨s.arbitrate, rfl, arbitrate_leaves, fun z x => arbitrate_keeps_zone, fun z x held => ?_, fun x rests =>
    (passKeeps_arbitrate s x rests).fig, fun x waits => ?_, fun x waits first free => ?_, fun x waits blocked => ?_,
    fun x waits same => ?_⟩
  · by_cases waits : s.figs[x].state = .waitZone
    · obtain ⟨v, before, keeps, after, -⟩ := arbitrate_at waits
      by_cases mine : s.zones[z] = some x
      · exact .inl mine
      · have taken : (v.grantOne x).zones[z] = some x := not_not.1 (fun h => after.gain z h held)
        have was : v.zones[z] ≠ some x := before.gain z mine
        by_cases free : v.zonesFree x = true
        · rw [grantOne_zones free] at taken
          have needs : z ∈ v.figs[x].needed := by
            by_contra h
            rw [if_neg h] at taken
            exact was taken
          have empty : s.zones[z] = none := by
            cases h : s.zones[z] with
            | none => rfl
            | some y =>
              obtain e | e := zonesFree_iff.1 free z needs
              · exact absurd (e.symm.trans (keeps z y h)) nofun
              · exact absurd e was
          refine .inr ⟨empty, waits, ?_, before.fig ▸ needs⟩
          rw [after.fig, grantOne_fig free]
        · rw [grantOne_of_blocked free] at taken
          exact absurd taken was
    · exact .inl (not_not.1 (fun h => (passKeeps_arbitrate s x waits).gain z h held))
  · obtain ⟨v, before, keeps, after, stays⟩ := arbitrate_at waits
    by_cases free : v.zonesFree x = true
    · refine .inr ⟨by rw [after.fig, grantOne_fig free, before.fig], fun z needs => after.keep z ?_⟩
      rw [grantOne_zones free, before.fig, if_pos needs]
    · exact .inl (by rw [after.fig, grantOne_of_blocked free, before.fig])
  · have order : ∃ rest, s.byPriority .waitZone = x :: rest := by
      refine sortByPriority_head _ (List.mem_filter.2 ⟨List.mem_finRange x, decide_eq_true waits⟩) ((List.nodup_finRange 16).filter _) (fun y mem ne => ?_)
      have state : s.figs[y].state = .waitZone := by simpa [indices] using mem
      have ahead := first y ne state
      refine ⟨(goesBefore_iff y).2 (ahead.imp id (fun h => ⟨h.1.symm, h.2⟩)), Bool.eq_false_iff.2 (fun h => ?_)⟩
      obtain h | h := (goesBefore_iff x).1 h <;> obtain k | k := ahead <;> omega
    obtain ⟨rest, order⟩ := order
    have once := byPriority_nodup (s := s) .waitZone
    rw [order] at once
    have pass : s.arbitrate = rest.foldl State.grantOne (s.grantOne x) := by
      unfold State.arbitrate
      rw [order]
      rfl
    rw [pass, (passKeeps_grants x rest (List.nodup_cons.1 once).1 _).fig, grantOne_fig (zonesFree_iff.2 free)]
  · obtain ⟨z, needs, y, ne, held⟩ := blocked
    obtain ⟨v, before, keeps, after, -⟩ := arbitrate_at waits
    have stuck : ¬v.zonesFree x = true := by
      intro free
      obtain e | e := zonesFree_iff.1 free z (before.fig ▸ needs)
      · exact absurd (e.symm.trans (keeps z y held)) nofun
      · exact ne (Option.some.inj ((keeps z y held).symm.trans e))
    refine ⟨by rw [after.fig, grantOne_of_blocked stuck, before.fig], fun z mine => not_not.1 (fun h => ?_)⟩
    refine after.gain z ?_ mine
    rw [grantOne_of_blocked stuck]
    exact before.gain z h
  · obtain ⟨v, before, keeps, after, stays⟩ := arbitrate_at waits
    by_cases free : v.zonesFree x = true
    · rw [after.fig, grantOne_fig free, before.fig] at same
      exact absurd (waits.symm.trans (congrArg Figure.state same).symm) nofun
    · rw [zonesFree_iff] at free
      push Not at free
      obtain ⟨z, needs, some_, other⟩ := free
      obtain ⟨y, held⟩ := Option.ne_none_iff_exists'.1 some_
      refine ⟨z, before.fig ▸ needs, y, fun h => other (h ▸ held), stays z y ?_⟩
      rw [grantOne_of_blocked (by rw [zonesFree_iff]; exact fun h => (h z needs).elim some_ other), held]

end

end Sys2Proof.Machine

/-! Figures that fault, and the ends of their waits and their travel (R106 to R110, R113, R117, R121, R137). -/

namespace Sys2Proof.Machine

section

variable {s t u : State} {x : Fin 16}

/-! What the end of a move leaves. -/

/-- The parts of the state that a figure does not change by ending a move: the zones, the boards and their command
queue, and the launch queue. -/
def State.yard (s : State) : Vector (Option (Fin 16)) 24 × Vector BoardState 32 × TailPort × Launch :=
  (s.zones, s.boards, s.tail, s.launch)

@[simp] theorem yard_modFig (f : Fin 16) (g : Figure → Figure) : (s.modFig f g).yard = s.yard := rfl
@[simp] theorem yard_raise (k : EventKind) (a b : Int) : (s.raise k a b).yard = s.yard := rfl
@[simp] theorem yard_releaseCurrent (f : Fin 16) : (s.releaseCurrent f).yard = s.yard := rfl

@[simp] theorem yard_recordOutcome (k : Fin 4) (i : Nat) (p : Progress) : (s.recordOutcome k i p).yard = s.yard := by
  unfold State.recordOutcome; split <;> rfl

@[simp] theorem yard_endMove (f : Fin 16) (m : Move) (a : Bool) : (s.endMove f m a).yard = s.yard := by
  unfold State.endMove; dsimp only; split <;> simp

@[simp] theorem yard_failCurrent (f : Fin 16) : (s.failCurrent f).yard = s.yard := by
  unfold State.failCurrent
  split
  · split <;> simp
  · rfl

@[simp] theorem yard_failNext (f : Fin 16) : (s.failNext f).yard = s.yard := by
  unfold State.failNext; split <;> simp

@[simp] theorem recordOutcome_figs (k : Fin 4) (i : Nat) (p : Progress) : (s.recordOutcome k i p).figs = s.figs := by
  unfold State.recordOutcome; split <;> rfl

/-- The end of a move counts with its figure. -/
theorem endMove_fig (m : Move) (a : Bool) : (s.endMove x m a).figs[x] =
    if a then { s.figs[x] with movesArrived := min (s.figs[x].movesArrived + 1) 65535 }
    else { s.figs[x] with movesFailed := min (s.figs[x].movesFailed + 1) 65535 } := by
  have counted : (s.modFig x (fun y => if a then { y with movesArrived := inc16 y.movesArrived }
      else { y with movesFailed := inc16 y.movesFailed })).figs[x] = _ := modFig_figs_self s x _
  unfold State.endMove
  dsimp only
  split
  · rw [recordOutcome_figs, counted]
    rfl
  · rw [State.raise_figs, counted]
    rfl
  · rw [counted]
    rfl

/-- The moves failed of a figure whose current move fails. -/
def Figure.currentFailed (y : Figure) : Nat :=
  match y.current with
  | some m => if m.withdrawn then y.movesFailed else min (y.movesFailed + 1) 65535
  | none => y.movesFailed

/-- The moves failed of a figure that loses both its moves (R117). -/
def Figure.bothFailed (y : Figure) : Nat :=
  if y.nextMove = none then y.currentFailed else min (y.currentFailed + 1) 65535

theorem failCurrent_fig : (s.failCurrent x).figs[x] = { s.figs[x] with movesFailed := s.figs[x].currentFailed } := by
  unfold State.failCurrent Figure.currentFailed
  cases h : s.figs[x].current with
  | none => rfl
  | some m =>
    dsimp only
    split
    · rfl
    · exact endMove_fig m false

theorem failNext_fig : (s.failNext x).figs[x] = { s.figs[x] with
    movesFailed := if s.figs[x].nextMove = none then s.figs[x].movesFailed
      else min (s.figs[x].movesFailed + 1) 65535 } := by
  unfold State.failNext
  cases h : s.figs[x].nextMove with
  | none => simp
  | some m => exact endMove_fig m false

theorem failBoth_fig :
    ((s.failCurrent x).failNext x).figs[x] = { s.figs[x] with movesFailed := s.figs[x].bothFailed } := by
  rw [failNext_fig, failCurrent_fig]
  rfl

/-! Faults (R117). -/

/-- The record of a figure that has entered FAULT. -/
def Figure.faulted (y : Figure) (c : FaultCause) : Figure :=
  { y with state := .fault, faultCause := some c, current := none, nextMove := none, travelDeadline := none,
           waitStart := none, stopEnd := .idle, waitUsed := 0, movesFailed := y.bothFailed }

theorem enterFault_of_out (c : FaultCause) (out : s.figs[x].state = .unhomed ∨ s.figs[x].state = .fault) :
    s.enterFault x c = s := if_pos out

/-- The figure in FAULT, before a STOP is asked for it. -/
def State.inFault (s : State) (x : Fin 16) (c : FaultCause) : State :=
  ((((s.modFig x (fun y => { y with state := .fault, faultCause := some c })).raise .figureFault x.val c.code).failCurrent
    x).failNext x).modFig x (fun y => { y with
      current := none, nextMove := none, travelDeadline := none, waitStart := none, stopEnd := .idle, waitUsed := 0 })

theorem inFault_fig (c : FaultCause) : (s.inFault x c).figs[x] = s.figs[x].faulted c := by
  unfold State.inFault
  rw [modFig_figs_self, failBoth_fig, State.raise_figs, modFig_figs_self]
  rfl

@[simp] theorem yard_inFault (c : FaultCause) : (s.inFault x c).yard = s.yard := by
  unfold State.inFault
  rw [yard_modFig, yard_failNext, yard_failCurrent, yard_raise, yard_modFig]

theorem enterFault_of_in (c : FaultCause) (unhomed : s.figs[x].state ≠ .unhomed) (fault : s.figs[x].state ≠ .fault) :
    s.enterFault x c = if s.figs[x].state.underWay && c.asksStop then (s.inFault x c).stopFaulted x
      else s.inFault x c := if_neg (by rintro (h | h) <;> contradiction)

/-- A fault that asks no STOP. -/
theorem enterFault_of_still (c : FaultCause) (unhomed : s.figs[x].state ≠ .unhomed) (fault : s.figs[x].state ≠ .fault)
    (still : s.figs[x].state.underWay = false ∨ c.asksStop = false) : s.enterFault x c = s.inFault x c := by
  rw [enterFault_of_in c unhomed fault]
  refine if_neg ?_
  rw [Bool.and_eq_true]
  rintro ⟨moves, asks⟩
  obtain h | h := still
  · exact Bool.noConfusion (h.symm.trans moves)
  · exact Bool.noConfusion (h.symm.trans asks)

theorem figStep_inFault (c : FaultCause) : FigStep x s (s.inFault x c) := by
  unfold State.inFault
  simp (maxDischargeDepth := 20) [FigStep.refl]

/-! STOP asked (R117, R128). -/

theorem askStop_fig : (s.askStop x).1.figs[x] = { s.figs[x] with commandDone := false } := by
  unfold State.askStop
  dsimp only
  rw [modFig_figs_self, (offBoards_requestCommand s _ _ _ _).figs]

theorem askStop_taken : (s.askStop x).2 = true ↔ s.boards[s.figRecs[x].board].presence ≠ .absent := by
  unfold State.askStop
  dsimp only
  rw [requestCommand_taken]
  simp

theorem askStop_of_absent (absent : s.boards[s.figRecs[x].board].presence = .absent) :
    s.askStop x = (s.modFig x (fun y => { y with commandDone := false }), false) := by
  unfold State.askStop
  dsimp only
  rw [requestCommand_absent s _ _ _ _ absent]

theorem askStop_zones : (s.askStop x).1.zones = s.zones := by
  unfold State.askStop
  dsimp only
  rw [State.modFig_zones, (offBoards_requestCommand s _ _ _ _).zones]

theorem askStop_stops (there : s.boards[s.figRecs[x].board].presence ≠ .absent) :
    (s.askStop x).1.stopAsked s.figRecs[x].board x := stopAsked_of_request there

theorem stopFaulted_of_there (there : s.boards[s.figRecs[x].board].presence ≠ .absent) :
    s.stopFaulted x = (s.askStop x).1 := if_pos (askStop_taken.2 there)

theorem stopFaulted_of_absent (absent : s.boards[s.figRecs[x].board].presence = .absent) :
    s.stopFaulted x = (s.askStop x).1.releaseCurrent x :=
  if_neg (by rw [askStop_of_absent absent]; exact nofun)

theorem stopFaulted_zones : (s.stopFaulted x).zones = s.zones := by
  unfold State.stopFaulted
  dsimp only
  split
  · exact askStop_zones
  · exact askStop_zones

theorem yard_zones (h : t.yard = s.yard) : t.zones = s.zones := congrArg (fun y => y.1) h
theorem yard_boards (h : t.yard = s.yard) : t.boards = s.boards := congrArg (fun y => y.2.1) h
theorem yard_tail (h : t.yard = s.yard) : t.tail = s.tail := congrArg (fun y => y.2.2.1) h
theorem yard_launch (h : t.yard = s.yard) : t.launch = s.launch := congrArg (fun y => y.2.2.2) h

@[simp] theorem enterFault_zones (c : FaultCause) : (s.enterFault x c).zones = s.zones := by
  by_cases out : s.figs[x].state = .unhomed ∨ s.figs[x].state = .fault
  · rw [enterFault_of_out c out]
  · push Not at out
    rw [enterFault_of_in c out.1 out.2]
    split
    · rw [stopFaulted_zones, yard_zones (yard_inFault c)]
    · rw [yard_zones (yard_inFault c)]

/-- A figure that faults keeps everything but its moves, and its admitted current unless a board that is ABSENT has
taken no STOP for it. -/
theorem enterFault_fig (c : FaultCause) (unhomed : s.figs[x].state ≠ .unhomed) (fault : s.figs[x].state ≠ .fault) :
    ∃ done adm, (s.enterFault x c).figs[x] = { s.figs[x].faulted c with commandDone := done, admitted := adm } := by
  rw [enterFault_of_in c unhomed fault]
  split
  · unfold State.stopFaulted
    dsimp only
    split
    · refine ⟨false, (s.figs[x].faulted c).admitted, ?_⟩
      rw [askStop_fig, inFault_fig]
    · refine ⟨false, none, ?_⟩
      show ((s.inFault x c).askStop x).1.releaseCurrent x |>.figs[x] = _
      unfold State.releaseCurrent
      rw [modFig_figs_self, askStop_fig, inFault_fig]
  · exact ⟨_, _, inFault_fig c⟩

theorem enterFault_state (c : FaultCause) (unhomed : s.figs[x].state ≠ .unhomed) (fault : s.figs[x].state ≠ .fault) :
    (s.enterFault x c).figs[x].state = .fault ∧ (s.enterFault x c).figs[x].faultCause = some c ∧
    (s.enterFault x c).figs[x].current = none ∧ (s.enterFault x c).figs[x].nextMove = none ∧
    (s.enterFault x c).figs[x].flags = s.figs[x].flags := by
  obtain ⟨done, adm, e⟩ := enterFault_fig c unhomed fault
  rw [e]
  exact ⟨rfl, rfl, rfl, rfl, rfl⟩

/-- The presence of a figure's board. -/
theorem Backdrop.presenceOf (h : Backdrop s t) (x : Fin 16) :
    t.boards[t.figRecs[x].board].presence = s.boards[s.figRecs[x].board].presence :=
  (h.presence _).trans (congrArg (fun r : Vector FigRec 16 => s.boards[r[x].board].presence) h.figRecs)

/-- A fault under way of a cause that asks it has STOP asked of a board that is not ABSENT (R117). -/
theorem enterFault_stops (c : FaultCause) (moves : s.figs[x].state.underWay = true) (asks : c.asksStop = true)
    (there : s.boards[s.figRecs[x].board].presence ≠ .absent) :
    (s.enterFault x c).stopAsked s.figRecs[x].board x := by
  have unhomed : s.figs[x].state ≠ .unhomed := by intro h; rw [h] at moves; exact Bool.noConfusion moves
  have fault : s.figs[x].state ≠ .fault := by intro h; rw [h] at moves; exact Bool.noConfusion moves
  have step := (figStep_inFault (s := s) (x := x) c).backdrop
  rw [enterFault_of_in c unhomed fault, if_pos (by rw [moves, asks]; rfl)]
  have there' : (s.inFault x c).boards[(s.inFault x c).figRecs[x].board].presence ≠ .absent :=
    fun h => there ((step.presenceOf x).symm.trans h)
  rw [stopFaulted_of_there there']
  have asked := askStop_stops there'
  rw [step.figRecs] at asked
  exact asked

/-! The move in the slot. -/

/-- The figure with its next-move slot emptied. -/
def State.clearNext (s : State) (x : Fin 16) : State := s.setFig x { s.figs[x] with nextMove := none }

/-- The move in the slot is taken, if there is one. -/
theorem takeWaiting_eq : s.takeWaiting x = match s.figs[x].nextMove with
    | none => s.clearNext x
    | some m => (s.clearNext x).takeMove x m := by
  unfold State.takeWaiting State.clearNext
  cases h : s.figs[x].nextMove with
  | none =>
    have same : { s.figs[x] with nextMove := none } = s.figs[x] := by rw [← h]
    dsimp only
    rw [same, setFig_self]
  | some m => rfl

end

end Sys2Proof.Machine

/-! Supply admitted to figures and given back, and the deadlines of figures (R108, R109, R113, R121, R137). -/

namespace Sys2Proof.Machine

section

variable {s t u : State} {x : Fin 16}

/-! A command joined beside a figure's record. -/

theorem fillPlaces_setFig (n : Nat) (y : Figure) (v : State) :
    (v.setFig x y).fillPlaces n = (v.fillPlaces n).setFig x y := by
  induction n generalizing v with
  | zero => rfl
  | succ n ih =>
    have placed : ∀ (b : Fin 32) (id : Nat), (v.setFig x y).placeFrame b id = (v.placeFrame b id).setFig x y := by
      intro b id
      unfold State.placeFrame
      by_cases room : v.tail.commandQueue.length < 16
      · rw [if_pos room, if_pos (show (v.setFig x y).tail.commandQueue.length < 16 from room)]
        rfl
      · rw [if_neg room, if_neg (show ¬(v.setFig x y).tail.commandQueue.length < 16 from room)]
    have same : (v.setFig x y).unplacedCommands = v.unplacedCommands := rfl
    unfold State.fillPlaces
    rw [same]
    cases firstOffered v.unplacedCommands with
    | none => rfl
    | some c =>
      dsimp only
      rw [placed, ih]

/-- The command in its board's list, before the free places are taken. -/
def State.listCommand (s : State) (b : Fin 32) (op : CommandOp) (ch : Option (Fin 4)) (o : Option (Fin 16)) : State :=
  (s.modBoardUnit (fun u => { u with nextId := u.nextId + 1 })).modBoard b (fun t => { t with
    commands := if op.isStop then insertStop (newCommand s.boardUnit.nextId op ch o) t.commands
      else t.commands ++ [newCommand s.boardUnit.nextId op ch o] })

theorem joinCommands_eq (b : Fin 32) (op : CommandOp) (ch : Option (Fin 4)) (o : Option (Fin 16)) :
    s.joinCommands b op ch o = (s.listCommand b op ch o).fillQueue := rfl

theorem joinCommands_setFig (b : Fin 32) (op : CommandOp) (ch : Option (Fin 4)) (o : Option (Fin 16)) (y : Figure) :
    (s.setFig x y).joinCommands b op ch o = (s.joinCommands b op ch o).setFig x y :=
  fillPlaces_setFig _ y (s.listCommand b op ch o)

/-- A command that is no STOP joins the list of a board that is not ABSENT. -/
theorem requestCommand_of_there {b : Fin 32} {op : CommandOp} (ch : Option (Fin 4)) (o : Option (Fin 16))
    (there : s.boards[b].presence ≠ .absent) (move : op.isStop = false) :
    s.requestCommand b op ch o = (s.joinCommands b op ch o, true) :=
  (if_neg there).trans (if_neg (by rw [move]; exact nofun))

/-! Admission (R109). -/

theorem admitsMotor_iff (g : Fin 4) (ma : Nat) : s.admitsMotor g ma = true ↔
    s.motorSum g + ma + s.strikeSum g + s.groups[g].reserve ≤ s.groups[g].limit := decide_eq_true_iff

theorem supplyAdmits_iff : s.supplyAdmits x = true ↔ s.figs[x].state = .waitSupply ∧ s.figs[x].current ≠ none ∧
    s.admitsMotor s.boardRecs[s.figRecs[x].board].group s.figRecs[x].runCurrent = true := by
  simp [State.supplyAdmits, and_assoc, Option.isSome_iff_ne_none]

theorem supplyTurn_iff : s.supplyTurn x = true ↔ s.supplyAdmits x = true ∧ ∀ y : Fin 16, s.goesBefore y x = true →
    s.boardRecs[s.figRecs[y].board].group = s.boardRecs[s.figRecs[x].board].group → s.supplyAdmits y = false := by
  unfold State.supplyTurn
  rw [Bool.and_eq_true, List.all_eq_true]
  refine and_congr_right fun _ => ⟨fun h y before group => ?_, fun h y _ => ?_⟩
  · have none_ := h y (List.mem_finRange y)
    rw [before, decide_eq_true group] at none_
    simpa using none_
  · rw [Bool.not_eq_true', Bool.eq_false_iff]
    intro k
    simp only [Bool.and_eq_true, decide_eq_true_eq] at k
    exact Bool.noConfusion ((h y k.1.1 k.1.2).symm.trans k.2)

/-- The record of a figure admitted by supply, before its command is asked (R109). -/
def Figure.supplied (y : Figure) (ma : Nat) (g : Fin 4) (now : Time) : Figure :=
  { y with admitted := some (ma, g), waitUsed := waitSpent y now, waitStart := none }

theorem waitSpent_eq {y : Figure} {now start : Int} (waiting : y.waitStart = some start) :
    waitSpent y now = (max 0 (min 600000 (y.waitUsed + (now - start)))).toNat := by
  unfold waitSpent
  rw [waiting]
  exact congrArg Int.toNat (clampInt_eq (by decide))

theorem admitFigure_eq {m : Move} (current : s.figs[x].current = some m) : s.admitFigure x =
    (s.setFig x (s.figs[x].supplied s.figRecs[x].runCurrent s.boardRecs[s.figRecs[x].board].group s.now)).startMove x
      m.goal := by
  have same : (s.setFig x (s.figs[x].supplied s.figRecs[x].runCurrent s.boardRecs[s.figRecs[x].board].group s.now)).figs[x] =
      s.figs[x].supplied s.figRecs[x].runCurrent s.boardRecs[s.figRecs[x].board].group s.now := setFig_get _
  unfold State.admitFigure
  dsimp only
  rw [modFig_eq_setFig]
  show (match (s.setFig x (s.figs[x].supplied s.figRecs[x].runCurrent s.boardRecs[s.figRecs[x].board].group
    s.now)).figs[x].current with | some m => _ | none => _) = _
  rw [same, show (s.figs[x].supplied s.figRecs[x].runCurrent s.boardRecs[s.figRecs[x].board].group s.now).current = some m
    from current]
  rfl

section

variable {y : Figure}

/-- The command asked for a figure and its record set, in either order. -/
theorem ask_then_set {b : Fin 32} {op : CommandOp} (ch : Option (Fin 4)) (o : Option (Fin 16)) (g : Figure → Figure) :
    ((s.setFig x y).joinCommands b op ch o).modFig x g = (s.setFig x (g y)).joinCommands b op ch o := by
  rw [modFig_eq_setFig, joinCommands_setFig, setFig_get, setFig_setFig, joinCommands_setFig]

theorem startMove_of_go (target pct : Nat) (w : Way) (there : s.boards[s.figRecs[x].board].presence ≠ .absent) :
    (s.setFig x y).startMove x (.go target pct w) = (s.setFig x { y with
      state := .starting, legDistance := legDistanceOf s.figRecs[x] y target,
      legSpeed := legSpeedOf s.figRecs[x] pct, commandDone := false }).joinCommands s.figRecs[x].board
        (.move target y.resolvedWay (legSpeedOf s.figRecs[x] pct)) (some s.figRecs[x].channel) (some x) := by
  unfold State.startMove
  dsimp only
  rw [setFig_get]
  have there' : (s.setFig x y).boards[(s.setFig x y).figRecs[x].board].presence ≠ .absent := there
  rw [requestCommand_of_there _ _ there' rfl]
  exact (if_pos rfl).trans (ask_then_set _ _ _)

theorem startMove_of_home (there : s.boards[s.figRecs[x].board].presence ≠ .absent) :
    (s.setFig x y).startMove x .home = (s.setFig x { y with
      state := .homing, travelDeadline := some (s.clock.time + 120000), commandDone := false }).joinCommands
        s.figRecs[x].board .home (some s.figRecs[x].channel) (some x) := by
  unfold State.startMove
  dsimp only
  have there' : (s.setFig x y).boards[(s.setFig x y).figRecs[x].board].presence ≠ .absent := there
  rw [requestCommand_of_there _ _ there' rfl]
  exact (if_pos rfl).trans (ask_then_set _ _ _)

/-- A board that is ABSENT takes no command: the figure faults and gives its current back (R117, R128). -/
theorem startMove_of_absent (g : MoveGoal) (absent : s.boards[s.figRecs[x].board].presence = .absent) :
    ∃ v : State, (s.startMove x g) = (v.inFault x .boardAbsent).releaseCurrent x ∧ v.yard = s.yard := by
  have fault : ∀ v : State, v.figs[x].state ≠ .unhomed → v.figs[x].state ≠ .fault →
      (v.enterFault x .boardAbsent).releaseCurrent x = (v.inFault x .boardAbsent).releaseCurrent x :=
    fun v unhomed fault => by rw [enterFault_of_still _ unhomed fault (.inr rfl)]
  unfold State.startMove
  cases g with
  | go target pct w =>
    dsimp only
    rw [requestCommand_absent s _ _ _ _ absent]
    refine ⟨s.modFig x _, (if_neg nofun).trans (fault _ ?_ ?_), rfl⟩ <;> rw [modFig_figs_self] <;> exact nofun
  | home =>
    dsimp only
    rw [requestCommand_absent s _ _ _ _ absent]
    refine ⟨s.modFig x _, (if_neg nofun).trans (fault _ ?_ ?_), rfl⟩ <;> rw [modFig_figs_self] <;> exact nofun

end

/-- Settles O42: the turn of a figure, the start that follows it, and the earliest windows released. -/
theorem supplyIsAdmittedAndReleased : Obligations.SupplyIsAdmittedAndReleased := by
  refine ⟨fun s x m start => ?_, fun s => ⟨fun t window past least => ?_, fun ahead => ?_⟩⟩
  · intro fig r g waits current waiting here asks
    have asksIff : ∀ y : Fin 16, asks y ↔ s.supplyAdmits y = true ∧ s.boardRecs[s.figRecs[y].board].group = g := by
      intro y
      rw [supplyAdmits_iff]
      constructor
      · rintro ⟨state, some_, group, room⟩
        exact ⟨⟨state, some_, by rw [group]; exact (admitsMotor_iff g _).2 room⟩, group⟩
      · rintro ⟨⟨state, some_, room⟩, group⟩
        exact ⟨state, some_, group, (admitsMotor_iff g _).1 (by rw [group] at room; exact room)⟩
    have rests : ¬s.supplyTurn x = true → exec (.figureSupplyAdmit x) s = .next s :=
      fun no => congrArg Host.Outcome.next (if_neg no)
    refine ⟨fun excess => rests ?_, fun ⟨y, ask, before⟩ => rests ?_, fun room first => ?_⟩
    · rw [supplyTurn_iff, supplyAdmits_iff]
      exact fun h => absurd ((admitsMotor_iff g _).1 h.1.2.2) (Nat.not_le.2 excess)
    · rw [supplyTurn_iff]
      rintro ⟨-, none_⟩
      obtain ⟨admits, group⟩ := (asksIff y).1 ask
      have no := none_ y ((goesBefore_iff x).2 (before.imp id (fun h => ⟨h.1, h.2⟩))) group
      exact Bool.noConfusion (no.symm.trans admits)
    · intro admitted taken
      have turn : s.supplyTurn x = true := by
        rw [supplyTurn_iff, supplyAdmits_iff]
        refine ⟨⟨waits, by rw [show s.figs[x].current = some m from current]; exact nofun,
          (admitsMotor_iff g _).2 room⟩, fun y before group => ?_⟩
        by_contra h
        have ask : asks y := (asksIff y).2 ⟨Bool.not_eq_false _ ▸ h, group⟩
        have order : r.priority < s.figRecs[y].priority ∨ (s.figRecs[y].priority = r.priority ∧ y < x) :=
          (goesBefore_iff x).1 before
        have ne : y ≠ x := by
          rintro rfl
          obtain h | h := order
          · exact Nat.lt_irrefl _ h
          · exact lt_irrefl _ h.2
        obtain k | k := first y ne ask <;> obtain h | h := order <;> omega
      have start_ : exec (.figureSupplyAdmit x) s =
          .next (s.judgeAfter ((s.setFig x (s.figs[x].supplied r.runCurrent g s.now)).startMove x m.goal)) := by
        refine congrArg Host.Outcome.next ((if_pos turn).trans ?_)
        rw [admitFigure_eq current]
      have spent := waitSpent_eq (now := s.now) waiting
      refine ⟨fun target pct w there goal => ?_, fun there goal => ?_, fun absent => ?_⟩
      · intro v distance
        rw [start_, goal, startMove_of_go target pct w there]
        unfold Figure.supplied
        rw [spent]
        rfl
      · rw [start_, goal, startMove_of_home there]
        unfold Figure.supplied
        rw [spent]
        rfl
      · obtain ⟨v, e, yard⟩ := startMove_of_absent (s := s.setFig x (s.figs[x].supplied r.runCurrent g s.now)) (x := x) m.goal
          (not_not.1 absent)
        refine ⟨_, start_, ?_⟩
        rw [e]
        have rec_ : ((v.inFault x .boardAbsent).releaseCurrent x).figs[x] =
            { v.figs[x].faulted .boardAbsent with admitted := none } := by
          unfold State.releaseCurrent
          rw [modFig_figs_self, inFault_fig]
        have same : ((v.inFault x .boardAbsent).releaseCurrent x).yard = s.yard := by
          rw [yard_releaseCurrent, yard_inFault, yard]
          rfl
        rw [rec_]
        exact ⟨rfl, rfl, rfl, rfl, rfl, yard_zones same, yard_boards same, yard_tail same⟩
  · have ends : leastTime s.reachedEnds = some t := by
      refine ((leastTime_iff _).2 t).2 ⟨?_, fun v mem => ?_⟩
      · obtain ⟨a, mem, rfl⟩ := window
        exact List.mem_filter.2 ⟨List.mem_map_of_mem mem, decide_eq_true past⟩
      · obtain ⟨a, at_, rfl⟩ := List.mem_map.1 (List.mem_filter.1 mem).1
        exact least a at_
    refine congrArg Host.Outcome.next ?_
    unfold State.endWindows
    rw [ends]
    rfl
  · refine congrArg Host.Outcome.next ?_
    have none_ : s.reachedEnds = [] := by
      unfold State.reachedEnds
      rw [List.filter_eq_nil_iff]
      intro t mem
      obtain ⟨a, at_, rfl⟩ := List.mem_map.1 mem
      rw [decide_eq_true_iff]
      exact Int.not_le.2 (ahead a at_)
    unfold State.endWindows
    rw [none_]
    rfl

/-! Deadlines (R108, R113, R121). -/

/-- What is told of a live move that has failed. -/
def State.tellFailed (s : State) (x : Fin 16) (q : Requester) : State :=
  match q with
  | .cue => s.raise .liveMoveDone x.val 0
  | .run _ _ => s
  | .mgmt => s

@[simp] theorem recordOutcome_mgmt (k : Fin 4) (i : Nat) (p : Progress) : (s.recordOutcome k i p).mgmt = s.mgmt := by
  unfold State.recordOutcome; split <;> rfl

theorem endMove_mgmt (m : Move) : (s.endMove x m false).mgmt = (s.tellFailed x m.requester).mgmt := by
  unfold State.endMove State.tellFailed
  dsimp only
  cases m.requester with
  | run k i => exact recordOutcome_mgmt k i _
  | cue => rfl
  | mgmt => rfl

theorem endMove_runs {m : Move} {a : Bool} {k : Fin 4} {i : Nat} (by_ : m.requester = .run k i)
    (busy : s.runs[k].state ≠ .free) : (s.endMove x m a).runs = s.runs.set k.val { s.runs[k] with
      progress := s.runs[k].progress.set i (if a then .arrived else .failed) } := by
  unfold State.endMove
  dsimp only
  rw [by_]
  exact congrArg State.runs (if_neg busy)

theorem raise_mgmt_congr (mgmt : t.mgmt = s.mgmt) (clock : t.clock = s.clock) (k : EventKind) (a b : Int) :
    (t.raise k a b).mgmt = (s.raise k a b).mgmt := by
  show t.mgmt.offer _ = s.mgmt.offer _
  rw [mgmt]
  unfold State.now
  rw [clock]

theorem tellFailed_clock (q : Requester) : (s.tellFailed x q).clock = s.clock := by cases q <;> rfl

theorem homingNow_of_current {y : Figure} {m : Move} (current : y.current = some m) :
    y.homingNow = true ↔ m.goal = .home := by
  unfold Figure.homingNow
  rw [current]
  show m.goal.isHome = true ↔ _
  cases m.goal <;> simp [MoveGoal.isHome]

theorem restFigure_fig {m : Move} (current : s.figs[x].current = some m) : (s.restFigure x).figs[x] = { s.figs[x] with
    state := if m.goal = .home then .unhomed else .idle, current := none, waitStart := none } := by
  unfold State.restFigure
  rw [modFig_figs_self]
  by_cases home : m.goal = .home
  · rw [if_pos home, if_pos ((homingNow_of_current current).2 home)]
  · rw [if_neg home, if_neg (fun h => home ((homingNow_of_current current).1 h))]

@[simp] theorem keepResting_figs : (s.keepResting x).figs = s.figs := by simp [State.keepResting, State.releaseZones]
@[simp] theorem keepResting_mgmt : (s.keepResting x).mgmt = s.mgmt := by simp [State.keepResting, State.releaseZones]
@[simp] theorem keepResting_runs : (s.keepResting x).runs = s.runs := by simp [State.keepResting, State.releaseZones]
@[simp] theorem keepResting_clock : (s.keepResting x).clock = s.clock := by simp [State.keepResting, State.releaseZones]
@[simp] theorem keepResting_boards : (s.keepResting x).boards = s.boards := by
  simp [State.keepResting, State.releaseZones]
@[simp] theorem keepResting_launch : (s.keepResting x).launch = s.launch := by
  simp [State.keepResting, State.releaseZones]

/-- The slot emptied beside other parts of the state. -/
theorem clearNext_fig : (s.clearNext x).figs[x] = { s.figs[x] with nextMove := none } := setFig_get _

theorem takeWaiting_of_none (empty : s.figs[x].nextMove = none) : s.takeWaiting x = s.clearNext x := by
  rw [takeWaiting_eq, empty]

theorem takeWaiting_of_some {m : Move} (full : s.figs[x].nextMove = some m) :
    s.takeWaiting x = (s.clearNext x).takeMove x m := by
  rw [takeWaiting_eq, full]

/-- The state at an abandoned move: the figure at rest, its move failed and told, and MOVE_ABANDONED raised (R108). -/
def State.abandoned (s : State) (x : Fin 16) (m : Move) : State :=
  ((((s.restFigure x).keepResting x).endMove x m false).modFig x (fun y => { y with
    moveAbandoned := inc16 y.moveAbandoned })).raise .moveAbandoned x.val s.figs[x].requesterCode

theorem abandonMove_eq {m : Move} (current : s.figs[x].current = some m)
    (waits : s.figs[x].state = .waitZone ∨ s.figs[x].state = .waitSupply)
    (due : reached s.now (s.waitDeadline x) = true) :
    s.abandonMove x = (State.passIfReleased s (s.abandoned x m)).takeWaiting x := by
  unfold State.abandonMove
  rw [if_pos ⟨waits, due⟩]
  dsimp only
  rw [current]
  rfl

theorem abandoned_fig {m : Move} (current : s.figs[x].current = some m) : (s.abandoned x m).figs[x] = { s.figs[x] with
    state := if m.goal = .home then .unhomed else .idle, current := none, waitStart := none,
    movesFailed := min (s.figs[x].movesFailed + 1) 65535, moveAbandoned := min (s.figs[x].moveAbandoned + 1) 65535 } := by
  unfold State.abandoned
  rw [State.raise_figs, modFig_figs_self, endMove_fig, keepResting_figs, restFigure_fig current]
  rfl

theorem figStep_abandoned (m : Move) : FigStep x s (s.abandoned x m) := by
  unfold State.abandoned
  simp (maxDischargeDepth := 20) [FigStep.refl]

theorem abandoned_zones (m : Move) (z : Fin 24) : (s.abandoned x m).zones[z] =
    if s.zones[z] = some x ∧ z ∉ zonesAt s.figRecs[x] s.figs[x].position then none else s.zones[z] := by
  have position : (s.restFigure x).figs[x].position = s.figs[x].position := by
    unfold State.restFigure
    rw [modFig_figs_self]
  have zones : (s.abandoned x m).zones = ((s.restFigure x).keepResting x).zones :=
    yard_zones (s := (s.restFigure x).keepResting x) (yard_endMove x m false)
  rw [zones, zones_keepResting, position]
  rfl

/-- A STOP asked and the figure stalled, its current given back if the board is ABSENT (R113). -/
theorem stallFigure_of_due (moves : s.figs[x].state = .moving) (due : reached s.now s.figs[x].travelDeadline = true) :
    s.stallFigure x = if (s.askStop x).2 then (s.askStop x).1.inFault x .stall
      else ((s.askStop x).1.inFault x .stall).releaseCurrent x := by
  have state : (s.askStop x).1.figs[x].state = .moving := by rw [askStop_fig, moves]
  have fault : (s.askStop x).1.enterFault x .stall = (s.askStop x).1.inFault x .stall :=
    enterFault_of_still _ (by rw [state]; exact nofun) (by rw [state]; exact nofun) (.inr rfl)
  unfold State.stallFigure
  rw [if_pos ⟨moves, due⟩]
  dsimp only
  rw [fault]

section

variable (moves : s.figs[x].state = .moving) (due : reached s.now s.figs[x].travelDeadline = true)
include moves due

theorem stallFigure_fig : ∃ adm, (s.stallFigure x).figs[x] =
    { ({ s.figs[x] with commandDone := false } : Figure).faulted .stall with admitted := adm } ∧
    (s.boards[s.figRecs[x].board].presence ≠ .absent → adm = s.figs[x].admitted) := by
  have fault : ((s.askStop x).1.inFault x .stall).figs[x] = ({ s.figs[x] with commandDone := false } : Figure).faulted .stall := by
    rw [inFault_fig, askStop_fig]
  rw [stallFigure_of_due moves due]
  by_cases there : s.boards[s.figRecs[x].board].presence ≠ .absent
  · rw [if_pos (askStop_taken.2 there), fault]
    exact ⟨s.figs[x].admitted, rfl, fun _ => rfl⟩
  · rw [if_neg (fun h => there (askStop_taken.1 h))]
    unfold State.releaseCurrent
    rw [modFig_figs_self, fault]
    exact ⟨none, rfl, fun h => absurd h there⟩

theorem stallFigure_zones : (s.stallFigure x).zones = s.zones := by
  rw [stallFigure_of_due moves due]
  split
  · rw [yard_zones (yard_inFault .stall), askStop_zones]
  · rw [State.releaseCurrent, State.modFig_zones, yard_zones (yard_inFault .stall), askStop_zones]

theorem stallFigure_stops (there : s.boards[s.figRecs[x].board].presence ≠ .absent) :
    (s.stallFigure x).stopAsked s.figRecs[x].board x := by
  rw [stallFigure_of_due moves due, if_pos (askStop_taken.2 there)]
  exact (figStep_inFault .stall).backdrop.stops _ _ (askStop_stops there)

end

theorem reached_of_le {now d : Int} {o : Option Int} (deadline : o = some d) (past : d ≤ now) : reached now o = true := by
  unfold reached
  rw [deadline]
  exact decide_eq_true past

/-- Settles O43: the move abandoned, and the two deadlines that fault. -/
theorem figureDeadlines : Obligations.FigureDeadlines := by
  intro s x m fig current
  refine ⟨fun start waits waiting past => ?_, fun moves ⟨d, deadline, past⟩ => ?_, fun homing ⟨d, deadline, past⟩ => ?_⟩
  · intro told code
    have due : reached s.now (s.waitDeadline x) = true := by
      refine reached_of_le (d := start + s.mgmt.settings.zoneWait - fig.waitUsed) ?_ past
      unfold State.waitDeadline
      rw [show s.figs[x].waitStart = some start from waiting]
      rfl
    have rest := abandoned_fig current
    have still : (s.abandoned x m).figs[x].state ≠ .waitZone := by
      rw [rest]
      dsimp only
      split <;> exact nofun
    have pass := passKeeps_passIfReleased s (s.abandoned x m) x still
    obtain ⟨zones, figs, parts⟩ := passIfReleased_parts (s := s.abandoned x m) s
    have step := figStep_abandoned (s := s) (x := x) m
    have codeIs : s.figs[x].requesterCode = code := by
      unfold Figure.requesterCode
      rw [show s.figs[x].current = some m from current]
      cases h : m.requester <;> simp [Requester.code, code, h]
    refine ⟨(State.passIfReleased s (s.abandoned x m)).clearNext x, ?_, ?_, fun k i by_ busy => ?_, ?_, fun z held away =>
      ?_, fun z held at_ => ?_, ?_, ?_, ?_, ?_⟩
    · refine congrArg (fun u => Host.Outcome.next (s.judgeAfter u)) ((abandonMove_eq current waits due).trans ?_)
      have slot : (State.passIfReleased s (s.abandoned x m)).figs[x].nextMove = fig.nextMove := by rw [pass.fig, rest]
      cases next : fig.nextMove with
      | none => exact takeWaiting_of_none (slot.trans next)
      | some n => exact takeWaiting_of_some (slot.trans next)
    · refine pass.mgmt.trans ?_
      have toldIs : s.tellFailed x m.requester = told := rfl
      have tell : ∀ q, (((s.restFigure x).keepResting x).tellFailed x q).mgmt = (s.tellFailed x q).mgmt := by
        intro q
        cases q with
        | run k i => exact keepResting_mgmt
        | cue => exact raise_mgmt_congr keepResting_mgmt keepResting_clock _ _ _
        | mgmt => exact keepResting_mgmt
      have ended : FigStep x s (((s.restFigure x).keepResting x).endMove x m false) := by
        simp (maxDischargeDepth := 20) [FigStep.refl]
      unfold State.abandoned
      rw [← toldIs, ← codeIs]
      refine raise_mgmt_congr ((endMove_mgmt m).trans (tell m.requester)) ?_ _ _ _
      exact ended.backdrop.clock.trans (tellFailed_clock m.requester).symm
    · have runs := endMove_runs (s := (s.restFigure x).keepResting x) (x := x) (a := false) by_
        (by simp only [keepResting_runs]; exact busy)
      simp only [keepResting_runs] at runs
      exact pass.runs.trans runs
    · rw [clearNext_fig, pass.fig, rest]
    · refine pass.gain z ?_
      rw [abandoned_zones, if_pos ⟨held, away⟩]
      exact nofun
    · refine pass.keep z ?_
      rw [abandoned_zones, if_neg (fun h => h.2 at_), held]
    · exact (by rw [parts]; exact step.backdrop.written)
    · exact (by rw [parts]; exact step.backdrop.clock)
    · have boards : (s.abandoned x m).boards = ((s.restFigure x).keepResting x).boards :=
        yard_boards (s := (s.restFigure x).keepResting x) (yard_endMove x m false)
      rw [keepResting_boards] at boards
      exact (by rw [parts]; exact boards)
    · exact (by rw [parts]; exact step.launch)
  · have due : reached s.now s.figs[x].travelDeadline = true := reached_of_le deadline past
    obtain ⟨adm, rec_, admIs⟩ := stallFigure_fig moves due
    refine ⟨s.stallFigure x, rfl, ?_⟩
    rw [rec_]
    refine ⟨rfl, rfl, rfl, rfl, rfl, fun live empty => ?_, stallFigure_zones moves due, rfl, fun there =>
      ⟨admIs there, stallFigure_stops moves due there⟩⟩
    show Figure.bothFailed _ = _
    unfold Figure.bothFailed Figure.currentFailed
    dsimp only
    rw [if_pos (show s.figs[x].nextMove = none from empty), show s.figs[x].current = some m from current]
    dsimp only
    rw [live]
    rfl
  · have due : reached s.now s.figs[x].travelDeadline = true := reached_of_le deadline past
    have fails : s.failHoming x = s.enterFault x .homeFailed := if_pos ⟨homing, due⟩
    have state := enterFault_state (s := s) (x := x) .homeFailed (by rw [homing]; exact nofun) (by rw [homing]; exact nofun)
    refine ⟨s.enterFault x .homeFailed, congrArg (fun u => Host.Outcome.next (s.judgeAfter u)) fails, state.1, state.2.1,
      state.2.2.1, state.2.2.2.1, enterFault_zones _, fun there => enterFault_stops _ ?_ rfl there⟩
    rw [homing]
    rfl

end

end Sys2Proof.Machine

/-! What reaches the board unit: answers, statuses and timeouts (R118, R130 to R134). -/

namespace Sys2Proof.Machine

section

variable {s t u : State} {x : Fin 16} {b : Fin 32}

/-! A command taken off its list (R128, R130). -/

theorem withdrawCommands_eq (p : Command → Bool) : s.withdrawCommands b p = { s with
    boards := s.boards.set b.val { s.boards[b] with commands := s.boards[b].commands.filter (fun c => !p c) },
    tail := { s.tail with commandQueue := s.tail.commandQueue.filter (fun g =>
      !(g.board = b && s.boards[b].commands.any (fun c => c.id = g.id && p c))) } } := rfl

/-- The frame of a command of the list, by the command's number. -/
theorem any_id_eq {l : List Command} {c : Command} (mem : c ∈ l) (n : Nat) :
    l.any (fun d => d.id = n && d.id = c.id) = decide (n = c.id) := by
  rw [Bool.eq_iff_iff, List.any_eq_true, decide_eq_true_iff]
  constructor
  · rintro ⟨d, -, same⟩
    simp only [Bool.and_eq_true, decide_eq_true_eq] at same
    exact same.1.symm.trans same.2
  · rintro rfl
    exact ⟨c, mem, by simp⟩

theorem removeCommand_eq {c : Command} (mem : c ∈ s.boards[b].commands) : s.removeCommand b c.id = { s with
    boards := s.boards.set b.val { s.boards[b] with commands := s.boards[b].commands.filter (fun d => d.id ≠ c.id) },
    tail := { s.tail with commandQueue :=
      s.tail.commandQueue.filter (fun g => !(g.board = b && g.id = c.id)) } } := by
  unfold State.removeCommand
  rw [withdrawCommands_eq]
  have commands : s.boards[b].commands.filter (fun d => !decide (d.id = c.id)) =
      s.boards[b].commands.filter (fun d => decide (d.id ≠ c.id)) :=
    List.filter_congr (fun d _ => by simp)
  have frames : s.tail.commandQueue.filter (fun g => !(decide (g.board = b) &&
      s.boards[b].commands.any (fun d => decide (d.id = g.id) && decide (d.id = c.id)))) =
      s.tail.commandQueue.filter (fun g => !(decide (g.board = b) && decide (g.id = c.id))) :=
    List.filter_congr (fun g _ => by rw [any_id_eq mem])
  rw [commands, frames]

/-- The board's count of rejects raised and the rejected command's frame dropped. -/
def State.countReject (s : State) (b : Fin 32) (c : Command) : State :=
  (s.modBoard b (fun t => { t with rejected := inc16 t.rejected })).dropFrames b (fun id => id = c.id)

theorem countReject_board (c : Command) :
    (s.countReject b c).boards[b] = { s.boards[b] with rejected := min (s.boards[b].rejected + 1) 65535 } :=
  modBoard_self (s := s) b (fun t => { t with rejected := inc16 t.rejected })

theorem countReject_set (c : Command) (y : BoardState) : (s.countReject b c).setBoard b y = { s with
    boards := s.boards.set b.val y,
    tail := { s.tail with commandQueue :=
      s.tail.commandQueue.filter (fun g => !(g.board = b && g.id = c.id)) } } := by
  unfold State.countReject State.dropFrames State.modBoard State.setBoard State.modTail
  dsimp only
  rw [Vector.set_set]

theorem rejectCommand_of_retries {c : Command} (few : c.rejects + 1 ≤ s.mgmt.settings.retries) :
    s.rejectCommand b c = ((s.countReject b c).modCommand b c.id (fun d => { d with rejects := d.rejects + 1 })).holdOff
      b c := if_neg (Nat.not_lt.2 few)

theorem rejectCommand_of_spent {c : Command} (spent : s.mgmt.settings.retries < c.rejects + 1) :
    s.rejectCommand b c = (((s.countReject b c).removeCommand b c.id).tellOwners c State.toldFailed).raise .commandFailed
      b.val c.failureCode := if_pos spent

theorem modCommand_eq (id : Nat) (g : Command → Command) : s.modCommand b id g = s.setBoard b { s.boards[b] with
    commands := s.boards[b].commands.map (fun c => if c.id = id then g c else c) } := rfl

theorem removeCommand_of_counted {c : Command} (mem : c ∈ s.boards[b].commands) :
    (s.countReject b c).removeCommand b c.id = { s with
      boards := s.boards.set b.val { s.boards[b] with
        rejected := min (s.boards[b].rejected + 1) 65535,
        commands := s.boards[b].commands.filter (fun d => d.id ≠ c.id) },
      tail := { s.tail with commandQueue :=
        s.tail.commandQueue.filter (fun g => !(g.board = b && g.id = c.id)) } } := by
  have mem' : c ∈ (s.countReject b c).boards[b].commands := by rw [countReject_board]; exact mem
  have set_ : ∀ y, (s.countReject b c).boards.set b.val y b.isLt = s.boards.set b.val y b.isLt :=
    fun y => congrArg State.boards (countReject_set (s := s) c y)
  rw [removeCommand_eq mem', set_, countReject_board]
  show _ = { s with
    boards := _, tail := { s.tail with commandQueue := s.tail.commandQueue.filter _ } }
  have frames : (s.countReject b c).tail.commandQueue.filter (fun g => !(decide (g.board = b) && decide (g.id = c.id))) =
      s.tail.commandQueue.filter (fun g => !(decide (g.board = b) && decide (g.id = c.id))) := by
    show List.filter _ (List.filter _ s.tail.commandQueue) = _
    rw [List.filter_filter]
    exact List.filter_congr (fun g _ => Bool.and_self _)
  rw [frames]
  rfl

/-! Answers (R130). -/

section

variable {f : List Byte} {tag : Byte} {c : Command}

theorem takeAnswer_of_bad {src : Byte} {p : List Byte} (bad : s.boardOf src = none ∨ readAnswer p = none) :
    s.takeAnswer src p = s.badBoardFrame := by
  unfold State.takeAnswer
  obtain h | h := bad
  · rw [h]
  · rw [h]
    cases s.boardOf src <;> rfl

section

variable {src : Byte} {p : List Byte} {ack : Bool} (board : s.boardOf src = some b) (read : readAnswer p = some (tag, ack))
include board read

theorem takeAnswer_of_stale (none_ : s.boards[b].inHandshake? tag = none) : s.takeAnswer src p = s.staleAnswer := by
  unfold State.takeAnswer
  rw [board, read]
  dsimp only
  rw [none_]

theorem takeAnswer_of_found (found : s.boards[b].inHandshake? tag = some c) : s.takeAnswer src p =
    if ack then (s.removeCommand b c.id).tellOwners c State.toldCompleted else s.rejectCommand b c := by
  unfold State.takeAnswer
  rw [board, read]
  dsimp only
  rw [found]

end

theorem holdOff_of_kept (kept : s.mgmt.engine = .run ∨ c.op = .stop) : s.holdOff b c =
    s.modCommand b c.id (fun d => { d with
      condition := .holdoff (s.clock.time + s.mgmt.settings.rejectHoldoff) }) := by
  refine if_pos ?_
  rw [Bool.or_eq_true]
  exact kept.imp running_iff.2 (isStop_iff _).2

theorem holdOff_of_dropped (config : s.mgmt.engine = .config) (move : c.op ≠ .stop) :
    s.holdOff b c = s.removeCommand b c.id := by
  refine if_neg ?_
  rw [config_not_running config, Bool.false_or, isStop_iff]
  exact move

/-- A command changed twice is changed once by both. -/
theorem modCommand_modCommand (id : Nat) (g h : Command → Command) (keeps : ∀ d, (g d).id = d.id) :
    (s.modCommand b id g).modCommand b id h = s.modCommand b id (fun d => h (g d)) := by
  unfold State.modCommand
  rw [modBoard_modBoard]
  refine congrArg (s.modBoard b) (funext fun t => ?_)
  have map : ∀ l : List Command, (l.map (fun d => if d.id = id then g d else d)).map (fun d => if d.id = id then h d else d) =
      l.map (fun d => if d.id = id then h (g d) else d) := by
    intro l
    rw [List.map_map]
    refine List.map_congr_left (fun d _ => ?_)
    by_cases same : d.id = id
    · simp [same, keeps]
    · simp [same]
  dsimp only
  rw [map]

/-- A command that is changed leaves with its number all the same. -/
theorem removeCommand_modCommand (id : Nat) (g : Command → Command) (keeps : ∀ d, (g d).id = d.id)
    (mem : c ∈ s.boards[b].commands) (same : c.id = id) :
    (s.modCommand b id g).removeCommand b id = s.removeCommand b id := by
  subst same
  have there : ∃ d ∈ (s.modCommand b c.id g).boards[b].commands, d.id = c.id := by
    rw [modCommand_eq]
    refine ⟨g c, ?_, keeps c⟩
    simp only [State.setBoard, Fin.getElem_fin, Vector.getElem_set_self]
    exact List.mem_map.2 ⟨c, mem, if_pos rfl⟩
  obtain ⟨d, mem', same⟩ := there
  have removed := removeCommand_eq mem'
  rw [same] at removed
  rw [removed, removeCommand_eq mem, modCommand_eq]
  have filtered : (s.boards[b].commands.map (fun d => if d.id = c.id then g d else d)).filter (fun d => decide (d.id ≠ c.id))
      = s.boards[b].commands.filter (fun d => decide (d.id ≠ c.id)) := by
    induction s.boards[b].commands with
    | nil => rfl
    | cons d l ih =>
      by_cases at_ : d.id = c.id
      · simpa [at_, keeps] using ih
      · simpa [at_] using ih
  simp only [State.setBoard, Fin.getElem_fin, Vector.getElem_set_self, Vector.set_set]
  simp only [Fin.getElem_fin] at filtered
  rw [filtered]

end

/-! Owners told (R110, R115, R117, R121). -/

theorem enterFault_boardBusy (unhomed : s.figs[x].state ≠ .unhomed) (fault : s.figs[x].state ≠ .fault) :
    s.enterFault x .boardBusy = s.inFault x .boardBusy := enterFault_of_still _ unhomed fault (.inr rfl)

/-- A figure whose MOVE or HOME is rejected for good: in FAULT with its current given back, its zones kept. -/
theorem busyFault_facts (unhomed : s.figs[x].state ≠ .unhomed) (fault : s.figs[x].state ≠ .fault) :
    ((s.enterFault x .boardBusy).releaseCurrent x).figs[x].state = .fault ∧
    ((s.enterFault x .boardBusy).releaseCurrent x).figs[x].faultCause = some .boardBusy ∧
    ((s.enterFault x .boardBusy).releaseCurrent x).figs[x].admitted = none ∧
    ((s.enterFault x .boardBusy).releaseCurrent x).zones = s.zones := by
  have rec_ : ((s.enterFault x .boardBusy).releaseCurrent x).figs[x] =
      { s.figs[x].faulted .boardBusy with admitted := none } := by
    unfold State.releaseCurrent
    rw [enterFault_boardBusy unhomed fault, modFig_figs_self, inFault_fig]
  rw [rec_]
  exact ⟨rfl, rfl, rfl, by rw [State.releaseCurrent, State.modFig_zones, enterFault_zones]⟩

section

variable (target : Nat) (way : Way) (speed : Nat)

theorem toldCompleted_of_starting (state : s.figs[x].state = .starting) :
    s.toldCompleted (.move target way speed) x = s.modFig x (fun y => { y with
      state := .moving, travelDeadline := some (s.now + stallLimit y.legDistance y.legSpeed) }) := if_pos state

theorem toldCompleted_move_of_other (state : s.figs[x].state ≠ .starting) :
    s.toldCompleted (.move target way speed) x = s := if_neg state

theorem toldFailed_of_starting (state : s.figs[x].state = .starting) :
    s.toldFailed (.move target way speed) x = (s.enterFault x .boardBusy).releaseCurrent x := if_pos state

theorem toldFailed_move_of_other (state : s.figs[x].state ≠ .starting) :
    s.toldFailed (.move target way speed) x = s := if_neg state

end

theorem toldFailed_of_homing (state : s.figs[x].state = .homing) :
    s.toldFailed .home x = (s.enterFault x .boardBusy).releaseCurrent x := if_pos state

theorem toldFailed_of_stopping (state : s.figs[x].state = .stopping) :
    s.toldFailed .stop x = s.enterFault x .boardBusy := if_pos state

/-- Settles O44: an answer matched, and what each outcome tells a figure by its state. -/
theorem boardAnswers : Obligations.BoardAnswers := by
  intro s f fixed p bad stale
  have carried : exec (.boardAnswer f) s = .next (s.takeAnswer (frameSrc f) p) :=
    congrArg Host.Outcome.next (if_pos fixed)
  refine ⟨fun unread => ?_, fun b tag ack board read => ⟨fun none_ => ?_, fun c found => ?_⟩⟩
  · rw [carried, takeAnswer_of_bad unread]
    rfl
  · rw [carried, takeAnswer_of_stale board read none_]
    rfl
  · have mem : c ∈ s.boards[b].commands := List.mem_of_find?_eq_some found
    have answer : exec (.boardAnswer f) s = .next (if ack then (s.removeCommand b c.id).tellOwners c State.toldCompleted
        else s.rejectCommand b c) := by
      rw [carried, takeAnswer_of_found board read found]
    intro removed counted left
    have removedIs : s.removeCommand b c.id = removed := removeCommand_eq mem
    refine ⟨fun yes => ?_, fun no few kept => ?_, fun no few config move => ?_, fun no spent => ?_, ?_, ?_, ?_, ?_, ?_⟩
    · rw [answer, if_pos yes, removedIs]
      rfl
    · rw [answer, if_neg (by rw [no]; exact nofun), rejectCommand_of_retries few, holdOff_of_kept (by exact kept),
        modCommand_modCommand _ _ _ (by exact fun d => rfl), modCommand_eq, countReject_set, countReject_board]
      rfl
    · rw [answer, if_neg (by rw [no]; exact nofun), rejectCommand_of_retries few, holdOff_of_dropped (by exact config) move,
        removeCommand_modCommand _ _ (by exact fun d => rfl) (by rw [countReject_board]; exact mem) rfl,
        removeCommand_of_counted mem]
    · rw [answer, if_neg (by rw [no]; exact nofun), rejectCommand_of_spent spent, removeCommand_of_counted mem]
      rfl
    · intro u x target way speed state
      obtain ⟨fault, cause, released, zones⟩ := busyFault_facts (s := u) (x := x) (by rw [state]; exact nofun)
        (by rw [state]; exact nofun)
      rw [toldFailed_of_starting target way speed state]
      exact ⟨toldCompleted_of_starting target way speed state, fault, cause, released, zones⟩
    · intro u x state
      have busy := inFault_fig (s := u) (x := x) .boardBusy
      rw [toldFailed_of_stopping state, enterFault_boardBusy (by rw [state]; exact nofun) (by rw [state]; exact nofun), busy]
      exact ⟨if_pos (.inl state), rfl, rfl, rfl⟩
    · intro u x state
      obtain ⟨fault, cause, released, zones⟩ := busyFault_facts (s := u) (x := x) (by rw [state]; exact nofun)
        (by rw [state]; exact nofun)
      rw [toldFailed_of_homing state]
      exact ⟨if_pos state, fault, cause, released, zones⟩
    · intro u x state
      exact ⟨if_pos (.inr state), if_neg (by rw [state]; exact nofun)⟩
    · intro u x target way speed
      exact ⟨fun other => ⟨if_neg other, if_neg other⟩, fun other => ⟨if_neg other, if_neg other⟩,
        fun stopping fault => ⟨if_neg (by rintro (h | h) <;> contradiction), if_neg stopping⟩, rfl, rfl⟩

end

end Sys2Proof.Machine

/-! Statuses of boards, and boards that become ABSENT (R42, R118, R131 to R133). -/

namespace Sys2Proof.Machine

section

variable {s t u : State} {x : Fin 16} {b : Fin 32}

/-! A status taken (R132). -/

theorem modBoard_raise (k : EventKind) (m n) (g : BoardState → BoardState) :
    (s.raise k m n).modBoard b g = (s.modBoard b g).raise k m n := rfl

theorem statusArrives_eq (rail : Nat) : s.statusArrives b rail = { s with
    boards := s.boards.set b.val { s.boards[b] with
      presence := .present, rail := if rail = 0 then none else some rail,
      statusDeadline := some (s.clock.time + s.mgmt.settings.statusTimeout),
      statusTaken := min (s.boards[b].statusTaken + 1) 65535 },
    mgmt := if s.boards[b].presence = .present then s.mgmt else (s.raise .boardPresent b.val 0).mgmt } := by
  unfold State.statusArrives
  dsimp only
  by_cases present : s.boards[b].presence = .present
  · rw [if_pos present, if_pos present, modBoard_modBoard, modBoard_eq, ← present]
    rfl
  · rw [if_neg present, if_neg present, modBoard_modBoard, modBoard_raise, modBoard_modBoard, modBoard_eq]
    rfl

/-- The management unit at the arrival of a status keeps its settings. -/
theorem boardPresent_settings : (if s.boards[b].presence = .present then s.mgmt
    else (s.raise .boardPresent b.val 0).mgmt).settings = s.mgmt.settings := by
  split
  · rfl
  · exact congrArg Written.settings (backdrop_raise s _ _ _).written

/-- The board's record once a status has arrived. -/
def statusRecord (s : State) (b : Fin 32) (rail : Nat) : BoardState := { s.boards[b] with
  presence := .present, rail := if rail = 0 then none else some rail,
  statusDeadline := some (s.clock.time + s.mgmt.settings.statusTimeout),
  statusTaken := min (s.boards[b].statusTaken + 1) 65535 }

/-- The state in which a status has arrived and left the record `r` at its board. -/
def arrival (s : State) (b : Fin 32) (r : BoardState) : State := { s with
  boards := s.boards.set b.val r,
  mgmt := if s.boards[b].presence = .present then s.mgmt else (s.raise .boardPresent b.val 0).mgmt }

theorem statusArrives_modBoard (rail : Nat) (g : BoardState → BoardState) :
    (s.statusArrives b rail).modBoard b g = arrival s b (g (statusRecord s b rail)) := by
  rw [statusArrives_eq, modBoard_eq]
  simp [statusRecord, arrival]

/-! The coil flags (R42). -/

section

variable {flags : Vector Bool 16} {i : Fin 48}

theorem coilFlag_parts : ∃ bells mgmt, s.coilFlag b flags i = { s with bells := bells, mgmt := mgmt } ∧
    mgmt.settings = s.mgmt.settings := by
  unfold State.coilFlag
  dsimp only
  split
  · exact ⟨_, _, rfl, congrArg Written.settings (backdrop_raise (s.setBell i _) .coilFault _ _).written⟩
  · exact ⟨s.bells, s.mgmt, rfl, rfl⟩

theorem coilFlag_other {j : Fin 48} (ne : j ≠ i) : (s.coilFlag b flags i).bells[j] = s.bells[j] := by
  have ne' : i.val ≠ j.val := fun h => ne (Fin.ext h.symm)
  unfold State.coilFlag
  dsimp only
  split
  · simp [State.raise, State.modMgmt, State.setBell, ne']
  · rfl

theorem unavailable_self {d : BellState} {v : Bool} (e : d.unavailable = v) : d = { d with unavailable := v } := by
  rw [← e]

theorem coilFlag_self : (s.coilFlag b flags i).bells[i] = if s.bellRecs[i].enabled = true ∧ s.bellRecs[i].board = b
    then { s.bells[i] with unavailable := flags[s.bellRecs[i].channel] } else s.bells[i] := by
  unfold State.coilFlag
  dsimp only
  by_cases ours : s.bellRecs[i].enabled = true ∧ s.bellRecs[i].board = b
  · rw [if_pos ours]
    split
    · exact setBell_get _ _
    · next same =>
      exact unavailable_self (not_not.1 (fun ne => same ⟨ours.1, ours.2, ne⟩))
  · rw [if_neg ours, if_neg (fun h => ours ⟨h.1, h.2.1⟩)]

/-- The flags of a status, bell by bell: each bell has its own decided once. -/
theorem coilFlags_bell (l : List (Fin 48)) (once : l.Nodup) (v : State) (recs : v.bellRecs = s.bellRecs) :
    (l.foldl (fun t j => t.coilFlag b flags j) v).bells[i] =
      if i ∈ l ∧ s.bellRecs[i].enabled = true ∧ s.bellRecs[i].board = b
      then { v.bells[i] with unavailable := flags[s.bellRecs[i].channel] } else v.bells[i] := by
  induction l generalizing v with
  | nil => simp
  | cons j l ih =>
    obtain ⟨away, once⟩ := List.nodup_cons.1 once
    have recs' : (v.coilFlag b flags j).bellRecs = s.bellRecs := by
      obtain ⟨bells, mgmt, e, -⟩ := coilFlag_parts (s := v) (b := b) (flags := flags) (i := j)
      rw [e]
      exact recs
    rw [List.foldl_cons, ih once _ recs']
    by_cases same : i = j
    · subst same
      rw [if_neg (fun h => away h.1), coilFlag_self]
      simp only [recs, List.mem_cons_self, true_and]
    · rw [coilFlag_other same]
      simp [same]

theorem coilFlags_parts (l : List (Fin 48)) (v : State) : ∃ bells mgmt,
    l.foldl (fun t j => t.coilFlag b flags j) v = { v with bells := bells, mgmt := mgmt } ∧
    mgmt.settings = v.mgmt.settings := by
  induction l generalizing v with
  | nil => exact ⟨v.bells, v.mgmt, rfl, rfl⟩
  | cons j l ih =>
    obtain ⟨bells, mgmt, one, settings⟩ := coilFlag_parts (s := v) (b := b) (flags := flags) (i := j)
    obtain ⟨bells', mgmt', rest, settings'⟩ := ih (v.coilFlag b flags j)
    refine ⟨bells', mgmt', ?_, ?_⟩
    · rw [List.foldl_cons, rest, one]
    · rw [settings', one, settings]

end

section

variable {src : Byte} {p : List Byte} (board : s.boardOf src = some b)
include board

theorem takeStatus_of_bell_read {rail : Nat} {flags : Vector Bool 16} (kind : s.boardRecs[b].kind = .bell)
    (read : readBellStatus p = some (rail, flags)) : s.takeStatus src p = s.takeBellStatus b rail flags := by
  unfold State.takeStatus
  rw [board]
  dsimp only
  rw [kind]
  dsimp only
  rw [read]

theorem takeStatus_of_bell_unread (kind : s.boardRecs[b].kind = .bell) (read : readBellStatus p = none) :
    s.takeStatus src p = s.badBoardFrame := by
  unfold State.takeStatus
  rw [board]
  dsimp only
  rw [kind]
  dsimp only
  rw [read]

theorem takeStatus_of_motion_read {rail : Nat} {rs : Vector ChanReport 4} (kind : s.boardRecs[b].kind = .motion)
    (read : readMotionStatus p = some (rail, rs)) : s.takeStatus src p = s.takeMotionStatus b rail rs := by
  unfold State.takeStatus
  rw [board]
  dsimp only
  rw [kind]
  dsimp only
  rw [read]

theorem takeStatus_of_motion_unread (kind : s.boardRecs[b].kind = .motion) (read : readMotionStatus p = none) :
    s.takeStatus src p = s.badBoardFrame := by
  unfold State.takeStatus
  rw [board]
  dsimp only
  rw [kind]
  dsimp only
  rw [read]

end

theorem takeStatus_of_unknown {src : Byte} {p : List Byte} (unknown : s.boardOf src = none) :
    s.takeStatus src p = s.badBoardFrame := by
  unfold State.takeStatus
  rw [unknown]

/-- What every status that is taken does: to its board, and to nothing else but the rest of the board's record. -/
def Taken (b : Fin 32) (rail : Nat) (s t : State) : Prop :=
  t.boards[b].presence = .present ∧ t.boards[b].rail = (if rail = 0 then none else some rail) ∧
  t.boards[b].statusDeadline = some (s.clock.time + s.mgmt.settings.statusTimeout) ∧
  t.boards[b].statusTaken = min (s.boards[b].statusTaken + 1) 65535 ∧
  (∀ c : Fin 32, c ≠ b → t.boards[c].presence = s.boards[c].presence) ∧
  t.written = s.written ∧ t.clock = s.clock ∧ t.launch = s.launch ∧ t.strikeAccount = s.strikeAccount

theorem takeMotionStatus_eq {rail : Nat} {rs : Vector ChanReport 4} : s.takeMotionStatus b rail rs =
    (List.finRange 4).foldl (fun v ch => v.judgeAfter (match v.figureOf b ch with
      | some x => v.figureStatus x rs[ch]
      | none => v)) ((s.statusArrives b rail).modBoard b (fun r => { r with motors := rs })) := by
  generalize start : (s.statusArrives b rail).modBoard b (fun r => { r with motors := rs }) = v
  show State.motionStatus ((s.statusArrives b rail).modBoard b (fun r => { r with motors := rs })) b rs = _
  rw [start]
  rfl

/-- A state whose changes beside the bells are the board's record and the events raised. -/
theorem taken_of {rail : Nat} {r : BoardState} {bells : Vector BellState 48} {mgmt : Management}
    (presence : r.presence = .present) (rails : r.rail = if rail = 0 then none else some rail)
    (deadline : r.statusDeadline = some (s.clock.time + s.mgmt.settings.statusTimeout))
    (counted : r.statusTaken = min (s.boards[b].statusTaken + 1) 65535) (settings : mgmt.settings = s.mgmt.settings) :
    Taken b rail s { s with boards := s.boards.set b.val r, mgmt := mgmt, bells := bells } := by
  have own : (s.boards.set b.val r)[b] = r := by simp
  refine ⟨?_, ?_, ?_, ?_, fun c ne => ?_, by simp only [State.written, settings], rfl, rfl, rfl⟩
  · exact (congrArg _ own).trans presence
  · exact (congrArg _ own).trans rails
  · exact (congrArg _ own).trans deadline
  · exact (congrArg _ own).trans counted
  · have ne' : b.val ≠ c.val := fun h => ne (Fin.ext h.symm)
    simp [ne']

theorem takeBellStatus_eq {rail : Nat} {flags : Vector Bool 16} : s.takeBellStatus b rail flags =
    (indices 48).foldl (fun t i => t.coilFlag b flags i)
      (arrival s b { statusRecord s b rail with coilFlags := flags }) := by
  unfold State.takeBellStatus
  rw [statusArrives_modBoard]

theorem takeBellStatus_facts {rail : Nat} {flags : Vector Bool 16} :
    let t := s.takeBellStatus b rail flags
    Taken b rail s t ∧ t.boards[b].coilFlags = flags ∧
      t.boards[b].commands = s.boards[b].commands ∧ t.figs = s.figs ∧ t.runs = s.runs ∧ t.zones = s.zones ∧
      ∀ i : Fin 48,
        (s.bellRecs[i].enabled = true → s.bellRecs[i].board = b →
          t.bells[i] = { s.bells[i] with unavailable := flags[s.bellRecs[i].channel] }) ∧
        ((s.bellRecs[i].enabled = false ∨ s.bellRecs[i].board ≠ b) → t.bells[i] = s.bells[i]) := by
  have whole : s.takeBellStatus b rail flags = _ := takeBellStatus_eq
  obtain ⟨bells, mgmt, parts, settings⟩ := coilFlags_parts (b := b) (flags := flags) (indices 48) (arrival s b
    { statusRecord s b rail with coilFlags := flags })
  intro t
  have shape : t = _ := whole.trans parts
  have bell (i : Fin 48) := coilFlags_bell (s := s) (b := b) (flags := flags) (i := i) (indices 48)
    (List.nodup_finRange 48) (arrival s b { statusRecord s b rail with coilFlags := flags }) rfl
  rw [← whole] at bell
  refine ⟨?_, ?_, ?_, by rw [shape]; rfl, by rw [shape]; rfl, by rw [shape]; rfl,
    fun i => ⟨fun on ours => ?_, fun out => ?_⟩⟩
  · rw [shape]
    exact taken_of rfl rfl rfl rfl (settings.trans boardPresent_settings)
  · rw [shape]
    simp [arrival]
  · rw [shape]
    simp [arrival, statusRecord]
  · exact (bell i).trans (if_pos ⟨List.mem_finRange _, on, ours⟩)
  · refine (bell i).trans (if_neg fun ⟨_, on, ours⟩ => ?_)
    exact out.elim (fun off => nomatch off.symm.trans on) (fun ne => ne ours)

/-- Settles O45: the arrival of a status, the bells by their flags, and the figures by their channels. -/
theorem boardStatuses : Obligations.BoardStatuses := by
  intro s f fixed bad
  have carried : exec (.boardStatus f) s = .next (s.takeStatus (frameSrc f) (framePayload f)) :=
    congrArg Host.Outcome.next (if_pos fixed)
  refine ⟨fun unknown => carried.trans (congrArg _ (takeStatus_of_unknown unknown)), fun b rail board => ?_⟩
  intro taken
  refine ⟨fun kind unread => carried.trans (congrArg _ (takeStatus_of_bell_unread board kind unread)),
    fun kind unread => carried.trans (congrArg _ (takeStatus_of_motion_unread board kind unread)),
    fun flags kind read => ?_, fun rs kind read => ?_⟩
  · refine ⟨_, carried.trans (congrArg _ (takeStatus_of_bell_read board kind read)), ?_⟩
    exact takeBellStatus_facts (s := s) (b := b)
  · have arrived := statusArrives_modBoard (s := s) (b := b) rail (fun r => { r with motors := rs })
    refine ⟨(s.statusArrives b rail).modBoard b (fun r => { r with motors := rs }), ?_, ?_, ?_, ?_, ?_, ?_, ?_, ?_, ?_, ?_,
      carried.trans (congrArg _ ((takeStatus_of_motion_read board kind read).trans takeMotionStatus_eq))⟩
    · rw [arrived]
      exact taken_of rfl rfl rfl rfl boardPresent_settings
    · rw [arrived]
      simp [arrival]
    · rw [arrived]
      simp [arrival, statusRecord]
    all_goals rw [arrived]; rfl

end

end Sys2Proof.Machine

/-! Boards that become ABSENT: their figures, and the deadlines of answers and of statuses (R118, R131, R133). -/

namespace Sys2Proof.Machine

section

variable {s t u : State} {x : Fin 16} {b : Fin 32}

/-! A figure of an ABSENT board (R118). -/

theorem absentFigure_of_other (other : s.figRecs[x].board ≠ b) : s.absentFigure b x = s := if_neg other

theorem absentFigure_of_out (board : s.figRecs[x].board = b)
    (out : s.figRecs[x].enabled = false ∨ s.figs[x].state = .unhomed ∨ s.figs[x].state = .fault) :
    s.absentFigure b x = s.releaseCurrent x := by
  have still : (if s.figRecs[x].enabled then s.enterFault x .boardAbsent else s) = s := by
    obtain off | out := out
    · rw [off]
      rfl
    · rw [enterFault_of_out _ out, ite_self]
  exact (if_pos board).trans (congrArg (State.releaseCurrent · x) still)

theorem absentFigure_of_in (board : s.figRecs[x].board = b) (on : s.figRecs[x].enabled = true)
    (unhomed : s.figs[x].state ≠ .unhomed) (fault : s.figs[x].state ≠ .fault) :
    s.absentFigure b x = (s.inFault x .boardAbsent).releaseCurrent x := by
  have faults : (if s.figRecs[x].enabled then s.enterFault x .boardAbsent else s) = s.inFault x .boardAbsent := by
    rw [if_pos on, enterFault_of_still _ unhomed fault (.inr rfl)]
  exact (if_pos board).trans (congrArg (State.releaseCurrent · x) faults)

theorem releaseCurrent_fig : (s.releaseCurrent x).figs[x] = { s.figs[x] with admitted := none } :=
  modFig_figs_self s x _

theorem absentFigure_of_in_fig (board : s.figRecs[x].board = b) (on : s.figRecs[x].enabled = true)
    (unhomed : s.figs[x].state ≠ .unhomed) (fault : s.figs[x].state ≠ .fault) :
    (s.absentFigure b x).figs[x] = { s.figs[x].faulted .boardAbsent with admitted := none } := by
  rw [absentFigure_of_in board on unhomed fault, releaseCurrent_fig, inFault_fig]

@[simp] theorem yard_absentFigure : (s.absentFigure b x).yard = s.yard := by
  by_cases board : s.figRecs[x].board = b
  · by_cases out : s.figRecs[x].enabled = false ∨ s.figs[x].state = .unhomed ∨ s.figs[x].state = .fault
    · rw [absentFigure_of_out board out, yard_releaseCurrent]
    · push Not at out
      rw [absentFigure_of_in board (Bool.eq_true_of_not_eq_false out.1) out.2.1 out.2.2, yard_releaseCurrent,
        yard_inFault]
  · rw [absentFigure_of_other board]

theorem figStep_absentFigure (b : Fin 32) (v : State) (y : Fin 16) : FigStep y v (v.absentFigure b y) := by
  unfold State.absentFigure
  split
  · split <;> simp [FigStep.refl]
  · exact .refl y v

/-- The moves that a figure loses at a fault and that fail by it (R117). -/
def Figure.losing (y : Figure) : Nat :=
  (match y.current with
    | some m => if m.withdrawn then 0 else 1
    | none => 0) + (if y.nextMove = none then 0 else 1)

theorem bothFailed_eq (y : Figure) : y.bothFailed =
    if y.losing = 0 then y.movesFailed else min (y.movesFailed + y.losing) 65535 := by
  have current : y.currentFailed = y.movesFailed ∧ (match y.current with
        | some m => if m.withdrawn then 0 else 1
        | none => 0) = 0 ∨
      y.currentFailed = min (y.movesFailed + 1) 65535 ∧ (match y.current with
        | some m => if m.withdrawn then 0 else 1
        | none => 0) = 1 := by
    unfold Figure.currentFailed
    cases y.current with
    | none => exact .inl ⟨rfl, rfl⟩
    | some m => cases h : m.withdrawn <;> simp [h]
  unfold Figure.bothFailed Figure.losing
  obtain ⟨e, n⟩ | ⟨e, n⟩ := current <;> rw [e, n] <;> split <;> simp
  omega

/-- What the loss of a board does to one of its figures, the figure's record and the rest of the state. -/
theorem absentFigure_facts (board : s.figRecs[x].board = b) :
    (s.absentFigure b x).figs[x].admitted = none ∧
    (s.figRecs[x].enabled = true → s.figs[x].state ≠ .unhomed → s.figs[x].state ≠ .fault →
      (s.absentFigure b x).figs[x].state = .fault ∧ (s.absentFigure b x).figs[x].faultCause = some .boardAbsent) := by
  refine ⟨?_, fun on unhomed fault => ?_⟩
  · by_cases out : s.figRecs[x].enabled = false ∨ s.figs[x].state = .unhomed ∨ s.figs[x].state = .fault
    · rw [absentFigure_of_out board out, releaseCurrent_fig]
    · push Not at out
      rw [absentFigure_of_in_fig board (Bool.eq_true_of_not_eq_false out.1) out.2.1 out.2.2]
  · rw [absentFigure_of_in_fig board on unhomed fault]
    exact ⟨rfl, rfl⟩

/-! The figures of a board in turn (R118, R145). -/

section

variable {g : State → Fin 16 → State} (step : ∀ (v : State) (y : Fin 16), FigStep y v (g v y))
include step

/-- With no show queued nothing is judged between figures. -/
theorem foldl_judge_of_empty (l : List (Fin 16)) {v : State} (empty : v.showUnit.queue = []) :
    l.foldl (fun t y => t.judgeAfter (g t y)) v = l.foldl g v := by
  induction l generalizing v with
  | nil => rfl
  | cons y l ih =>
    have still : (g v y).showUnit.queue = [] := (congrArg ShowUnit.queue (step v y).showUnit).trans empty
    rw [List.foldl_cons, List.foldl_cons, judgeAfter_of_empty _ _ still]
    exact ih still

end

theorem foldl_yard {g : State → Fin 16 → State} (keeps : ∀ (v : State) (y : Fin 16), (g v y).yard = v.yard)
    (l : List (Fin 16)) (v : State) : (l.foldl g v).yard = v.yard := by
  induction l generalizing v with
  | nil => rfl
  | cons y l ih => rw [List.foldl_cons, ih, keeps]

/-- A board whose commands and frames have gone, with its presence and its rail (R133). -/
def State.boardGone (s : State) (b : Fin 32) (timedOut : Nat) : State := { s with
  boards := s.boards.set b.val { s.boards[b] with
    presence := .absent, rail := none, statusDeadline := none, commands := [], timedOut := timedOut },
  tail := { s.tail with commandQueue := s.tail.commandQueue.filter (fun g =>
    !(g.board = b && s.boards[b].commands.any (fun c => c.id = g.id))) } }

theorem boardAbsent_eq (c : AbsenceCause) : s.boardAbsent b c =
    ((List.finRange 16).foldl (fun t x => t.judgeAfter (t.absentFigure b x))
      (s.boardGone b s.boards[b].timedOut)).raise .boardAbsent b.val c.code := by
  have gone : (s.modBoard b (fun r => { r with presence := .absent, rail := none, statusDeadline := none })).withdrawCommands
      b (fun _ => true) = s.boardGone b s.boards[b].timedOut := by
    rw [withdrawCommands_eq, modBoard_self, modBoard_eq]
    simp [State.boardGone]
  unfold State.boardAbsent State.absentFigures indices
  dsimp only
  rw [gone]

theorem boardGone_modBoard (n : Nat) (g : Nat → Nat) :
    (s.modBoard b (fun r => { r with timedOut := g r.timedOut })).boardGone b n = s.boardGone b n := by
  unfold State.boardGone
  rw [modBoard_self, modBoard_eq]
  simp

theorem boardAbsent_of_counted (c : AbsenceCause) (g : Nat → Nat) :
    (s.modBoard b (fun r => { r with timedOut := g r.timedOut })).boardAbsent b c =
    ((List.finRange 16).foldl (fun t x => t.judgeAfter (t.absentFigure b x))
      (s.boardGone b (g s.boards[b].timedOut))).raise .boardAbsent b.val c.code := by
  rw [boardAbsent_eq, boardGone_modBoard, modBoard_self]

/-- The loss of a board with no show queued: its list and frames, its figures, and nothing of the other boards. -/
theorem lost_of_empty (n : Nat) (k : EventKind) (a c : Int) (empty : s.showUnit.queue = []) :
    let t := ((List.finRange 16).foldl (fun t x => t.judgeAfter (t.absentFigure b x)) (s.boardGone b n)).raise k a c
    t.yard = (s.boardGone b n).yard ∧ ∀ x : Fin 16, s.figRecs[x].board = b → t.figs[x].admitted = none ∧
      (s.figRecs[x].enabled = true → s.figs[x].state ≠ .unhomed → s.figs[x].state ≠ .fault →
        t.figs[x].state = .fault ∧ t.figs[x].faultCause = some .boardAbsent) := by
  have fold := foldl_judge_of_empty (figStep_absentFigure b) (List.finRange 16) (v := s.boardGone b n) empty
  rw [fold]
  refine ⟨?_, fun x board => ?_⟩
  · rw [yard_raise]
    exact foldl_yard (fun v y => yard_absentFigure) _ _
  · obtain ⟨w, before, after⟩ := foldl_at (figStep_absentFigure b) (List.nodup_finRange 16) (List.mem_finRange x)
      (s.boardGone b n)
    have recs : w.figRecs = s.figRecs := before.backdrop.figRecs
    have fig : w.figs[x] = s.figs[x] := before.fig
    have rec_ : w.figRecs[x] = s.figRecs[x] := congrArg (fun r : Vector FigRec 16 => r[x]) recs
    have facts := absentFigure_facts (s := w) (x := x) (b := b) (by rw [rec_]; exact board)
    rw [rec_, fig] at facts
    rw [State.raise_figs, after.fig]
    exact facts

/-! The timed-out command (R131). -/

theorem find?_of_only {α : Type} {l : List α} {p : α → Bool} {c : α} (mem : c ∈ l) (yes : p c = true)
    (only : ∀ d ∈ l, d ≠ c → p d = false) : l.find? p = some c := by
  cases found : l.find? p with
  | none => exact absurd yes (List.find?_eq_none.1 found c mem)
  | some d =>
    refine congrArg some (not_not.1 (fun ne => ?_))
    have no := only d (List.mem_of_find?_eq_some found) ne
    exact Bool.noConfusion (no.symm.trans (List.find?_some found))

theorem timedOutCommand_of_only {c : Command} {timer : Time} (mem : c ∈ s.boards[b].commands)
    (out : c.condition = .outstanding timer) (due : timer ≤ s.clock.time)
    (only : ∀ d ∈ s.boards[b].commands, d ≠ c → ∀ u, d.condition = .outstanding u → s.clock.time < u) :
    s.timedOutCommand b = some c := by
  refine find?_of_only mem ?_ (fun d at_ ne => ?_)
  · rw [out]
    exact decide_eq_true due
  · cases h : d.condition with
    | outstanding u => exact decide_eq_false (Int.not_le.2 (only d at_ ne u h))
    | _ => rfl

theorem timedOutCommand_of_none (none_ : ∀ c ∈ s.boards[b].commands, ∀ timer, c.condition = .outstanding timer →
    s.clock.time < timer) : s.timedOutCommand b = none := by
  refine List.find?_eq_none.2 (fun d at_ => ?_)
  cases h : d.condition with
  | outstanding u => exact fun due => absurd (of_decide_eq_true due) (Int.not_le.2 (none_ d at_ u h))
  | _ => exact nofun

theorem enterResend_of_kept {c : Command} (kept : s.mgmt.engine = .run ∨ c.op = .stop) : s.enterResend b c =
    (s.modCommand b c.id (fun d => { d with condition := .resend, resendUsed := true })).fillQueue := by
  refine if_pos ?_
  rw [Bool.or_eq_true]
  exact kept.imp running_iff.2 (isStop_iff _).2

theorem enterResend_of_dropped {c : Command} (config : s.mgmt.engine = .config) (move : c.op ≠ .stop) :
    s.enterResend b c = s.removeCommand b c.id := by
  refine if_neg ?_
  rw [config_not_running config, Bool.false_or, isStop_iff]
  exact move

theorem answerTimeoutOf_eq {c : Command} (out : s.timedOutCommand b = some c) : s.answerTimeoutOf b =
    if c.resendUsed then (s.modBoard b (fun t => { t with timedOut := inc16 t.timedOut })).boardAbsent b .answerTimeout
    else (s.modBoard b (fun t => { t with timedOut := inc16 t.timedOut })).enterResend b c := by
  unfold State.answerTimeoutOf
  rw [out]

/-- Settles O47: the loss of a board, the figures that it takes down, and the timeouts of answers. -/
theorem boardDeadlines : Obligations.BoardDeadlines := by
  intro s b lost gone absent counted
  have lostOf : ∀ n k, s.showUnit.queue = [] → lost (absent n k) := by
    intro n k empty
    obtain ⟨yard, figures⟩ := lost_of_empty (b := b) n .boardAbsent b.val k empty
    have boards := yard_boards yard
    have own : (s.boardGone b n).boards[b] = { s.boards[b] with
        presence := .absent, rail := none, statusDeadline := none, commands := [], timedOut := n } := by
      simp [State.boardGone]
    have self : (absent n k).boards[b] = _ := (congrArg (fun v : Vector BoardState 32 => v[b]) boards).trans own
    refine ⟨?_, ?_, ?_, ?_, fun g mem at_ c listed same => ?_, figures, fun c ne => ?_,
      show (absent n k).zones = (s.boardGone b n).zones from yard_zones yard,
      show (absent n k).launch = (s.boardGone b n).launch from yard_launch yard⟩
    · rw [self]
    · rw [self]
    · rw [self]
    · rw [self]
    · have queue : (absent n k).tail.commandQueue = _ := congrArg TailPort.commandQueue (yard_tail yard)
      rw [queue] at mem
      have stays := (List.mem_filter.1 mem).2
      have dropped : s.boards[b].commands.any (fun d => d.id = g.id) = true :=
        List.any_eq_true.2 ⟨c, listed, decide_eq_true same⟩
      rw [dropped, at_] at stays
      simp at stays
    · have ne' : b.val ≠ c.val := fun h => ne (Fin.ext h.symm)
      refine (congrArg (fun v : Vector BoardState 32 => v[c]) boards).trans ?_
      simp [State.boardGone, ne']
  refine ⟨fun d there deadline due => ⟨?_, lostOf _ _⟩, lostOf _ _, fun u x => ?_, fun c mem timer out due only => ?_,
    fun none_ => ?_⟩
  · refine congrArg Host.Outcome.next ((if_pos ⟨there, reached_of_le deadline due⟩).trans ?_)
    exact boardAbsent_eq _
  · intro fig failing failed
    refine ⟨fun other => absentFigure_of_other other, fun board out => absentFigure_of_out board out,
      fun board on unhomed fault => ?_⟩
    have step := figStep_absentFigure b u x
    have yard := yard_absentFigure (s := u) (x := x) (b := b)
    refine ⟨_, rfl, ?_, step.others, yard_zones yard, yard_boards yard, yard_tail yard, step.launch, step.showUnit,
      step.backdrop.calendar, step.backdrop.written, step.backdrop.clock⟩
    rw [absentFigure_of_in_fig board on unhomed fault, Figure.faulted, bothFailed_eq]
    rfl
  · have found := timedOutCommand_of_only mem out due only
    intro holding
    have counts : exec (.answerTimeout b) s = .next (s.answerTimeoutOf b) := rfl
    rw [counts, answerTimeoutOf_eq found]
    refine ⟨fun used => ?_, fun fresh kept => ?_, fun fresh config move => ?_⟩
    · rw [if_pos used, boardAbsent_of_counted .answerTimeout inc16]
      rfl
    · rw [if_neg (by rw [fresh]; exact nofun), enterResend_of_kept (by exact kept), modCommand_eq, modBoard_self,
        State.setBoard, modBoard_eq]
      simp only [Vector.set_set]
      rfl
    · rw [if_neg (by rw [fresh]; exact nofun), enterResend_of_dropped (by exact config) move,
        removeCommand_eq (by rw [modBoard_self]; exact mem), modBoard_self, modBoard_eq]
      simp only [Vector.set_set]
      rfl
  · exact congrArg Host.Outcome.next (by unfold State.answerTimeoutOf; rw [timedOutCommand_of_none none_])

end

end Sys2Proof.Machine

/-! Commands on their way to the tail port: the end of a holdoff, the places of the command queue, and requests (R128,
R130, R134). -/

namespace Sys2Proof.Machine

section

variable {s t u : State} {b : Fin 32} {c : Command}

/-! Holdoffs that end (R130). -/

theorem endHoldoff_of_only {until_ : Time} (mem : c ∈ s.boards[b].commands) (out : c.condition = .holdoff until_)
    (due : until_ ≤ s.clock.time)
    (only : ∀ d ∈ s.boards[b].commands, d ≠ c → ∀ u, d.condition = .holdoff u → s.clock.time < u) :
    s.endHoldoff b = s.rewait b c := by
  unfold State.endHoldoff
  rw [find?_of_only mem]
  · rw [out]
    exact decide_eq_true due
  · intro d at_ ne
    cases h : d.condition with
    | holdoff u => exact decide_eq_false (Int.not_le.2 (only d at_ ne u h))
    | _ => rfl

theorem endHoldoff_of_none (none_ : ∀ c ∈ s.boards[b].commands, ∀ u, c.condition = .holdoff u → s.clock.time < u) :
    s.endHoldoff b = s := by
  unfold State.endHoldoff
  rw [List.find?_eq_none.2]
  intro d at_
  cases h : d.condition with
  | holdoff u => exact fun due => absurd (of_decide_eq_true due) (Int.not_le.2 (none_ d at_ u h))
  | _ => exact nofun

theorem rewait_of_kept (kept : s.mgmt.engine = .run ∨ c.op = .stop) :
    s.rewait b c = (s.modCommand b c.id (fun d => { d with condition := .waiting })).fillQueue := by
  refine if_pos ?_
  rw [Bool.or_eq_true]
  exact kept.imp running_iff.2 (isStop_iff _).2

theorem rewait_of_dropped (config : s.mgmt.engine = .config) (move : c.op ≠ .stop) :
    s.rewait b c = s.removeCommand b c.id := by
  refine if_neg ?_
  rw [config_not_running config, Bool.false_or, isStop_iff]
  exact move

/-! The commands that wait for a place (R128). -/

theorem unplaced_iff : s.unplaced b c = true ↔ (c.condition = .waiting ∨ c.condition = .resend) ∧
    ∀ g ∈ s.tail.commandQueue, g.board = b → g.id ≠ c.id := by
  unfold State.unplaced
  rw [Bool.and_eq_true, Bool.not_eq_true', List.any_eq_false]
  refine and_congr ?_ ⟨fun none_ g at_ board same => none_ g at_ ?_, fun none_ g at_ => ?_⟩
  · cases c.condition <;> simp
  · rw [Bool.and_eq_true]
    exact ⟨decide_eq_true board, decide_eq_true same⟩
  · rw [Bool.and_eq_true, decide_eq_true_iff, decide_eq_true_iff]
    exact fun h => none_ g at_ h.1 h.2

theorem mem_unplacedCommands : (b, c) ∈ s.unplacedCommands ↔ c ∈ s.boards[b].commands ∧
    (c.condition = .waiting ∨ c.condition = .resend) ∧ ∀ g ∈ s.tail.commandQueue, g.board = b → g.id ≠ c.id := by
  rw [← unplaced_iff]
  simp [State.unplacedCommands, indices]

theorem firstOffered_mem {l : List (Fin 32 × Command)} {x : Fin 32 × Command} (h : firstOffered l = some x) : x ∈ l := by
  induction l generalizing x with
  | nil => exact nomatch h
  | cons z l ih =>
    unfold firstOffered at h
    cases later : firstOffered l with
    | none =>
      rw [later] at h
      exact Option.some.inj h ▸ List.mem_cons_self
    | some y =>
      rw [later] at h
      have e := Option.some.inj h
      split at e
      · exact e ▸ List.mem_cons_of_mem _ (ih later)
      · exact e ▸ List.mem_cons_self

theorem firstOffered_nil_of_none {l : List (Fin 32 × Command)} (h : firstOffered l = none) : l = [] := by
  cases l with
  | nil => rfl
  | cons z l =>
    unfold firstOffered at h
    split at h <;> exact nomatch h

/-- A command offered before all the others of the list is the one offered first. -/
theorem firstOffered_of_least {l : List (Fin 32 × Command)} {x : Fin 32 × Command} (mem : x ∈ l)
    (least : ∀ y ∈ l, y ≠ x → offeredBefore x.2 y.2 = true ∧ offeredBefore y.2 x.2 = false) :
    firstOffered l = some x := by
  induction l with
  | nil => exact absurd mem List.not_mem_nil
  | cons z l ih =>
    have rest : ∀ y ∈ l, y ≠ x → offeredBefore x.2 y.2 = true ∧ offeredBefore y.2 x.2 = false :=
      fun y at_ => least y (List.mem_cons_of_mem _ at_)
    unfold firstOffered
    by_cases same : z = x
    · subst same
      cases later : firstOffered l with
      | none => rfl
      | some y =>
        by_cases dup : y = z
        · rw [dup]
          exact congrArg some (ite_self _)
        · exact congrArg some (if_neg (by rw [(rest y (firstOffered_mem later) dup).2]; exact nofun))
    · obtain rfl | mem := List.mem_cons.1 mem
      · exact absurd rfl same
      · rw [ih mem rest]
        exact congrArg some (if_pos (least z List.mem_cons_self same).1)

/-- The class of a command that waits for a place (R128). -/
theorem offerClass_eq (waits : c.condition = .waiting ∨ c.condition = .resend) :
    c.offerClass = if c.condition = .resend then 0 else if c.op = .stop then 1 else 2 := by
  unfold Command.offerClass
  obtain e | e := waits
  · rw [e, if_neg (show ¬CommandCondition.waiting = .resend from nofun)]
    exact if_congr (isStop_iff _) rfl rfl
  · rw [e, if_pos rfl]

theorem offeredBefore_of_lt {c d : Command}
    (before : c.offerClass < d.offerClass ∨ (c.offerClass = d.offerClass ∧ c.id < d.id)) :
    offeredBefore c d = true ∧ offeredBefore d c = false := by
  unfold offeredBefore
  rw [← Bool.not_eq_true, Bool.or_eq_true, Bool.or_eq_true, Bool.and_eq_true, Bool.and_eq_true]
  simp only [decide_eq_true_eq]
  omega

theorem placeNext_of_first (first : firstOffered s.unplacedCommands = some (b, c)) :
    s.placeNext = s.placeFrame b c.id := by
  unfold State.placeNext
  rw [first]

theorem placeNext_of_none (none_ : s.unplacedCommands = []) : s.placeNext = s := by
  unfold State.placeNext
  rw [none_]
  rfl

/-! A command that joins its list (R128). -/

theorem atRest_iff (k : CommandCondition) : k.atRest = true ↔ k = .waiting ∨ ∃ u, k = .holdoff u := by
  cases k <;> simp [CommandCondition.atRest, CommandCondition.isWaiting, CommandCondition.isHoldoff]

/-- The STOP's place in the list: behind the commands that let it stand behind them, ahead of the first that does not. -/
theorem insertStop_eq (x : Command) {ahead behind : List Command}
    (lets : ∀ c ∈ ahead, (c.condition = .waiting ∨ ∃ u, c.condition = .holdoff u) → c.op = .stop)
    (yields : ∀ c rest, behind = c :: rest →
      (c.condition = .waiting ∨ ∃ u, c.condition = .holdoff u) ∧ c.op ≠ .stop) :
    insertStop x (ahead ++ behind) = ahead ++ x :: behind := by
  have passes : ∀ c : Command, (c.condition.atRest && !c.op.isStop) = true ↔
      (c.condition = .waiting ∨ ∃ u, c.condition = .holdoff u) ∧ c.op ≠ .stop := by
    intro c
    rw [Bool.and_eq_true, atRest_iff, Bool.not_eq_true', ← Bool.not_eq_true, isStop_iff]
  induction ahead with
  | nil =>
    cases behind with
    | nil => rfl
    | cons c rest => exact if_pos ((passes c).2 (yields c rest rfl))
  | cons c ahead ih =>
    refine (if_neg (fun h => ?_)).trans (congrArg (List.cons c) (ih (fun d at_ => lets d (List.mem_cons_of_mem _ at_))))
    exact ((passes c).1 h).2 (lets c List.mem_cons_self ((passes c).1 h).1)

/-! A STOP that withdraws, and a STOP that is served (R128). -/

theorem yieldsTo_iff (n : Fin 4) : c.yieldsTo (some n) = true ↔ c.channel = some n ∧ c.op ≠ .stop ∧ c.op ≠ .clearFault ∧
    (c.condition = .waiting ∨ ∃ u, c.condition = .holdoff u) := by
  have op : c.op.isMoveOrHome = true ↔ c.op ≠ .stop ∧ c.op ≠ .clearFault := by
    cases c.op <;> simp [CommandOp.isMoveOrHome]
  unfold Command.yieldsTo
  rw [Bool.and_eq_true, Bool.and_eq_true, Bool.and_eq_true, atRest_iff, op]
  simp [and_assoc]

theorem servesStop_iff (n : Fin 4) : c.servesStop (some n) = true ↔
    c.op = .stop ∧ c.condition = .waiting ∧ (c.channel = some n ∨ c.channel = none) := by
  have waits : c.condition.isWaiting = true ↔ c.condition = .waiting := by
    cases c.condition <;> simp [CommandCondition.isWaiting]
  unfold Command.servesStop
  rw [Bool.and_eq_true, Bool.and_eq_true, Bool.and_eq_true, isStop_iff, waits]
  simp [and_assoc]

theorem addOwner_eq (ch : Option (Fin 4)) (o : Option (Fin 16)) {ahead behind : List Command}
    (none_ : ∀ d ∈ ahead, d.servesStop ch = false) (serves : c.servesStop ch = true) :
    addOwner ch o (ahead ++ c :: behind) = ahead ++ { c with owners := c.owners ++ o.toList } :: behind := by
  induction ahead with
  | nil => exact if_pos serves
  | cons d ahead ih =>
    exact (if_neg (by rw [none_ d List.mem_cons_self]; exact nofun)).trans
      (congrArg (List.cons d) (ih (fun e at_ => none_ e (List.mem_cons_of_mem _ at_))))

theorem requestCommand_stop (ch : Option (Fin 4)) (o : Option (Fin 16)) (there : s.boards[b].presence ≠ .absent) :
    s.requestCommand b .stop ch o =
      if (s.withdrawCommands b (Command.yieldsTo ch)).boards[b].commands.any (Command.servesStop ch) then
        ((s.withdrawCommands b (Command.yieldsTo ch)).modBoard b
          (fun t => { t with commands := addOwner ch o t.commands }), true)
      else ((s.withdrawCommands b (Command.yieldsTo ch)).joinCommands b .stop ch o, true) :=
  (if_neg there).trans (if_pos rfl)

/-- A STOP for ALL channels withdraws nothing. -/
theorem withdrawCommands_of_all : s.withdrawCommands b (Command.yieldsTo none) = s := by
  have commands : s.boards[b].commands.filter (fun c => !c.yieldsTo none) = s.boards[b].commands :=
    List.filter_eq_self.2 (fun _ _ => rfl)
  have frames : s.tail.commandQueue.filter (fun g =>
      !(g.board = b && s.boards[b].commands.any (fun c => c.id = g.id && c.yieldsTo none))) = s.tail.commandQueue := by
    refine List.filter_eq_self.2 (fun g _ => ?_)
    rw [show s.boards[b].commands.any (fun c => c.id = g.id && c.yieldsTo none) = false from
      List.any_eq_false.2 (fun c _ => by simp [Command.yieldsTo]), Bool.and_false]
    rfl
  have boards : s.boards.set b.val s.boards[b] = s.boards := by simp
  rw [withdrawCommands_eq, commands, frames]
  exact congrArg (fun v => { s with boards := v }) boards

/-- Settles O48: the end of a holdoff, one placing, and what a request does to its board's list. -/
theorem commandsArePlaced : Obligations.CommandsArePlaced := by
  refine ⟨fun s b => ⟨fun c mem until_ out due only => ⟨fun kept => ?_, fun config move => ?_⟩, fun none_ => ?_⟩,
    fun s => ?_, fun s b op channel owner => ?_, fun s b n owner kept => ?_⟩
  · refine congrArg Host.Outcome.next ((endHoldoff_of_only mem out due only).trans ?_)
    exact rewait_of_kept kept
  · refine congrArg Host.Outcome.next ((endHoldoff_of_only mem out due only).trans ?_)
    rw [rewait_of_dropped config move, removeCommand_eq mem]
  · exact congrArg Host.Outcome.next (endHoldoff_of_none none_)
  · intro rank placed
    refine ⟨fun b c => mem_unplacedCommands, fun b c mem least => ?_, fun none_ => ?_⟩
    · have waits : ∀ y ∈ s.unplacedCommands, y.2.offerClass = rank y.2 :=
        fun y at_ => offerClass_eq (mem_unplacedCommands.1 at_).2.1
      have first : firstOffered s.unplacedCommands = some (b, c) := by
        refine firstOffered_of_least mem (fun y at_ ne => offeredBefore_of_lt ?_)
        rw [waits _ mem, waits y at_]
        exact least y at_ ne
      refine ⟨fun room => ?_, fun full => ?_⟩
      · have one : s.placeNext = placed b c := (placeNext_of_first first).trans (if_pos room)
        exact ⟨congrArg Host.Outcome.next one, (fillQueue_of_room s room _ first).trans (congrArg State.fillQueue one)⟩
      · refine ⟨congrArg Host.Outcome.next ((placeNext_of_first first).trans (if_neg (Nat.not_lt.2 full))),
          fillQueue_of_full s full⟩
    · exact ⟨congrArg Host.Outcome.next (placeNext_of_none none_), fillQueue_of_none s (by rw [none_]; rfl)⟩
  · intro all new joined unsent
    have join : s.joinCommands b op channel owner =
        (joined (if op.isStop then insertStop new all else all ++ [new])).fillQueue := rfl
    refine ⟨fun move => ?_, fun ahead behind stop split lets yields => ?_, requestCommand_absent s b op channel owner,
      fun there move => ?_, fun there stop all_ => ?_⟩
    · rw [join, if_neg (fun h => move ((isStop_iff op).1 h))]
    · rw [join, if_pos ((isStop_iff op).2 stop), split, insertStop_eq new lets yields]
    · exact requestCommand_of_there channel owner there (Bool.eq_false_iff.2 (fun h => move ((isStop_iff op).1 h)))
    · subst stop all_
      rw [requestCommand_stop _ _ there, withdrawCommands_of_all]
      exact if_neg (by simp [Command.servesStop])
  · intro unsent yields serves left there keeps
    have withdrawn : s.withdrawCommands b (Command.yieldsTo (some n)) = left kept := by
      rw [keeps]
      rfl
    have list : (left kept).boards[b].commands = kept := by simp [left]
    refine ⟨fun c => yieldsTo_iff n, fun none_ => ?_, fun ahead c behind split none_ serve => ?_⟩
    · rw [requestCommand_stop _ _ there, withdrawn, list]
      refine if_neg (fun h => ?_)
      obtain ⟨c, at_, yes⟩ := List.any_eq_true.1 h
      exact none_ c at_ ((servesStop_iff n).1 yes)
    · rw [requestCommand_stop _ _ there, withdrawn, list]
      have some_ : kept.any (Command.servesStop (some n)) = true :=
        List.any_eq_true.2 ⟨c, split ▸ List.mem_append_right _ List.mem_cons_self, (servesStop_iff n).2 serve⟩
      have owned := addOwner_eq (some n) owner (behind := behind)
        (fun d at_ => Bool.eq_false_iff.2 (fun h => none_ d at_ ((servesStop_iff n).1 h))) ((servesStop_iff n).2 serve)
      rw [if_pos some_, modBoard_eq, list, split, owned]
      simp [left]

end

end Sys2Proof.Machine

/-! Writes of the tables (R25, R39, R78 to R80, R100, R126, R136, R139, R140, R155, R156, R171). -/

namespace Sys2Proof.Machine

section

variable {s t u : State}

/-! A judged write, by its outcome (R171). -/

section

variable {α : Type} {size n : Nat} {x : Option α} {valid busy : Fin size → α → Bool} {store : Fin size → α → State}

theorem judgeWrite_of_out (out : size ≤ n) : judgeWrite size n x valid busy store s = (.badIndex, s) := by
  unfold judgeWrite
  rw [fin?_of_le out]

theorem judgeWrite_of_bad (within : n < size) (bad : x = none) :
    judgeWrite size n x valid busy store s = (.badValue, s) := by
  unfold judgeWrite
  rw [show fin? size n = some ⟨n, within⟩ from fin?_val (⟨n, within⟩ : Fin size), bad]

variable {i : Fin size} {r : α}

theorem judgeWrite_of_some : judgeWrite size i.val (some r) valid busy store s =
    if !valid i r then (.badValue, s) else if busy i r then (.busy, s) else (.ok, store i r) := by
  unfold judgeWrite
  rw [fin?_val]

theorem judgeWrite_of_invalid (no : valid i r = false) :
    judgeWrite size i.val (some r) valid busy store s = (.badValue, s) := by
  rw [judgeWrite_of_some, no]
  rfl

theorem judgeWrite_of_busy (yes : valid i r = true) (held : busy i r = true) :
    judgeWrite size i.val (some r) valid busy store s = (.busy, s) := by
  rw [judgeWrite_of_some, yes, held]
  rfl

theorem judgeWrite_of_ok (yes : valid i r = true) (free : busy i r = false) :
    judgeWrite size i.val (some r) valid busy store s = (.ok, store i r) := by
  rw [judgeWrite_of_some, yes, free]
  rfl

variable {f : List Byte} {row : RequestRow} {q : Request} (reached : s.reaches f row = true)
  (read : readRequest (framePayload f) = some q)
include reached read

/-- A request whose effect is known is answered with its status. -/
theorem request_answers {st : Status} (out : carryOut q s = plainReply (st, u)) (node : u.node = s.node) :
    Host.Outcome.next (s.requestFrame f row) = (.next (u.respond f (Reply.plain st)) : Host.Outcome State Fault Refusal) :=
  congrArg Host.Outcome.next (requestFrame_answers reached read out node)

/-- A write of an index or a record that the table does not take. -/
theorem write_refused (out : carryOut q s = plainReply (judgeWrite size n x valid busy store s)) :
    (size ≤ n → Host.Outcome.next (s.requestFrame f row) =
      (.next (s.respond f (Reply.plain .badIndex)) : Host.Outcome State Fault Refusal)) ∧
    (n < size → x = none → Host.Outcome.next (s.requestFrame f row) =
      (.next (s.respond f (Reply.plain .badValue)) : Host.Outcome State Fault Refusal)) :=
  ⟨fun beyond => request_answers reached read (out.trans (congrArg plainReply (judgeWrite_of_out beyond))) rfl,
    fun within bad => request_answers reached read (out.trans (congrArg plainReply (judgeWrite_of_bad within bad))) rfl⟩

/-- A write that its table takes. -/
theorem write_taken (out : carryOut q s = plainReply (judgeWrite size i.val (some r) valid busy store s))
    (yes : valid i r = true) (free : busy i r = false) (node : (store i r).node = s.node) :
    Host.Outcome.next (s.requestFrame f row) =
      (.next ((store i r).respond f (Reply.plain .ok)) : Host.Outcome State Fault Refusal) :=
  request_answers reached read (out.trans (congrArg plainReply (judgeWrite_of_ok yes free))) node

/-- A write that its busy rule forbids. -/
theorem write_busy (out : carryOut q s = plainReply (judgeWrite size i.val (some r) valid busy store s))
    (yes : valid i r = true) (held : busy i r = true) : Host.Outcome.next (s.requestFrame f row) =
      (.next (s.respond f (Reply.plain .busy)) : Host.Outcome State Fault Refusal) :=
  request_answers reached read (out.trans (congrArg plainReply (judgeWrite_of_busy yes held))) rfl

end

theorem inConfig_of_config (config : s.mgmt.engine = .config) (w : Status × State) : inConfig s w = w :=
  if_neg (by rw [config_not_running config]; exact nofun)

theorem inConfig_of_run (run : s.mgmt.engine = .run) (w : Status × State) : inConfig s w = (.wrongState, s) :=
  if_pos (running_iff.2 run)

theorem config_write (config : s.mgmt.engine = .config) (w : Status × State) :
    plainReply (inConfig s w) = plainReply w := congrArg plainReply (inConfig_of_config config w)

/-! The shadow bank (R155). -/

theorem modShadow_of_a (active : s.calendar.active = .a) (g : Bank → Bank) :
    s.modCalendar (fun c => c.modBank c.active.other g) =
      { s with calendar := { s.calendar with bankB := g s.calendar.bankB } } := by
  show { s with calendar := s.calendar.modBank s.calendar.active.other g } = _
  rw [active]
  rfl

theorem modShadow_of_b (active : s.calendar.active = .b) (g : Bank → Bank) :
    s.modCalendar (fun c => c.modBank c.active.other g) =
      { s with calendar := { s.calendar with bankA := g s.calendar.bankA } } := by
  show { s with calendar := s.calendar.modBank s.calendar.active.other g } = _
  rw [active]
  rfl

theorem writeSchedule_of_pending (item : ScheduleItem) (pending : s.calendar.pendingSwitch ≠ none) :
    s.writeSchedule 0 item = (.busy, s) :=
  (if_neg nofun).trans (if_pos (Option.isSome_iff_ne_none.2 pending))

section

variable (idle : s.calendar.pendingSwitch = none)
include idle

theorem writeSchedule_of_entry (i : Fin 64) (e : SchedEntry) : s.writeSchedule 0 (.entry i (some e)) =
    (.ok, s.modCalendar (fun c => c.modBank c.active.other
      (fun b => { b with entries := b.entries.set i.val e i.isLt }))) :=
  (if_neg nofun).trans (if_neg (by rw [idle]; exact nofun))

theorem writeSchedule_of_header (cycle count : Nat) : s.writeSchedule 0 (.header (some (cycle, count))) =
    (.ok, s.modCalendar (fun c => c.modBank c.active.other (fun b => { b with cycle := cycle, count := count }))) :=
  (if_neg nofun).trans (if_neg (by rw [idle]; exact nofun))

theorem writeSchedule_of_out : s.writeSchedule 0 .badIndex = (.badIndex, s) :=
  (if_neg nofun).trans (if_neg (by rw [idle]; exact nofun))

theorem writeSchedule_of_bad {item : ScheduleItem} (bad : (∃ i, item = .entry i none) ∨ item = .header none) :
    s.writeSchedule 0 item = (.badValue, s) := by
  obtain ⟨i, rfl⟩ | rfl := bad
  · exact (if_neg nofun).trans (if_neg (by rw [idle]; exact nofun))
  · exact (if_neg nofun).trans (if_neg (by rw [idle]; exact nofun))

end

/-- Settles O57: each table's check of the index, then of the fields. -/
theorem badWritesAreRefused : Obligations.BadWritesAreRefused := by
  intro s f badIndex badValue refuses
  refine ⟨fun n x reached read => write_refused reached read rfl, fun n x reached read => write_refused reached read rfl,
    fun n x reached read => write_refused reached read rfl, fun n x reached read => write_refused reached read rfl,
    fun n x reached read => write_refused reached read rfl, fun n x reached read => write_refused reached read rfl,
    fun n x reached read => write_refused reached read rfl, fun n x reached read => write_refused reached read rfl,
    fun n x reached read config => write_refused reached read (config_write config _),
    fun n x reached read config => write_refused reached read (config_write config _),
    fun n x reached read config => write_refused reached read (config_write config _), fun reached idle => ?_⟩
  refine ⟨fun read => request_answers reached read (congrArg plainReply (writeSchedule_of_out idle)) rfl, fun bad => ?_⟩
  obtain ⟨i, read⟩ | read := bad
  · exact request_answers reached read (congrArg plainReply (writeSchedule_of_bad idle (.inl ⟨i, rfl⟩))) rfl
  · exact request_answers reached read (congrArg plainReply (writeSchedule_of_bad idle (.inr rfl))) rfl

/-! The busy rules of the tables (R80, R139, R140). -/

theorem motifsInUse_iff (m : Fin 64) : s.motifsInUse.contains m = true ↔
    ∃ k : Fin 4, s.runs[k].state ≠ .free ∧ ∃ x ∈ s.runs[k].stack, x.motif = m := by
  have each : ∀ k : Fin 4, (m ∈ if s.runs[k].state = .free then [] else s.runs[k].stack.map (fun f => f.motif)) ↔
      s.runs[k].state ≠ .free ∧ ∃ x ∈ s.runs[k].stack, x.motif = m := by
    intro k
    simp
  rw [List.contains_iff_mem, State.motifsInUse, List.mem_flatMap]
  simp only [each]
  exact ⟨fun ⟨k, _, h⟩ => ⟨k, h⟩, fun ⟨k, h⟩ => ⟨k, List.mem_finRange k, h⟩⟩

theorem rowBusy_iff (i : Fin 1024) : s.rowBusy i = true ↔ ∃ m : Fin 64,
    (∃ k : Fin 4, s.runs[k].state ≠ .free ∧ ∃ x ∈ s.runs[k].stack, x.motif = m) ∧ s.motifDirs[m].firstRow ≤ i.val ∧
      i.val < s.motifDirs[m].firstRow + s.motifDirs[m].rowCount := by
  unfold State.rowBusy
  rw [List.any_eq_true]
  refine exists_congr (fun m => and_congr ?_ ?_)
  · rw [← List.contains_iff_mem, motifsInUse_iff]
  · rw [Bool.and_eq_true, decide_eq_true_iff, decide_eq_true_iff]

theorem moveBusy_iff (i : Fin 512) : s.moveBusy i = true ↔ ∃ w : Fin 32,
    ((∃ q ∈ s.showUnit.queue, q.showId = w) ∨ ∃ k : Fin 4, s.runs[k].state ≠ .free ∧ s.runs[k].showId = some w) ∧
      s.shows[w].firstMove ≤ i.val ∧ i.val < s.shows[w].firstMove + s.shows[w].moveCount := by
  unfold State.moveBusy
  rw [List.any_eq_true]
  refine exists_congr (fun w => ?_)
  rw [Bool.and_eq_true, Bool.and_eq_true, showInUse_iff, decide_eq_true_iff, decide_eq_true_iff, and_assoc]
  exact and_iff_right (List.mem_finRange w)

/-- Settles O55: each table's record replaced alone, and its busy rule. -/
theorem tableWrites : Obligations.TableWrites := by
  intro s f reading used ok busy
  refine ⟨fun i x reached read => write_taken reached read rfl rfl rfl rfl, fun i x reached read => ⟨fun no => ?_, fun yes => ?_⟩,
    fun i x reached read => ?_, fun i x reached read => ⟨fun no => ?_, fun yes => ?_⟩,
    fun i x reached read => ?_, fun i x reached read => write_taken reached read rfl rfl rfl rfl⟩
  · exact write_taken reached read rfl rfl (Bool.eq_false_iff.2 (fun h => no ((motifsInUse_iff i).1 h))) rfl
  · exact write_busy reached read rfl rfl ((motifsInUse_iff i).2 yes)
  · intro inRange
    exact ⟨fun no => write_taken reached read rfl rfl (Bool.eq_false_iff.2 (fun h => no ((rowBusy_iff i).1 h))) rfl,
      fun yes => write_busy reached read rfl rfl ((rowBusy_iff i).2 yes)⟩
  · exact write_taken reached read rfl rfl (Bool.eq_false_iff.2 (fun h => no ((showInUse_iff i).1 h))) rfl
  · exact write_busy reached read rfl rfl ((showInUse_iff i).2 yes)
  · intro inShow
    exact ⟨fun no => write_taken reached read rfl rfl (Bool.eq_false_iff.2 (fun h => no ((moveBusy_iff i).1 h))) rfl,
      fun yes => write_busy reached read rfl rfl ((moveBusy_iff i).2 yes)⟩

/-! The effects of records on what they describe (R39, R41, R100, R101, R126, R136). -/

theorem storeBell_eq (i : Fin 48) (x : BellRec) : s.storeBell i x = { s with
    bellRecs := s.bellRecs.set i.val x,
    bells := s.bells.set i.val { s.bells[i] with
      heat := min s.bells[i].heat x.heatLimit,
      unavailable := s.bells[i].unavailable && decide (s.bellRecs[i].board = x.board ∧
        s.bellRecs[i].channel = x.channel) } } := by
  rw [Bool.decide_and, ← Bool.and_assoc]
  rfl

theorem figureApart_iff (i : Fin 16) (x : FigRec) : s.figureApart i x = true ↔ (x.enabled = true → ∀ g : Fin 16, g ≠ i →
    s.figRecs[g].enabled = true → s.figRecs[g].board ≠ x.board ∨ s.figRecs[g].channel ≠ x.channel) := by
  unfold State.figureApart
  rw [Bool.or_eq_true, Bool.not_eq_true', List.all_eq_true]
  have each : ∀ g : Fin 16, (decide (g = i) || !s.figRecs[g].enabled ||
      !(decide (s.figRecs[g].board = x.board) && decide (s.figRecs[g].channel = x.channel))) = true ↔
      (g ≠ i → s.figRecs[g].enabled = true → s.figRecs[g].board ≠ x.board ∨ s.figRecs[g].channel ≠ x.channel) := by
    intro g
    simp only [Bool.or_eq_true, Bool.not_eq_true', decide_eq_true_eq, ← Bool.not_eq_true, Bool.and_eq_true]
    tauto
  constructor
  · rintro (off | all) on g
    · exact nomatch off.symm.trans on
    · exact (each g).1 (all g (List.mem_finRange g))
  · intro h
    cases on : x.enabled with
    | false => exact .inl rfl
    | true => exact .inr (fun g _ => (each g).2 (h on g))

theorem figureBusy_iff (i : Fin 16) : s.figureBusy i = false ↔ s.figs[i].state = .unhomed ∨ s.figs[i].state = .idle ∨
    (s.figs[i].state = .fault ∧ s.figs[i].admitted = none) := by
  unfold State.figureBusy
  rw [Bool.not_eq_false', Bool.or_eq_true, Bool.or_eq_true, clearable_iff, decide_eq_true_iff, decide_eq_true_iff, or_assoc]

theorem moved_iff (r x : FigRec) : r.moved x = false ↔ r.enabled = x.enabled ∧ r.board = x.board ∧
    r.channel = x.channel ∧ r.kind = x.kind ∧ r.span = x.span ∧ r.home = x.home ∧ r.spans = x.spans := by
  simp only [FigRec.moved, Bool.or_eq_false_iff, bne_eq_false_iff_eq, and_assoc]

theorem storeFigure_of_same (i : Fin 16) (x : FigRec)
    (still : s.figRecs[i].moved x = false ∨ s.figs[i].state = .unhomed) :
    s.storeFigure i x = { s with figRecs := s.figRecs.set i.val x } := by
  refine if_neg ?_
  rw [Bool.and_eq_true, bne_iff_ne]
  obtain h | h := still
  · rw [h]
    exact fun k => nomatch k.1
  · exact fun k => k.2 h

theorem storeFigure_of_moved (i : Fin 16) (x : FigRec) (moved : s.figRecs[i].moved x = true)
    (homed : s.figs[i].state ≠ .unhomed) : s.storeFigure i x = { s with
      figRecs := s.figRecs.set i.val x,
      figs := s.figs.set i.val { s.figs[i] with
        state := .unhomed, position := none, faultCause := none, flags := ChanReport.clear, needed := [] },
      zones := s.zones.map (fun h => if h = some i then none else h) } := by
  refine (if_pos ?_).trans ?_
  · rw [Bool.and_eq_true, bne_iff_ne]
    exact ⟨moved, homed⟩
  · rw [unhome_of_same (s := s) (u := s.setFigRec i x) i rfl rfl]
    unfold State.modFig State.setFig
    simp

theorem storeFigure_node (i : Fin 16) (x : FigRec) : (s.storeFigure i x).node = s.node := by
  unfold State.storeFigure
  dsimp only
  split
  · rw [unhome_eq]
    rfl
  · rfl

theorem storeBoard_of_same (i : Fin 32) (x : BoardRec) (same : s.boardRecs[i].changed x = false) :
    s.storeBoard i x = { s with boardRecs := s.boardRecs.set i.val x } := if_neg (by rw [same]; exact nofun)

theorem storeBoard_of_changed (i : Fin 32) (x : BoardRec) (other : s.boardRecs[i].changed x = true) :
    s.storeBoard i x = { s with
      boardRecs := s.boardRecs.set i.val x, boards := s.boards.set i.val BoardState.initial } := if_pos other

theorem boardBusy_iff (i : Fin 32) : s.boardBusy i = false ↔ s.boards[i].commands = [] ∧
    ∀ g : Fin 16, s.figRecs[g].board = i → s.figs[g].admitted = none := by
  unfold State.boardBusy
  rw [Bool.or_eq_false_iff, Bool.not_eq_false', List.isEmpty_iff, List.any_eq_false]
  refine and_congr Iff.rfl ⟨fun h g board => ?_, fun h g _ k => ?_⟩
  · cases e : s.figs[g].admitted with
    | none => rfl
    | some a =>
      refine absurd ?_ (h g (List.mem_finRange g))
      rw [Bool.and_eq_true]
      exact ⟨decide_eq_true board, by rw [e]; rfl⟩
  · rw [Bool.and_eq_true, decide_eq_true_iff] at k
    rw [h g k.1] at k
    exact nomatch k.2

theorem changed_iff (r x : BoardRec) : r.changed x = false ↔ r.enabled = x.enabled ∧ r.address = x.address ∧
    r.kind = x.kind := by
  simp only [BoardRec.changed, Bool.or_eq_false_iff, bne_eq_false_iff_eq, and_assoc]

theorem groupBusy_iff (g : Fin 4) : s.groupBusy g = false ↔ (∀ a ∈ s.strikeAccount, a.group ≠ g) ∧
    ∀ x : Fin 16, ∀ ma, s.figs[x].admitted ≠ some (ma, g) := by
  unfold State.groupBusy
  rw [Bool.or_eq_false_iff, Bool.not_eq_false', List.isEmpty_iff, List.any_eq_false]
  refine and_congr (by simp) ?_
  unfold State.motorAccount
  rw [List.filterMap_eq_nil_iff]
  refine ⟨fun h x ma e => ?_, fun h x _ => ?_⟩
  · have none_ := h x (List.mem_finRange x)
    rw [e] at none_
    exact nomatch (if_pos rfl).symm.trans none_
  · cases e : s.figs[x].admitted with
    | none => rfl
    | some a =>
      obtain ⟨ma, k⟩ := a
      exact if_neg (fun same => h x ma (by rw [e, same]))

/-- Settles O56: the records that act on what they describe, and those written in CONFIG alone. -/
theorem recordWrites : Obligations.RecordWrites := by
  intro s f ok
  refine ⟨fun i x reached read => ?_, fun i x reached read => ?_, fun i x reached read => ⟨fun run => ?_, fun config apart
      enabled address kind => ?_, fun config apart other commands figures => ?_⟩, fun i x reached read => ⟨fun run => ?_,
      fun config strikes motors => ?_, fun config held => ?_⟩, fun x reached read => ⟨fun run => ?_, fun config => ?_⟩,
    fun i e reached read => ?_, fun cycle count reached read => ?_, fun item reached read => ?_⟩
  · exact (write_taken reached read rfl rfl rfl rfl).trans (congrArg (fun v : State => Host.Outcome.next (v.respond f ok))
      (storeBell_eq i x))
  · intro r fig apart takes same stored
    have out : carryOut (.writeFigure i.val (some x)) s = plainReply (judgeWrite 16 i.val (some x) s.figureApart
        (fun f _ => s.figureBusy f) (fun f r => s.judgeAfter (s.storeFigure f r)) s) := rfl
    have node : (s.judgeAfter (s.storeFigure i x)).node = s.node :=
      (made_judgeAfter s (Made.refl (s.storeFigure i x))).banked.node.trans (storeFigure_node i x)
    have wellApart := figureApart_iff (s := s) i x
    refine ⟨fun no => ?_, fun yes no => ?_, fun yes free still => ?_, fun yes free other homed => ?_⟩
    · exact request_answers reached read (out.trans (congrArg plainReply (judgeWrite_of_invalid
        (Bool.eq_false_iff.2 (fun h => no (wellApart.1 h)))))) rfl
    · exact write_busy reached read out (wellApart.2 yes) (Bool.not_eq_false _ ▸ fun h => no ((figureBusy_iff i).1 h))
    · refine (write_taken reached read out (wellApart.2 yes) ((figureBusy_iff i).2 free) node).trans ?_
      rw [storeFigure_of_same i x (still.imp_left (moved_iff _ _).2)]
    · refine (write_taken reached read out (wellApart.2 yes) ((figureBusy_iff i).2 free) node).trans ?_
      rw [storeFigure_of_moved i x (Bool.not_eq_false _ ▸ fun h => other ((moved_iff _ _).1 h)) homed]
  · exact request_answers reached read (congrArg plainReply (inConfig_of_run run _)) rfl
  · have same := (changed_iff s.boardRecs[i] x).2 ⟨enabled, address, kind⟩
    refine (write_taken reached read (config_write config _) apart ?_ ?_).trans ?_
    · rw [same]
      rfl
    · rw [storeBoard_of_same i x same]
    · rw [storeBoard_of_same i x same]
  · have changes : s.boardRecs[i].changed x = true := by
      refine Bool.eq_true_of_not_eq_false (fun h => ?_)
      obtain ⟨enabled, address, kind⟩ := (changed_iff _ _).1 h
      obtain ne | ne | ne := other
      · exact ne enabled
      · exact ne address
      · exact ne kind
    refine (write_taken reached read (config_write config _) apart ?_ ?_).trans ?_
    · rw [(boardBusy_iff i).2 ⟨commands, figures⟩, Bool.and_false]
    · rw [storeBoard_of_changed i x changes]
    · rw [storeBoard_of_changed i x changes]
  · exact request_answers reached read (congrArg plainReply (inConfig_of_run run _)) rfl
  · exact write_taken reached read (config_write config _) rfl ((groupBusy_iff i).2 ⟨strikes, motors⟩) rfl
  · obtain ⟨a, mem, group⟩ := held
    refine write_busy reached read (config_write config _) rfl (Bool.eq_true_of_not_eq_false (fun h => ?_))
    exact ((groupBusy_iff i).1 h).1 a mem group
  · exact request_answers reached read (congrArg plainReply (inConfig_of_run run _)) rfl
  · exact write_taken (size := 1) (i := 0) reached read (config_write config _) rfl rfl rfl
  · intro c
    refine ⟨fun pending => ?_, fun idle active => ?_, fun idle active => ?_⟩
    · exact request_answers reached read (congrArg plainReply (writeSchedule_of_pending _ pending)) rfl
    · refine request_answers reached read (congrArg plainReply ((writeSchedule_of_entry idle i e).trans
        (congrArg _ (modShadow_of_a active _)))) rfl
    · refine request_answers reached read (congrArg plainReply ((writeSchedule_of_entry idle i e).trans
        (congrArg _ (modShadow_of_b active _)))) rfl
  · intro c
    refine ⟨fun pending => ?_, fun idle active => ?_, fun idle active => ?_⟩
    · exact request_answers reached read (congrArg plainReply (writeSchedule_of_pending _ pending)) rfl
    · refine request_answers reached read (congrArg plainReply ((writeSchedule_of_header idle cycle count).trans
        (congrArg _ (modShadow_of_a active _)))) rfl
    · refine request_answers reached read (congrArg plainReply ((writeSchedule_of_header idle cycle count).trans
        (congrArg _ (modShadow_of_b active _)))) rfl
  · exact request_answers reached read (congrArg plainReply (if_pos rfl)) rfl

end

end Sys2Proof.Machine

/-! Requests of management that clear and set, requests that cannot be read, and cues that are refused (R76, R94, R142,
R153, R171 to R174). -/

namespace Sys2Proof.Machine

section

variable {s t u : State} {f : List Byte}

/-! The response (R20). -/

/-- A response changes the report queue of the head port or its pending response, and nothing else. -/
theorem respond_eq (s : State) (f : List Byte) (a : Reply) : ∃ queue pending, s.respond f a = { s with
    head := { s.head with reportQueue := queue, pendingResponse := pending } } := by
  unfold State.respond State.placeResponse
  split
  · exact ⟨_, s.head.pendingResponse, rfl⟩
  · exact ⟨s.head.reportQueue, _, rfl⟩

/-- The request of a row is never one that cannot be read. -/
theorem row_ne_unreadable (q : Request) : q.row ≠ .unreadable := by
  cases q <;> exact nofun

theorem readRequest_of_unreadable {p : List Byte} (row : requestRow p = .unreadable) : readRequest p = none := by
  unfold requestRow at row
  cases read : readRequest p with
  | none => rfl
  | some q =>
    rw [read] at row
    exact absurd row (row_ne_unreadable q)

/-- A request that cannot be read but has its tag and its code is answered BAD_REQUEST (R171). -/
theorem requestFrame_unreadable (reached : s.reaches f .unreadable = true) (long : 2 ≤ (framePayload f).length) :
    s.requestFrame f .unreadable = s.respond f (Reply.plain .badRequest) := by
  obtain ⟨path, row, idle⟩ := (reaches_iff s f .unreadable).1 reached
  have fits : (s.fixedPath .head f .management && fitsRequest f .unreadable) = true := by
    unfold State.reaches at reached
    exact ((Bool.and_eq_true _ _).mp reached).1
  have taken : s.takeRequest f = ((s.answerRequest (framePayload f)).2.placeResponse (s.responseFrame f
      (s.answerRequest (framePayload f)).1)).afterEcho (framePayload f) := if_neg (by rw [idle]; exact nofun)
  have answer : s.answerRequest (framePayload f) = (Reply.plain .badRequest, s) := by
    unfold State.answerRequest
    rw [readRequest_of_unreadable row]
  rw [show s.requestFrame f .unreadable = s.takeRequest f from if_pos fits, taken, answer]
  exact if_neg (Nat.not_lt.2 long)

/-! The counters (R76, R172). -/

theorem clearAll_figs (x : Fin 16) : s.clearAll.figs[x] = { s.figs[x] with
    movesArrived := 0, movesFailed := 0, moveReplaced := 0, moveAbandoned := 0 } := by
  show (s.figs.map Figure.clearCounters)[x] = _
  simp [Figure.clearCounters]

theorem clearAll_boards (b : Fin 32) : s.clearAll.boards[b] = { s.boards[b] with
    sent := 0, rejected := 0, timedOut := 0, statusTaken := 0 } := by
  show (s.boards.map BoardState.clearCounters)[b] = _
  simp [BoardState.clearCounters]

/-! Cues that are refused (R173). -/

theorem refuseCue_whole (r : CueReason) (type : Nat) :
    s.refuseCue r type 0 = s.raise .cueRefused r.code (256 * type) := by
  unfold State.refuseCue
  rw [Nat.cast_zero, Int.add_zero]

/-- A cue with a type, refused whole. -/
theorem refusePayload_of_some {p : List Byte} (some_ : p ≠ []) (r : CueReason) :
    s.refusePayload p r = s.raise .cueRefused r.code (256 * u8 p 0) := by
  cases p with
  | nil => exact absurd rfl some_
  | cons b l => exact refuseCue_whole r b.toNat

theorem takeCue_of_config (config : s.mgmt.engine = .config) (p : List Byte) :
    s.takeCue p = s.refusePayload p .notRunning := if_pos (config_not_running config)

theorem readCue_of_unreadable {p : List Byte} (row : cueRow p = .unreadable) : readCue p = none := by
  unfold cueRow at row
  cases read : readCue p with
  | none => rfl
  | some c =>
    rw [read] at row
    cases c <;> exact nomatch row

section

variable (run : s.mgmt.engine = .run)
include run

theorem takeCue_of_unread {p : List Byte} (unread : readCue p = none) : s.takeCue p = s.refusePayload p .badCue := by
  unfold State.takeCue
  rw [running_iff.2 run, unread, if_neg nofun]

theorem takeCue_of_unset {p : List Byte} {c : Cue} (read : readCue p = some c) (timed : c.timed = true)
    (unset : s.clock.state = .unset) : s.takeCue p = s.refusePayload p .clockUnset := by
  unfold State.takeCue
  rw [running_iff.2 run, read, if_neg nofun]
  exact if_pos (by rw [timed, unset]; rfl)

end

/-- A cue that can be read has a type. -/
theorem readCue_some_ne_nil {p : List Byte} {c : Cue} (read : readCue p = some c) : p ≠ [] := by
  rintro rfl
  exact nomatch read

theorem cue_timed_iff (c : Cue) : c.timed = true ↔
    (∃ base es, c = .strike base es ∧ base ≠ 0) ∨
    (∃ m anchor tempo transpose scale count, c = .motifPlay m anchor tempo transpose scale count ∧ anchor ≠ 0) ∨
    (∃ w anchor tempo count, c = .showStart w anchor tempo count ∧ anchor ≠ 0) := by
  cases c <;> simp [Cue.timed]

theorem playMotif_of_out {m : Nat} (out : 64 ≤ m) (anchor tempo : Nat) (transpose : Int) (scale count : Nat) :
    s.playMotif m anchor tempo transpose scale count = s.refuseCue .motifInvalid 2 0 := by
  unfold State.playMotif
  rw [fin?_of_le out]

theorem startShow_of_out {w : Nat} (out : 32 ≤ w) (anchor tempo count : Nat) : s.startShow w anchor tempo count =
    (s.modShowCounters (fun c => c.refuse .invalid)).refuseCue .showInvalid 3 0 := by
  unfold State.startShow
  rw [fin?_of_le out]

theorem cueStop_of_out {w : Nat} (out : 32 ≤ w) : s.cueStop w = s.refuseCue .showInvalid 4 0 := by
  unfold State.cueStop
  rw [fin?_of_le out]

theorem goFigure_of_out {x : Nat} (out : 16 ≤ x) (target pct : Nat) (way : Way) :
    s.goFigure x target pct way = s.refuseCue .figureInvalid 5 0 := by
  unfold State.goFigure
  rw [fin?_of_le out]

/-- Settles O60: the counters cleared, the mask set, the requests that cannot be read, and the cues refused whole. -/
theorem otherRequestsAndCues : Obligations.OtherRequestsAndCues := by
  intro s f
  have framed : ∀ {row : CueRow}, s.cued f row = true → Host.Outcome.next (s.cueFrame f row) =
      (.next (s.takeCue (framePayload f)) : Host.Outcome State Fault Refusal) :=
    fun cued => congrArg Host.Outcome.next (exec_cue_of_cued cued)
  refine ⟨fun reached read => ?_, fun mask reached read => request_answers (st := .ok) reached read rfl rfl,
    fun reached long => congrArg Host.Outcome.next (requestFrame_unreadable reached long),
    fun cued run some_ => ?_, ?_⟩
  · obtain ⟨queue, pending, answered⟩ := respond_eq s.clearAll f (Reply.plain .ok)
    have done := request_answers (st := .ok) (u := s.clearAll) reached read rfl rfl
    rw [answered] at done
    refine ⟨_, done, rfl, rfl, rfl, rfl, rfl, rfl, rfl, rfl, rfl, rfl, rfl, rfl, clearAll_figs, clearAll_boards, rfl, rfl,
      rfl, rfl, rfl⟩
  · refine (framed cued).trans (congrArg Host.Outcome.next ?_)
    rw [takeCue_of_unread run (readCue_of_unreadable ((cued_iff s f _).1 cued).2), refusePayload_of_some some_]
    rfl
  · intro cue refused
    have rows : ∀ row, cue row = .next (s.cueFrame f row) := by
      intro row
      cases row <;> rfl
    refine ⟨fun row cued config some_ => ?_, fun row c cued run unset read timed => ?_,
      fun m anchor tempo transpose scale count cued run read clock out => ?_,
      fun w anchor tempo count cued run read clock out => ?_, fun w cued run read out => ?_,
      fun x target pct way cued run read out => ?_⟩
    · refine (rows row).trans ((framed cued).trans (congrArg Host.Outcome.next ?_))
      rw [takeCue_of_config config, refusePayload_of_some some_]
      rfl
    · refine (rows row).trans ((framed cued).trans (congrArg Host.Outcome.next ?_))
      rw [takeCue_of_unset run read ((cue_timed_iff c).2 timed) unset, refusePayload_of_some (readCue_some_ne_nil read)]
      rfl
    · have timed : (Cue.motifPlay m anchor tempo transpose scale count).timed = false ∨ s.clock.state ≠ .unset :=
        clock.imp_left (fun zero => by rw [zero]; rfl)
      refine congrArg Host.Outcome.next ((cueFrame_carried s f _ _ cued run read timed).trans ?_)
      exact (playMotif_of_out out anchor tempo transpose scale count).trans (refuseCue_whole _ _)
    · have timed : (Cue.showStart w anchor tempo count).timed = false ∨ s.clock.state ≠ .unset :=
        clock.imp_left (fun zero => by rw [zero]; rfl)
      refine congrArg Host.Outcome.next ((cueFrame_carried s f _ _ cued run read timed).trans ?_)
      exact (startShow_of_out out anchor tempo count).trans (refuseCue_whole _ _)
    · refine congrArg Host.Outcome.next ((cueFrame_carried s f _ _ cued run read (.inl rfl)).trans ?_)
      exact (cueStop_of_out out).trans (refuseCue_whole _ _)
    · refine congrArg Host.Outcome.next ((cueFrame_carried s f _ _ cued run read (.inl rfl)).trans ?_)
      exact (goFigure_of_out out target pct way).trans (refuseCue_whole _ _)

end

end Sys2Proof.Machine

/-! Entry times and cycle restarts of the programme calendar (R145, R147, R157, R159). -/

namespace Sys2Proof.Machine

section

variable {s t u : State} {e : SchedEntry}

/-! What the announcement of gates leaves. -/

@[simp] theorem outside_announce (before v : State) : (State.announce before v).outside = v.outside := by
  unfold State.announce
  split
  · simp
  · split <;> simp

@[simp] theorem outside_judgeAfter (before v : State) : (before.judgeAfter v).outside = v.outside := by
  unfold State.judgeAfter; split <;> simp

/-- The calendar is among what the figures, the runs and the shows leave alone. -/
theorem calendar_of_outside (h : t.outside = s.outside) : t.calendar = s.calendar :=
  congrArg (fun x : HeadPort × Calendar => x.2) h

/-! An entry taken (R157). -/

theorem takeEntry_calendar : (s.takeEntry e).calendar = { s.calendar with
    entriesTaken := s.calendar.cycleStart + e.offset, listBells := e.bellGate, listFigures := e.figureGate } := by
  unfold State.takeEntry State.takeGates
  exact calendar_of_outside ((outside_judgeAfter _ _).trans (outside_announce _ _))

theorem takeEntries_of_last (last : s.reachedEntries.getLast? = some e) : s.takeEntries = s.takeEntry e := by
  unfold State.takeEntries
  rw [last]

theorem takeEntries_of_none (none_ : s.reachedEntries = []) : s.takeEntries = s := by
  unfold State.takeEntries
  rw [none_]
  rfl

theorem switchReached_iff : s.switchReached = true ↔
    ∃ base, s.calendar.pendingSwitch = some base ∧ base ≤ s.clock.time := by
  unfold State.switchReached
  cases s.calendar.pendingSwitch with
  | none => simp
  | some base =>
    rw [decide_eq_true_iff]
    exact ⟨fun due => ⟨base, rfl, due⟩, fun ⟨b, same, due⟩ => Option.some.inj same ▸ due⟩

theorem reachSwitch_of_undue (undue : ¬∃ base, s.calendar.pendingSwitch = some base ∧ base ≤ s.clock.time) :
    s.reachSwitch = s := by
  unfold State.reachSwitch
  cases h : s.calendar.pendingSwitch with
  | none => rfl
  | some base => exact if_neg (fun due => undue ⟨base, h, due⟩)

/-! Cycle restarts (R147, R157). -/

theorem restartCycle_of_later (later : s.clock.time < s.calendar.cycleStart + s.calendar.activeBank.cycle) :
    s.restartCycle = s := if_neg (Int.not_le.2 later)

theorem restartCycle_of_reached (due : s.calendar.cycleStart + s.calendar.activeBank.cycle ≤ s.clock.time) :
    s.restartCycle = ((if s.entriesOvertaken then s else s.takeEntries).modCalendar Calendar.nextCycle).cycleTold :=
  if_pos due

theorem entriesOvertaken_iff : s.entriesOvertaken = true ↔
    (∃ base, s.calendar.pendingSwitch = some base ∧ base ≤ s.clock.time) ∨
      (s.modCalendar Calendar.nextCycle).reachedEntries ≠ [] := by
  unfold State.entriesOvertaken
  rw [Bool.or_eq_true, switchReached_iff, Bool.not_eq_true', List.isEmpty_eq_false_iff]

theorem cycleTold_of_empty (empty : s.showUnit.queue = []) : s.cycleTold = s := by
  unfold State.cycleTold
  rw [empty]

section

variable {q : ShowRequest} {rest : List ShowRequest} (queue : s.showUnit.queue = q :: rest)
include queue

theorem cycleTold_of_admissible (yes : s.admissible q = true) : s.cycleTold = s.judgeHead := by
  unfold State.cycleTold
  rw [queue]
  exact if_pos yes

theorem cycleTold_of_blocked (no : s.admissible q = false) : s.cycleTold = s.countCycle := by
  unfold State.cycleTold
  rw [queue]
  exact if_neg (by rw [no]; exact nofun)

theorem countCycle_of_patient (few : q.cyclesWaited + 1 < s.mgmt.settings.starvation) :
    s.countCycle = { s with showUnit := { s.showUnit with
      queue := { q with cyclesWaited := q.cyclesWaited + 1 } :: rest } } := by
  unfold State.countCycle
  rw [queue]
  exact if_neg (Nat.not_le.2 few)

theorem countCycle_of_starved (many : s.mgmt.settings.starvation ≤ q.cyclesWaited + 1) : s.countCycle =
    State.judgeHead (({ s with showUnit := { s.showUnit with
      queue := rest, counters := { s.showUnit.counters with
        starved := min (s.showUnit.counters.starved + 1) 4294967295 } } } : State).raise .showDropped q.showId.val 4) := by
  unfold State.countCycle
  rw [queue]
  exact if_pos many

end

/-- Settles O50: the last entry passed, the restart of the cycle, and what the show unit is told of it. -/
theorem entriesAndRestarts : Obligations.EntriesAndRestarts := by
  intro s c bank passed taken risen switchDue
  refine ⟨fun undue within => ⟨fun e last => ?_, fun none_ => ?_⟩, ⟨_, _, rfl, rfl, fun e last => ?_, fun none_ => ?_⟩,
    fun later => congrArg Host.Outcome.next (restartCycle_of_later later), fun due => ⟨fun overtaken => ?_,
      fun e last undue none_ => ⟨?_, ?_⟩⟩, cycleTold_of_empty, fun q rest queue => ⟨fun yes => ?_, fun no few => ?_, ?_⟩⟩
  · have still : s.nextEntry = s.takeEntries := by
      unfold State.nextEntry
      rw [reachSwitch_of_undue undue, restartCycle_of_later within]
    exact congrArg Host.Outcome.next (still.trans (takeEntries_of_last last))
  · have still : s.nextEntry = s.takeEntries := by
      unfold State.nextEntry
      rw [reachSwitch_of_undue undue, restartCycle_of_later within]
    exact congrArg Host.Outcome.next (still.trans (takeEntries_of_none none_))
  · exact congrArg Host.Outcome.next (takeEntries_of_last last)
  · exact congrArg Host.Outcome.next (takeEntries_of_none none_)
  · have kept : (if s.entriesOvertaken then s else s.takeEntries) = s := by
      obtain none_ | some_ := overtaken
      · rw [takeEntries_of_none none_, ite_self]
      · exact if_pos (entriesOvertaken_iff.2 some_)
    refine congrArg Host.Outcome.next ((restartCycle_of_reached due).trans ?_)
    rw [kept]
    rfl
  · have taking : (if s.entriesOvertaken then s else s.takeEntries) = taken s e := by
      rw [if_neg (fun h => (entriesOvertaken_iff.1 h).elim undue (fun ne => ne none_)), takeEntries_of_last last]
      rfl
    refine congrArg Host.Outcome.next ((restartCycle_of_reached due).trans ?_)
    rw [taking]
    rfl
  · have calendar : (taken s e).calendar = { c with
        entriesTaken := c.cycleStart + e.offset, listBells := e.bellGate, listFigures := e.figureGate } :=
      takeEntry_calendar (s := s) (e := e)
    show (taken s e).calendar.cycleStart + (taken s e).calendar.activeBank.cycle = _
    rw [calendar]
    rfl
  · exact congrArg Host.Outcome.next (cycleTold_of_admissible queue yes).symm
  · rw [cycleTold_of_blocked queue no, countCycle_of_patient queue few]
  · intro u starved no many
    rw [cycleTold_of_blocked queue no, countCycle_of_starved queue many]
    rfl

end

end Sys2Proof.Machine

/-! Triggers and position derivations of the programme calendar (R142, R143, R160 to R162). -/

namespace Sys2Proof.Machine

section

variable {s t u : State} {x : Fin 16}

/-! The gates told to the figures (R114, R116). -/

theorem figStep_holdFigure (v : State) (y : Fin 16) : FigStep y v (v.holdFigure y) := by
  have note : ∀ w : State, FigStep y v w → FigStep y v (w.noteHeld y) := by
    intro w h
    unfold State.noteHeld
    split
    · exact figStep_raise _ _ _ h
    · exact h
  unfold State.holdFigure
  split
  · exact note _ (figStep_stopFigure _ (.refl y v))
  · exact note _ (figStep_stopFigure _ (.refl y v))
  · exact note _ (figStep_stopFigure _ (.refl y v))
  · exact note _ (figStep_modFig _ (.refl y v))
  · exact note _ (figStep_modFig _ (.refl y v))
  all_goals exact .refl y v

theorem figStep_leaveHold (v : State) (y : Fin 16) : FigStep y v (v.leaveHold y) :=
  figStep_raise _ _ _ (figStep_releaseZones _ (figStep_enterWaitZone (.refl y v)))

theorem figStep_resumeFigure (v : State) (y : Fin 16) : FigStep y v (v.resumeFigure y) := by
  unfold State.resumeFigure
  split
  · exact figStep_leaveHold v y
  · exact .refl y v

theorem foldl_backdrop {g : State → Fin 16 → State} (step : ∀ (v : State) (y : Fin 16), FigStep y v (g v y))
    (l : List (Fin 16)) (v : State) : Backdrop v (l.foldl g v) := by
  induction l generalizing v with
  | nil => exact .refl v
  | cons y l ih => exact (step v y).backdrop.trans (ih (g v y))

theorem backdrop_announce (before v : State) : Backdrop v (State.announce before v) := by
  unfold State.announce
  split
  · exact foldl_backdrop figStep_holdFigure _ v
  · split
    · exact foldl_backdrop figStep_resumeFigure _ v
    · exact .refl v

theorem offers_engine (es : List EventRecord) (m : Management) : (es.foldl Management.offer m).engine = m.engine := by
  induction es generalizing m with
  | nil => rfl
  | cons e es ih => rw [List.foldl_cons, ih, Management.offer_engine]

theorem Backdrop.engine (h : Backdrop s t) : t.mgmt.engine = s.mgmt.engine := by
  obtain ⟨es, mgmt⟩ := h.offers
  rw [mgmt, offers_engine]

theorem Backdrop.settings (h : Backdrop s t) : t.mgmt.settings = s.mgmt.settings := congrArg Written.settings h.written

/-! Requests of the calendar (R142, R143). -/

section

variable {w : Fin 32} {count : Nat} {te : Time} {v : Fin 16}

theorem calendarRequest_of_refused {r : ShowRefusal} (judge : s.judgeRequest w s.shows[w].tempo = some r) :
    s.calendarRequest w count te v = (s.refuseShow w s.shows[w].tempo r).raiseDropped w r.dropReason := by
  have tempo : s.requestTempo w 0 = s.shows[w].tempo := if_pos rfl
  unfold State.calendarRequest State.requestShow
  rw [tempo]
  dsimp only
  rw [judge]

theorem calendarRequest_of_queued (judge : s.judgeRequest w s.shows[w].tempo = none) :
    s.calendarRequest w count te v = s.joinShows
      { showId := w, count := count, tempo := s.shows[w].tempo, anchor := some te, origin := .calendar v,
        cyclesWaited := 0 } := by
  have tempo : s.requestTempo w 0 = s.shows[w].tempo := if_pos rfl
  unfold State.calendarRequest State.requestShow
  rw [tempo]
  dsimp only
  rw [judge]

end

/-! Triggers (R160, R161). -/

theorem mayTrigger_iff : s.mayTrigger = true ↔ s.mgmt.engine = .run ∧ s.clock.state ≠ .unset := by
  unfold State.mayTrigger
  rw [Bool.and_eq_true, running_iff, bne_iff_ne]

theorem nextTrigger_of_idle (idle : s.mgmt.engine = .config ∨ s.clock.state = .unset ∨ s.dueTriggers = []) :
    s.nextTrigger = s := by
  by_cases may : s.mayTrigger = true
  · obtain ⟨run, set_⟩ := mayTrigger_iff.1 may
    obtain config | unset | none_ := idle
    · exact nomatch config.symm.trans run
    · exact absurd unset set_
    · refine (if_pos may).trans ?_
      rw [none_]
  · exact if_neg may

theorem nextTrigger_of_due {te : Time} {trigger : Trigger} {more : List (Time × Trigger)} (run : s.mgmt.engine = .run)
    (set_ : s.clock.state ≠ .unset) (due : s.dueTriggers = (te, trigger) :: more) :
    s.nextTrigger = s.judgeAfter (s.issueTrigger te trigger) := by
  refine (if_pos (mayTrigger_iff.2 ⟨run, set_⟩)).trans ?_
  rw [due]

theorem vectorOf_eq {trigger : Trigger} {v : Fin 16} (vector : trigger.vector = v.val) :
    s.vectorOf trigger = (s.calendar.vectors[v]).map (fun w => (v, w)) := by
  unfold State.vectorOf
  rw [vector, fin?_val]

/-- The count of a show that a trigger requests (R160). -/
theorem countAt_eq (source : CountSource) (te : Time) : source.countAt te = (match source with
    | .none => 0
    | .hour12 => (((te % 86400000) / 3600000).toNat + 11) % 12 + 1
    | .hour24 => if ((te % 86400000) / 3600000).toNat = 0 then 24 else ((te % 86400000) / 3600000).toNat
    | .fixed n => n) := by
  cases source <;> rfl

/-! Derivations (R162). -/

theorem settleTriggers_of_idle (idle : s.mgmt.engine = .config ∨ s.clock.state = .unset) :
    s.settleTriggers = { s with calendar := { s.calendar with watermark := min s.calendar.watermark s.clock.time } } := by
  refine if_neg (fun may => ?_)
  obtain ⟨run, set_⟩ := mayTrigger_iff.1 may
  exact idle.elim (fun config => nomatch config.symm.trans run) set_

theorem settleTriggers_of_running (run : s.mgmt.engine = .run) (set_ : s.clock.state ≠ .unset) :
    s.settleTriggers = { s.catchUp with calendar := { s.catchUp.calendar with watermark := s.clock.time } } :=
  if_pos (mayTrigger_iff.2 ⟨run, set_⟩)

theorem catchUp_of_none (none_ : s.dueTriggers = []) : s.catchUp = s := by
  unfold State.catchUp
  rw [none_]
  rfl

theorem catchUp_of_last {earlier : List (Time × Trigger)} {te : Time} {trigger : Trigger}
    (due : s.dueTriggers = earlier ++ [(te, trigger)]) : s.catchUp =
      if s.now - s.settings.catchUp ≤ te then (s.issueTrigger te trigger).missTriggers earlier.length
      else s.missTriggers (earlier.length + 1) := by
  unfold State.catchUp
  rw [due, List.getLast?_append, List.length_append]
  rfl

theorem derivePosition_calendar : s.derivePosition.calendar.watermark = s.calendar.watermark := by
  unfold State.derivePosition
  dsimp only
  rw [calendar_of_outside (outside_announce _ _)]
  rfl

/-- Settles O51: the trigger issued, the request it makes, and the triggers settled at a derivation. -/
theorem triggersAreIssued : Obligations.TriggersAreIssued := by
  refine ⟨fun s => ⟨fun idle => congrArg Host.Outcome.next (nextTrigger_of_idle idle), fun te trigger more run set_ due =>
    congrArg Host.Outcome.next (nextTrigger_of_due run set_ due)⟩, fun s => rfl, fun s te trigger v vector => ?_,
    fun s w count te v => ?_, fun s => ?_⟩
  · intro c issued h count
    refine ⟨fun none_ => ?_, fun w some_ => ?_⟩
    · unfold State.issueTrigger
      rw [vectorOf_eq vector, none_]
      rfl
    · have counts : trigger.source.countAt te = count := countAt_eq trigger.source te
      unfold State.issueTrigger
      rw [vectorOf_eq vector, some_, ← counts]
      rfl
  · intro t u c held joined dropped captured
    refine ⟨fun off => ?_, fun on inUse => ?_, fun on spare unfit => ?_, fun on spare fit full => ?_,
      fun on spare fit room => ?_⟩
    · exact calendarRequest_of_refused (judgeRequest_of_disabled off)
    · exact calendarRequest_of_refused (judgeRequest_of_inUse on ((showInUse_iff w).2 inUse))
    · refine (calendarRequest_of_refused (judgeRequest_of_unfit on (fun h => spare ((showInUse_iff w).1 h)) unfit)).trans ?_
      show State.raiseDropped ((s.modShowCounters (fun c => c.refuse .fitsNowhere)).captureDrop w t) w .fitsNowhere = _
      rw [captureDrop_eq]
      rfl
    · refine calendarRequest_of_refused (r := .queueFull) ?_
      rw [judgeRequest_of_fit on (fun h => spare ((showInUse_iff w).1 h)) fit, if_pos full]
    · refine calendarRequest_of_queued ?_
      rw [judgeRequest_of_fit on (fun h => spare ((showInUse_iff w).1 h)) fit, if_neg (Nat.not_le.2 room)]
  · intro c bank now entries start inForce gates placed marked missed
    have back := backdrop_announce s { s with calendar := { c with
      cycleStart := start, listBells := gates.1, listFigures := gates.2, entriesTaken := now, leadsTaken := now } }
    have clock : placed.clock.time = now := congrArg Clock.time back.clock
    have watermark : placed.calendar.watermark = c.watermark := derivePosition_calendar
    have derives : s.derive = placed.settleTriggers := rfl
    have caughtUp : s.mgmt.engine = .run → s.clock.state ≠ .unset →
        s.derive = marked placed.catchUp now := by
      intro run set_
      rw [derives, settleTriggers_of_running (back.engine.trans run) (fun h => set_ ((congrArg Clock.state back.clock).symm.trans h)),
        clock]
    refine ⟨fun idle => ?_, fun run set_ none_ => ?_, fun earlier te trigger run set_ due => ?_⟩
    · rw [derives, settleTriggers_of_idle (idle.imp back.engine.trans (congrArg Clock.state back.clock).trans), clock,
        watermark]
    · rw [caughtUp run set_, catchUp_of_none none_]
    · have catches := catchUp_of_last due
      rw [show placed.now = now from clock, show placed.settings.catchUp = s.mgmt.settings.catchUp from
        congrArg Settings.catchUp back.settings] at catches
      rw [caughtUp run set_, catches]
      refine ⟨fun within => ?_, fun late => ?_⟩
      · rw [if_pos within]
        rfl
      · rw [if_neg (Int.not_le.2 late)]
        rfl

end

end Sys2Proof.Machine

/-! Season switches (R143, R155, R164, R165). -/

namespace Sys2Proof.Machine

section

variable {s t u : State}

/-! The validation of a bank (R164). -/

theorem ite_some_eq_none_iff {p : Prop} [Decidable p] {i : Nat} {o : Option Nat} :
    (if p then some i else o) = none ↔ ¬p ∧ o = none := by
  split
  · next h => exact iff_of_false nofun (fun k => k.1 h)
  · next h => exact (and_iff_right h).symm

theorem firstFailing_cons_eq_none (cycle i : Nat) (prev : Option Nat) (e : SchedEntry) (es : List SchedEntry) :
    firstFailing cycle i prev (e :: es) = none ↔ (e.offset < cycle ∧ (∀ p, prev = some p → p < e.offset) ∧
      ∀ t, e.trigger = some t → t.vector ≤ 15) ∧ firstFailing cycle (i + 1) (some e.offset) es = none := by
  conv_lhs => unfold firstFailing
  rw [ite_some_eq_none_iff]
  refine and_congr ?_ Iff.rfl
  cases prev <;> cases e.trigger <;> simp

theorem firstFailing_eq_none_iff (cycle : Nat) : ∀ (es : List SchedEntry) (i : Nat) (prev : Option Nat),
    firstFailing cycle i prev es = none ↔ (∀ p, prev = some p → ∀ e ∈ es, p < e.offset) ∧
      es.Pairwise (fun x y => x.offset < y.offset) ∧
      ∀ e ∈ es, e.offset < cycle ∧ ∀ t, e.trigger = some t → t.vector ≤ 15 := by
  intro es
  induction es with
  | nil => simp [firstFailing]
  | cons e es ih =>
    intro i prev
    rw [firstFailing_cons_eq_none, ih, List.pairwise_cons, List.forall_mem_cons]
    constructor
    · rintro ⟨⟨within, above, vectors⟩, rising, pairs, rest⟩
      refine ⟨fun p some_ => List.forall_mem_cons.2 ⟨above p some_, fun d at_ => ?_⟩, ⟨rising e.offset rfl, pairs⟩,
        ⟨within, vectors⟩, rest⟩
      exact (above p some_).trans (rising e.offset rfl d at_)
    · rintro ⟨above, ⟨rising, pairs⟩, ⟨within, vectors⟩, rest⟩
      exact ⟨⟨within, fun p some_ => above p some_ e List.mem_cons_self, vectors⟩,
        fun p same d at_ => Option.some.inj same ▸ rising d at_, pairs, rest⟩

theorem failure_eq_none_iff (b : Bank) : b.failure = none ↔ 60000 ≤ b.cycle ∧ b.cycle ≤ 604800000 ∧
    (b.entries.toList.take b.count).Pairwise (fun x y => x.offset < y.offset) ∧
    ∀ e ∈ b.entries.toList.take b.count, e.offset < b.cycle ∧ ∀ t, e.trigger = some t → t.vector ≤ 15 := by
  unfold Bank.failure Bank.used
  split
  · next bad => exact iff_of_false nofun (fun h => by omega)
  · next good =>
    rw [firstFailing_eq_none_iff]
    refine ⟨fun ⟨_, rest⟩ => ⟨by omega, by omega, rest⟩, fun ⟨_, _, rest⟩ => ⟨nofun, rest⟩⟩

/-! What a derivation leaves of the calendar (R162). -/

/-- The parts of the calendar that a position derivation leaves: the banks, the override, the pending switch and the
count of switches. -/
def Calendar.base (c : Calendar) : Bank × Bank × BankName × Option QuietOverride × Option Time × Nat :=
  (c.bankA, c.bankB, c.active, c.override, c.pendingSwitch, c.counters.switches)

theorem base_of_outside (h : t.outside = s.outside) : t.calendar.base = s.calendar.base :=
  congrArg Calendar.base (calendar_of_outside h)

theorem base_derivePosition : s.derivePosition.calendar.base = s.calendar.base := by
  unfold State.derivePosition
  dsimp only
  rw [base_of_outside (outside_announce _ _)]
  rfl

theorem base_issueTrigger (te : Time) (x : Trigger) : (s.issueTrigger te x).calendar.base = s.calendar.base := by
  unfold State.issueTrigger
  dsimp only
  split
  · rfl
  · rw [base_of_outside (outside_calendarRequest _ _ _ _ _)]
    rfl

theorem base_missTriggers (n : Nat) : (s.missTriggers n).calendar.base = s.calendar.base := by
  unfold State.missTriggers; split <;> rfl

theorem base_catchUp : s.catchUp.calendar.base = s.calendar.base := by
  unfold State.catchUp
  split
  · rfl
  · split
    · rw [base_missTriggers, base_issueTrigger]
    · rw [base_missTriggers]

theorem base_settleTriggers : s.settleTriggers.calendar.base = s.calendar.base := by
  unfold State.settleTriggers
  split
  · exact base_catchUp (s := s)
  · rfl

theorem base_derive : s.derive.calendar.base = s.calendar.base := by
  unfold State.derive
  rw [base_settleTriggers, base_derivePosition]

/-! A switch that takes effect (R165). -/

/-- The state of a switch before its counter and its event: derived, rechecked and judged. -/
def State.switching (s : State) (base : Time) : State :=
  ((State.derive (s.modCalendar (fun c => c.exchange base))).recheckShows).judgeHead

theorem base_switching (base : Time) : (s.switching base).calendar.base = (s.calendar.exchange base).base := by
  unfold State.switching
  rw [base_of_outside (outside_judgeHead _), base_of_outside (outside_recheckShows _), base_derive]
  rfl

theorem takeSwitch_eq (base : Time) (n : Int) : s.takeSwitch base n =
    ((s.switching base).modCalendarCounters (fun c => { c with switches := inc32 c.switches })).raise .switchDone n
      (s.switching base).calendar.active.code := rfl

theorem exchange_active (c : Calendar) (base : Time) : (c.exchange base).active = c.active.other := rfl

theorem exchange_activeBank (c : Calendar) (base : Time) :
    (c.exchange base).activeBank = { c.shadowBank with base := base } := by
  unfold Calendar.exchange Calendar.activeBank Calendar.shadowBank
  cases c.active <;> rfl

theorem exchange_leaves (c : Calendar) (base : Time) : (c.exchange base).override = c.override ∧
    (c.exchange base).pendingSwitch = none ∧ (c.exchange base).counters = c.counters := by
  unfold Calendar.exchange
  cases c.active <;> exact ⟨rfl, rfl, rfl⟩

/-- What a base settles of a calendar. -/
theorem base_eq_iff (c d : Calendar) : c.base = d.base ↔ c.bankA = d.bankA ∧ c.bankB = d.bankB ∧ c.active = d.active ∧
    c.override = d.override ∧ c.pendingSwitch = d.pendingSwitch ∧ c.counters.switches = d.counters.switches := by
  simp only [Calendar.base, Prod.mk.injEq]

theorem activeBank_congr {c d : Calendar} (a : c.bankA = d.bankA) (b : c.bankB = d.bankB) (active : c.active = d.active) :
    c.activeBank = d.activeBank := by
  unfold Calendar.activeBank
  rw [a, b, active]

theorem takeSwitch_calendar (base : Time) (n : Int) : (s.takeSwitch base n).calendar =
    { (s.switching base).calendar with counters := { (s.switching base).calendar.counters with
      switches := min ((s.switching base).calendar.counters.switches + 1) 4294967295 } } := by
  rw [takeSwitch_eq]
  generalize s.switching base = v
  rfl

/-- A switch taken: the shadow bank is active with its base, and nothing else of the calendar's settings changes. -/
theorem takeSwitch_facts (base : Time) (n : Int) :
    (s.takeSwitch base n).calendar.active ≠ s.calendar.active ∧
    (s.takeSwitch base n).calendar.activeBank = { s.calendar.shadowBank with base := base } ∧
    (s.takeSwitch base n).calendar.pendingSwitch = none ∧
    (s.takeSwitch base n).calendar.override = s.calendar.override ∧
    (s.takeSwitch base n).calendar.counters.switches = min (s.calendar.counters.switches + 1) 4294967295 ∧
    (s.takeSwitch base n).written = s.written ∧ (s.takeSwitch base n).clock = s.clock := by
  obtain ⟨a, b, active, override, pending, switches⟩ := (base_eq_iff _ _).1 (base_switching (s := s) base)
  obtain ⟨override', pending', counters⟩ := exchange_leaves s.calendar base
  have banked := banked_takeSwitch base n (Made.refl s).banked
  rw [takeSwitch_calendar]
  generalize (s.switching base).calendar = d at *
  refine ⟨?_, ?_, pending.trans pending', override.trans override', ?_, banked.written, banked.clock⟩
  · exact fun same => BankName.other_ne s.calendar.active (active.symm.trans same)
  · exact (activeBank_congr a b active).trans (exchange_activeBank _ _)
  · rw [switches, counters]

/-! The judgement of SEASON_SWITCH (R164). -/

theorem seasonSwitch_of_pending (base : Nat) (pending : s.calendar.pendingSwitch ≠ none) :
    s.seasonSwitch base = (.busy, s) := if_pos (Option.isSome_iff_ne_none.2 pending)

section

variable {base : Nat} (idle : s.calendar.pendingSwitch = none)
include idle

theorem seasonSwitch_of_bad {i : Nat} (bad : s.calendar.shadowBank.failure = some i) :
    s.seasonSwitch base = (.badValue, s.refuseSwitch 1 i) := by
  refine (if_neg (by rw [idle]; exact nofun)).trans ?_
  rw [bad]

variable (good : s.calendar.shadowBank.failure = none)
include good

theorem seasonSwitch_of_good : s.seasonSwitch base =
    if s.now < base then (.ok, s.modCalendar (fun c => { c with pendingSwitch := some (base : Int) }))
    else if 65535 < (s.now - base) / s.calendar.shadowBank.cycle then (.badValue, s.refuseSwitch 2 0)
    else (.ok, s.takeSwitch base ((s.now - base) / s.calendar.shadowBank.cycle)) := by
  refine (if_neg (by rw [idle]; exact nofun)).trans ?_
  rw [good]

theorem seasonSwitch_of_later (later : s.clock.time < base) : s.seasonSwitch base =
    (.ok, s.modCalendar (fun c => { c with pendingSwitch := some (base : Int) })) :=
  (seasonSwitch_of_good idle good).trans (if_pos later)

variable (past : (base : Int) ≤ s.clock.time)
include past

theorem seasonSwitch_of_far (far : 65535 < (s.clock.time - base) / s.calendar.shadowBank.cycle) :
    s.seasonSwitch base = (.badValue, s.refuseSwitch 2 0) :=
  (seasonSwitch_of_good idle good).trans ((if_neg (Int.not_lt.2 past)).trans (if_pos far))

theorem seasonSwitch_of_near (near : (s.clock.time - base) / s.calendar.shadowBank.cycle ≤ 65535) :
    s.seasonSwitch base = (.ok, s.takeSwitch base ((s.clock.time - base) / s.calendar.shadowBank.cycle)) :=
  (seasonSwitch_of_good idle good).trans ((if_neg (Int.not_lt.2 past)).trans (if_neg (Int.not_lt.2 near)))

end

/-! The show queue after a switch (R143). -/

theorem recheckOne_of_fit {q : ShowRequest} (fit : s.fitsActive q.showId q.tempo = true) : s.recheckOne q = s := if_pos fit

theorem recheckOne_of_unfit {q : ShowRequest} (unfit : s.fitsActive q.showId q.tempo = false) :
    s.recheckOne q = (s.refuseShow q.showId q.tempo .fitsNowhere).raiseDropped q.showId .fitsNowhere :=
  if_neg (by rw [unfit]; exact nofun)

theorem queue_recheckOne (v : State) (q : ShowRequest) : (v.recheckOne q).showUnit.queue = v.showUnit.queue := by
  by_cases fit : v.fitsActive q.showId q.tempo = true
  · rw [recheckOne_of_fit fit]
  · rw [recheckOne_of_unfit (Bool.eq_false_iff.2 fit)]
    show ((v.modShowCounters _).captureDrop q.showId q.tempo).showUnit.queue = _
    rw [captureDrop_eq]
    rfl

theorem recheckShows_eq : s.recheckShows = { s.showUnit.queue.foldl State.recheckOne s with
    showUnit := { (s.showUnit.queue.foldl State.recheckOne s).showUnit with
      queue := s.showUnit.queue.filter (fun q => s.fitsActive q.showId q.tempo) } } := by
  have queue := queue_foldl State.recheckOne queue_recheckOne s.showUnit.queue s
  unfold State.recheckShows State.modShowUnit
  dsimp only
  rw [queue]

/-- Settles O52: the validation, the judgement of a request to switch, and a switch that takes effect. -/
theorem seasonSwitches : Obligations.SeasonSwitches := by
  refine ⟨failure_eq_none_iff, fun s => ?_⟩
  intro c shadow refused switched
  have taken : ∀ base n, switched (s.takeSwitch base n) base := fun base n => takeSwitch_facts base n
  have answered : ∀ (v : State) (base : Int), switched v base → ∀ {f : List Byte} {a : Reply},
      switched (v.respond f a) base := by
    intro v base ok f a
    obtain ⟨queue, pending, shape⟩ := respond_eq v f a
    rw [shape]
    exact ok
  refine ⟨fun f base reached read => ⟨fun pending => ?_, fun i idle bad => ?_, fun idle good later => ?_,
      fun idle good past far => ?_, fun idle good past near => ?_⟩,
    fun base pending => ⟨fun due => ⟨congrArg Host.Outcome.next (reachSwitch_of_reached s pending due), taken base 0⟩,
      fun later => ?_⟩, fun idle => congrArg Host.Outcome.next (reachSwitch_of_none s idle), fun base n => ?_, ?_⟩
  · exact request_answers reached read (congrArg plainReply (seasonSwitch_of_pending base pending)) rfl
  · obtain ⟨j, failed, same⟩ := Option.bind_eq_some_iff.1 bad
    obtain rfl := Option.some.inj same
    exact request_answers reached read (congrArg plainReply (seasonSwitch_of_bad idle failed)) rfl
  · exact request_answers reached read (congrArg plainReply (seasonSwitch_of_later idle good later)) rfl
  · exact request_answers reached read (congrArg plainReply (seasonSwitch_of_far idle good past far)) rfl
  · have bank : s.calendar.shadowBank = shadow := rfl
    have judged := seasonSwitch_of_near idle good past near
    rw [bank] at judged
    exact ⟨_, request_answers reached read (congrArg plainReply judged) (takeSwitch_node s _ _),
      answered _ _ (taken base _), rfl⟩
  · refine congrArg Host.Outcome.next (reachSwitch_of_undue (fun ⟨b, same, due⟩ => ?_))
    exact absurd due (Int.not_le.2 (Option.some.inj (pending.symm.trans same) ▸ later))
  · intro exchanged
    have same : exchanged = c.exchange base := by
      show (match c.active with
        | .a => { c with active := .b, bankB := { c.bankB with base := base }, pendingSwitch := none }
        | .b => { c with active := .a, bankA := { c.bankA with base := base }, pendingSwitch := none }) = _
      unfold Calendar.exchange Calendar.modBank
      cases c.active <;> rfl
    have code : ((s.switching base).calendar.active.code : Int) = (match c.active with
        | .a => 1
        | .b => 0) := by
      obtain ⟨a, b, active, rest⟩ := (base_eq_iff _ _).1 (base_switching (s := s) base)
      rw [active, exchange_active]
      cases s.calendar.active <;> rfl
    refine ⟨s.switching base, ?_, ?_⟩
    · rw [same]
      rfl
    · rw [takeSwitch_eq, code]
      rfl
  · intro checked
    refine ⟨recheckShows_eq, fun q => ?_⟩
    intro u
    refine ⟨recheckOne_of_fit, fun unfit => (recheckOne_of_unfit unfit).trans ?_⟩
    show State.raiseDropped ((s.modShowCounters (fun c => c.refuse .fitsNowhere)).captureDrop q.showId q.tempo) q.showId
      .fitsNowhere = _
    rw [captureDrop_eq]
    rfl

end

end Sys2Proof.Machine

/-! Events that a change of figures raises, figures that are stopped, and the quiet override (R114, R116, R128, R158,
R159, R175). -/

namespace Sys2Proof.Machine

section

variable {s t u : State} {x : Fin 16} {kind : EventKind} {a b : Int}

/-! Events raised (R175). -/

/-- Offered events are appended to the queue, each one of an unmasked class while the queue has room to the end. -/
theorem offers_events (es : List EventRecord) (m : Management) : ∃ new,
    (es.foldl Management.offer m).events = m.events ++ new ∧
      ((es.foldl Management.offer m).events.length < 32 → ∀ e ∈ es, m.mask[e.kind.cls] = true → e ∈ new) := by
  induction es generalizing m with
  | nil => exact ⟨[], (List.append_nil _).symm, fun _ e mem => absurd mem List.not_mem_nil⟩
  | cons e es ih =>
    obtain ⟨new, events, kept⟩ := ih (m.offer e)
    rw [List.foldl_cons]
    rw [Management.offer_mask] at kept
    by_cases masked : m.mask[e.kind.cls] = false
    · have same : m.offer e = m := if_pos masked
      rw [same] at events kept ⊢
      refine ⟨new, events, fun room => List.forall_mem_cons.2 ⟨fun on => ?_, kept room⟩⟩
      exact Bool.noConfusion (masked.symm.trans on)
    · by_cases full : 32 ≤ m.events.length
      · have same : (m.offer e).events = m.events := by
          unfold Management.offer
          rw [if_neg masked, if_pos full]
        rw [same] at events
        refine ⟨new, events, fun room => absurd room (Nat.not_lt.2 ?_)⟩
        rw [events, List.length_append]
        exact full.trans (Nat.le_add_right _ _)
      · have more : (m.offer e).events = m.events ++ [e] := by
          unfold Management.offer
          rw [if_neg masked, if_neg full]
        refine ⟨e :: new, by rw [events, more, List.append_assoc]; rfl, fun room => ?_⟩
        exact List.forall_mem_cons.2 ⟨fun _ => List.mem_cons_self, fun d mem on => List.mem_cons_of_mem _ (kept room d mem on)⟩

/-- Among the events that a change of the state offers is one of the kind with the arguments. -/
def Tells (kind : EventKind) (a b : Int) (s t : State) : Prop :=
  ∃ es : List EventRecord, t.mgmt = es.foldl Management.offer s.mgmt ∧ ∃ e ∈ es, e.kind = kind ∧ e.arg1 = a ∧ e.arg2 = b

theorem tells_raise (h : Backdrop s t) : Tells kind a b s (t.raise kind a b) := by
  obtain ⟨es, mgmt⟩ := h.offers
  refine ⟨es ++ [{ kind := kind, time := low32 t.now, arg1 := a, arg2 := b }], ?_, _,
    List.mem_append_right _ List.mem_cons_self, rfl, rfl, rfl⟩
  rw [List.foldl_append, ← mgmt]
  rfl

theorem Tells.after (h : Backdrop s t) (told : Tells kind a b t u) : Tells kind a b s u := by
  obtain ⟨es, first⟩ := h.offers
  obtain ⟨fs, second, e, mem, facts⟩ := told
  exact ⟨es ++ fs, by rw [second, first, List.foldl_append], e, List.mem_append_right _ mem, facts⟩

theorem Tells.before (told : Tells kind a b s t) (h : Backdrop t u) : Tells kind a b s u := by
  obtain ⟨es, first, e, mem, facts⟩ := told
  obtain ⟨fs, second⟩ := h.offers
  exact ⟨es ++ fs, by rw [second, first, List.foldl_append], e, List.mem_append_left _ mem, facts⟩

/-- An event told is in the queue at the end, if its class is not masked and the queue has not filled. -/
theorem Tells.reports (told : Tells kind a b s t) : ∃ new, t.mgmt.events = s.mgmt.events ++ new ∧
    (s.mgmt.mask[kind.cls] = true → t.mgmt.events.length < 32 →
      ∃ e ∈ new, e.kind = kind ∧ e.arg1 = a ∧ e.arg2 = b) := by
  obtain ⟨es, mgmt, e, mem, of_kind, args⟩ := told
  obtain ⟨new, events, kept⟩ := offers_events es s.mgmt
  rw [mgmt]
  subst of_kind
  exact ⟨new, events, fun on room => ⟨e, kept room e mem on, rfl, args⟩⟩

theorem Backdrop.events (h : Backdrop s t) : ∃ new, t.mgmt.events = s.mgmt.events ++ new := by
  obtain ⟨es, mgmt⟩ := h.offers
  obtain ⟨new, events, _⟩ := offers_events es s.mgmt
  exact ⟨new, by rw [mgmt, events]⟩

/-! A figure stopped (R114, R123, R128). -/

theorem stopFigure_of_there (e : StopEnd) (there : s.boards[s.figRecs[x].board].presence ≠ .absent) :
    s.stopFigure x e = (s.askStop x).1.modFig x (fun y => { y with
      state := .stopping, stopEnd := e, travelDeadline := none }) := if_pos (askStop_taken.2 there)

theorem stopFigure_of_absent (e : StopEnd) (absent : s.boards[s.figRecs[x].board].presence = .absent) :
    s.stopFigure x e = ((s.modFig x (fun y => { y with commandDone := false })).enterFault x
      .boardAbsent).releaseCurrent x := by
  unfold State.stopFigure
  rw [askStop_of_absent absent]
  rfl

theorem stopFigure_fig_of_there (e : StopEnd) (there : s.boards[s.figRecs[x].board].presence ≠ .absent) :
    (s.stopFigure x e).figs[x] = { s.figs[x] with
      state := .stopping, stopEnd := e, travelDeadline := none, commandDone := false } := by
  rw [stopFigure_of_there e there, modFig_figs_self, askStop_fig]

theorem stopFigure_stops (e : StopEnd) (there : s.boards[s.figRecs[x].board].presence ≠ .absent) :
    (s.stopFigure x e).stopAsked s.figRecs[x].board x := by
  rw [stopFigure_of_there e there]
  exact askStop_stops there

theorem stopFigure_fig_of_absent (e : StopEnd) (absent : s.boards[s.figRecs[x].board].presence = .absent)
    (unhomed : s.figs[x].state ≠ .unhomed) (fault : s.figs[x].state ≠ .fault) :
    (s.stopFigure x e).figs[x] =
      { ({ s.figs[x] with commandDone := false } : Figure).faulted .boardAbsent with admitted := none } := by
  have same : (s.modFig x (fun y => { y with commandDone := false })).figs[x] =
      { s.figs[x] with commandDone := false } := modFig_figs_self s x _
  rw [stopFigure_of_absent e absent, releaseCurrent_fig, enterFault_of_still _ (by rw [same]; exact unhomed)
    (by rw [same]; exact fault) (.inr rfl), inFault_fig, same]

theorem stopFigure_zones (e : StopEnd) : (s.stopFigure x e).zones = s.zones := by
  by_cases absent : s.boards[s.figRecs[x].board].presence = .absent
  · rw [stopFigure_of_absent e absent]
    exact enterFault_zones (s := s.modFig x (fun y => { y with commandDone := false })) .boardAbsent
  · rw [stopFigure_of_there e absent]
    exact askStop_zones

/-! The closing of the figure gate (R114). -/

theorem noteHeld_of_held (held : s.figs[x].state = .stopping ∨ s.figs[x].state = .held) :
    s.noteHeld x = s.raise .figureHeld x.val 1 := if_pos held

@[simp] theorem noteHeld_zones : (s.noteHeld x).zones = s.zones := by
  unfold State.noteHeld; split <;> rfl

theorem holdFigure_of_moving (moves : s.figs[x].state = .starting ∨ s.figs[x].state = .moving ∨ s.figs[x].state = .homing) :
    s.holdFigure x = (s.stopFigure x .held).noteHeld x := by
  unfold State.holdFigure
  obtain e | e | e := moves <;> rw [e]

theorem holdFigure_of_waiting (waits : s.figs[x].state = .waitZone ∨ s.figs[x].state = .waitSupply) :
    s.holdFigure x = (s.holdWaiter x).noteHeld x := by
  unfold State.holdFigure
  obtain e | e := waits <;> rw [e]

theorem holdFigure_of_still (still : s.figs[x].state = .idle ∨ s.figs[x].state = .unhomed ∨ s.figs[x].state = .held ∨
    s.figs[x].state = .stopping ∨ s.figs[x].state = .fault) : s.holdFigure x = s := by
  unfold State.holdFigure
  obtain e | e | e | e | e := still <;> rw [e]

@[simp] theorem holdFigure_zones (v : State) (y : Fin 16) : (v.holdFigure y).zones = v.zones := by
  unfold State.holdFigure
  cases v.figs[y].state with
  | starting => exact noteHeld_zones.trans (stopFigure_zones _)
  | moving => exact noteHeld_zones.trans (stopFigure_zones _)
  | homing => exact noteHeld_zones.trans (stopFigure_zones _)
  | waitZone => exact noteHeld_zones
  | waitSupply => exact noteHeld_zones
  | _ => rfl

/-- A figure under way at the closing, whose board is not ABSENT. -/
theorem holdFigure_moving_facts (moves : s.figs[x].state = .starting ∨ s.figs[x].state = .moving ∨
      s.figs[x].state = .homing) (there : s.boards[s.figRecs[x].board].presence ≠ .absent) :
    (s.holdFigure x).figs[x] = { s.figs[x] with
      state := .stopping, stopEnd := .held, travelDeadline := none, commandDone := false } ∧
    (s.holdFigure x).stopAsked s.figRecs[x].board x ∧ Tells .figureHeld x.val 1 s (s.holdFigure x) := by
  have fig := stopFigure_fig_of_there (s := s) (x := x) .held there
  rw [holdFigure_of_moving moves, noteHeld_of_held (.inl (by rw [fig]))]
  exact ⟨fig, stopFigure_stops .held there, tells_raise (figStep_stopFigure .held (.refl x s)).backdrop⟩

/-- A waiting figure at the closing. -/
theorem holdFigure_waiting_facts {start : Time} (waits : s.figs[x].state = .waitZone ∨ s.figs[x].state = .waitSupply)
    (since : s.figs[x].waitStart = some start) :
    (s.holdFigure x).figs[x] = { s.figs[x] with
      state := .held, waitStart := none,
      waitUsed := (max 0 (min 600000 (s.figs[x].waitUsed + (s.clock.time - start)))).toNat } ∧
    Tells .figureHeld x.val 1 s (s.holdFigure x) := by
  have fig : (s.holdWaiter x).figs[x] = { s.figs[x] with
      state := .held, waitUsed := waitSpent s.figs[x] s.now, waitStart := none } := modFig_figs_self s x _
  rw [holdFigure_of_waiting waits, noteHeld_of_held (.inr (by rw [fig]))]
  refine ⟨fig.trans ?_, tells_raise (figStep_modFig _ (.refl x s)).backdrop⟩
  rw [waitSpent_eq since]
  rfl

/-! The opening of the figure gate (R116). -/

theorem resumeFigure_of_other (other : s.figs[x].state ≠ .held) : s.resumeFigure x = s := if_neg other

theorem enterWaitZone_fig (current : s.figs[x].current ≠ none) :
    (s.enterWaitZone x).figs[x].state = .waitZone ∧ (s.enterWaitZone x).figs[x].waitStart = some s.clock.time := by
  unfold State.enterWaitZone
  rw [modFig_figs_self]
  cases h : s.figs[x].current with
  | none => exact absurd h current
  | some m => exact ⟨rfl, rfl⟩

theorem leaveHold_figs : (s.leaveHold x).figs = (s.enterWaitZone x).figs := by
  unfold State.leaveHold
  dsimp only
  rw [State.raise_figs]
  simp [State.releaseZones]

theorem resumeFigure_fig (held : s.figs[x].state = .held) (current : s.figs[x].current ≠ none) :
    (s.resumeFigure x).figs[x].state = .waitZone ∧ (s.resumeFigure x).figs[x].waitStart = some s.clock.time := by
  rw [show s.resumeFigure x = s.leaveHold x from if_pos held, leaveHold_figs]
  exact enterWaitZone_fig current

/-! The announcement (R159). -/

theorem announce_of_same (same : t.calendar.figuresOpen = s.calendar.figuresOpen) : State.announce s t = t := by
  unfold State.announce
  rw [same]
  cases s.calendar.figuresOpen <;> rfl

theorem announce_of_closing (before : s.calendar.figuresOpen = true) (after : t.calendar.figuresOpen = false) :
    State.announce s t = (indices 16).foldl State.holdFigure t := by
  unfold State.announce
  rw [before, after]
  rfl

theorem announce_of_opening (before : s.calendar.figuresOpen = false) (after : t.calendar.figuresOpen = true) :
    State.announce s t = (indices 16).foldl State.resumeFigure t := by
  unfold State.announce
  rw [before, after]
  rfl

/-- What a pass over all figures does to one of them is what its own step does, from a state that has it as it was. -/
theorem pass_at {g : State → Fin 16 → State} (step : ∀ (v : State) (y : Fin 16), FigStep y v (g v y)) (x : Fin 16)
    (v : State) : ∃ w, Apart x v w ∧ Apart x (g w x) ((indices 16).foldl g v) :=
  foldl_at step (List.nodup_finRange 16) (List.mem_finRange x) v

theorem foldl_zones {g : State → Fin 16 → State} (keeps : ∀ (v : State) (y : Fin 16), (g v y).zones = v.zones)
    (l : List (Fin 16)) (v : State) : (l.foldl g v).zones = v.zones := by
  induction l generalizing v with
  | nil => rfl
  | cons y l ih => rw [List.foldl_cons, ih, keeps]

/-- The record of a figure is the same across a backdrop. -/
theorem Backdrop.figRec (h : Backdrop s t) (x : Fin 16) : t.figRecs[x] = s.figRecs[x] :=
  congrArg (fun r : Vector FigRec 16 => r[x]) h.figRecs

/-! The quiet override (R158). -/

theorem imposeQuiet_of_same {level : QuietLevel} (hold : Nat) (byVerdict : Bool)
    (same : ∃ o, s.calendar.override = some o ∧ o.level = level) : s.imposeQuiet level hold byVerdict =
      s.judgeAfter (State.announce s { s with calendar := { s.calendar with
        override := some { level := level, expiry := s.clock.time + (max 1 (min 600000 hold) : Nat) } } }) := by
  obtain ⟨o, override, at_⟩ := same
  have yes : sameLevel s.calendar.override level = true := by
    rw [override]
    exact decide_eq_true at_
  unfold State.imposeQuiet
  dsimp only
  rw [if_pos yes, clamp_eq (by decide)]
  rfl

theorem imposeQuiet_of_other {level : QuietLevel} (hold : Nat) (byVerdict : Bool)
    (other : ∀ o, s.calendar.override = some o → o.level ≠ level) : s.imposeQuiet level hold byVerdict =
      s.judgeAfter (State.announce s (({ s with calendar := { s.calendar with
        override := some { level := level, expiry := s.clock.time + (max 1 (min 600000 hold) : Nat) } } } : State).raise
          .quietOn level.code (if byVerdict then 1 else 0))) := by
  have no : ¬sameLevel s.calendar.override level = true := by
    unfold sameLevel
    cases h : s.calendar.override with
    | none => exact nofun
    | some o => exact fun yes => other o h (of_decide_eq_true yes)
  unfold State.imposeQuiet
  dsimp only
  rw [if_neg no, clamp_eq (by decide)]
  rfl

theorem expireQuiet_of_due {o : QuietOverride} (override : s.calendar.override = some o) (due : o.expiry ≤ s.clock.time) :
    s.expireQuiet = s.nextEntry.endQuiet 0 := by
  unfold State.expireQuiet
  rw [override]
  exact if_pos due

theorem expireQuiet_of_later {o : QuietOverride} (override : s.calendar.override = some o)
    (later : s.clock.time < o.expiry) : s.expireQuiet = s := by
  unfold State.expireQuiet
  rw [override]
  exact if_neg (Int.not_le.2 later)

/-- With no switch, restart or entry time reached nothing of the list changes. -/
theorem nextEntry_of_idle (undue : ∀ base, s.calendar.pendingSwitch = some base → s.clock.time < base)
    (within : s.clock.time < s.calendar.cycleStart + s.calendar.activeBank.cycle)
    (none_ : ∀ e ∈ s.calendar.activeBank.entries.toList.take s.calendar.activeBank.count,
      s.calendar.cycleStart + e.offset ≤ s.calendar.entriesTaken ∨ s.clock.time < s.calendar.cycleStart + e.offset) :
    s.nextEntry = s := by
  have reached : s.reachedEntries = [] := by
    refine List.filter_eq_nil_iff.2 (fun e mem due => ?_)
    obtain ⟨after, by_now⟩ := of_decide_eq_true due
    obtain taken | later := none_ e mem
    · exact absurd after (Int.not_lt.2 taken)
    · exact absurd by_now (Int.not_le.2 later)
  unfold State.nextEntry
  rw [reachSwitch_of_undue (fun ⟨base, pending, due⟩ => absurd due (Int.not_le.2 (undue base pending))),
    restartCycle_of_later within, takeEntries_of_none reached]

/-- Settles O49: QUIET frames, verdicts and the expiry, and what an announcement does to each figure. -/
theorem quietOverrides : Obligations.QuietOverrides := by
  intro s overridden
  refine ⟨fun f fixed => ?_, fun level hold => ?_, fun o override => ⟨fun due => ?_, fun later =>
    congrArg Host.Outcome.next (expireQuiet_of_later override later)⟩, fun none_ => ?_, fun t same => announce_of_same same,
    fun t before after x => ?_, fun t before after x => ?_⟩
  · have carried : exec (.quiet f) s = .next (s.takeQuiet (framePayload f)) := congrArg Host.Outcome.next (if_pos fixed)
    refine ⟨fun unread => ?_, fun hold read none_ => ?_, fun hold o read some_ => ?_, fun level hold read => ?_⟩
    · refine carried.trans (congrArg Host.Outcome.next ?_)
      unfold State.takeQuiet
      rw [unread]
      rfl
    · refine carried.trans (congrArg Host.Outcome.next ?_)
      unfold State.takeQuiet
      rw [read]
      exact if_pos none_
    · refine carried.trans (congrArg Host.Outcome.next ?_)
      unfold State.takeQuiet
      rw [read]
      exact if_neg (by rw [some_]; exact nofun)
    · intro imposed
      have level_ : s.takeQuiet (framePayload f) = s.imposeQuiet level hold false := by
        unfold State.takeQuiet
        rw [read]
      rw [carried, level_]
      refine ⟨fun same => congrArg Host.Outcome.next (imposeQuiet_of_same hold false same), fun other =>
        congrArg Host.Outcome.next ((imposeQuiet_of_other hold false other).trans ?_)⟩
      cases level <;> rfl
  · intro imposed
    refine ⟨fun same => imposeQuiet_of_same hold true same, fun other => (imposeQuiet_of_other hold true other).trans ?_⟩
    cases level <;> rfl
  · refine ⟨s.nextEntry, rfl, congrArg Host.Outcome.next (expireQuiet_of_due override due), fun undue within none_ => ?_⟩
    exact nextEntry_of_idle undue within none_
  · refine congrArg Host.Outcome.next ?_
    unfold State.expireQuiet
    rw [none_]
  · intro fig r held
    obtain ⟨w, first, rest⟩ := pass_at figStep_holdFigure x t
    rw [← announce_of_closing before after] at rest
    have rec_ : w.figRecs[x] = r := first.backdrop.figRec x
    have told : Tells .figureHeld x.val 1 w (w.holdFigure x) → held :=
      fun told => ((told.before rest.backdrop).after first.backdrop).reports
    refine ⟨fun moves there => ?_, fun start waits since => ?_, fun still => ?_, ?_⟩
    · obtain ⟨fig_, stops, tells⟩ := holdFigure_moving_facts (s := w) (x := x) (by rw [first.fig]; exact moves)
        (by rw [first.backdrop.presenceOf]; exact there)
      rw [rec_] at stops
      exact ⟨by rw [rest.fig, fig_, first.fig], told tells, rest.backdrop.stops _ _ stops⟩
    · obtain ⟨fig_, tells⟩ := holdFigure_waiting_facts (s := w) (x := x) (by rw [first.fig]; exact waits)
        (by rw [first.fig]; exact since)
      exact ⟨by rw [rest.fig, fig_, first.fig, first.backdrop.clock], told tells⟩
    · rw [rest.fig, holdFigure_of_still (by rw [first.fig]; exact still), first.fig]
    · rw [announce_of_closing before after]
      exact foldl_zones holdFigure_zones _ t
  · obtain ⟨w, first, rest⟩ := pass_at figStep_resumeFigure x t
    rw [announce_of_opening before after, rest.fig]
    refine ⟨fun held current => ?_, fun other => ?_⟩
    · have facts := resumeFigure_fig (s := w) (x := x) (by rw [first.fig]; exact held) (by rw [first.fig]; exact current)
      rw [first.backdrop.clock] at facts
      exact facts
    · rw [resumeFigure_of_other (by rw [first.fig]; exact other), first.fig]

end

end Sys2Proof.Machine

/-! What the channel reports of a status do to a figure (R111, R112, R115 to R117, R121). -/

namespace Sys2Proof.Machine

section

variable {s t u : State} {x : Fin 16} {m : Move} {r : ChanReport}

/-! Moves taken leave no figure in FAULT. -/

theorem endMove_state (a : Bool) : (s.endMove x m a).figs[x].state = s.figs[x].state := by
  rw [endMove_fig]; split <;> rfl

theorem takeNextSlot_state : (s.takeNextSlot x m).figs[x].state = s.figs[x].state := by
  cases slot : s.figs[x].nextMove with
  | none => rw [takeNextSlot_of_empty m slot, setFig_get]
  | some old => rw [takeNextSlot_of_full m slot, modFig_figs_self, endMove_fig]; rfl

theorem beginMove_state : (s.beginMove x m).figs[x].state ≠ .fault := by
  cases gate : s.calendar.figuresOpen with
  | true => rw [beginMove_of_open m gate, setFig_get]; exact nofun
  | false => rw [beginMove_of_closed m gate, setFig_get]; exact nofun

theorem takeMove_state (well : s.figs[x].state ≠ .fault) : (s.takeMove x m).figs[x].state ≠ .fault := by
  by_cases able : s.canMove x
  · have fails : (s.endMove x m false).figs[x].state ≠ .fault := by rw [endMove_state]; exact well
    have queues : (s.takeNextSlot x m).figs[x].state ≠ .fault := by rw [takeNextSlot_state]; exact well
    rw [takeMove_of_able m able]
    cases s.figs[x].state with
    | idle =>
      dsimp only
      split
      · rw [endMove_state]; exact well
      · exact beginMove_state
    | waitZone => exact queues
    | waitSupply => exact queues
    | starting => exact queues
    | moving => exact queues
    | held => exact queues
    | _ => exact fails
  · rw [takeMove_of_unable m able, endMove_state]
    exact well

theorem takeWaiting_state (well : s.figs[x].state ≠ .fault) : (s.takeWaiting x).figs[x].state ≠ .fault := by
  cases slot : s.figs[x].nextMove with
  | none => rw [takeWaiting_of_none slot, clearNext_fig]; exact well
  | some n =>
    rw [takeWaiting_of_some slot]
    exact takeMove_state (by rw [clearNext_fig]; exact well)

/-- The move of a slot taken by a figure, if there is one. -/
def State.thenTake (t : State) (x : Fin 16) (o : Option Move) : State :=
  match o with
  | none => t
  | some n => t.takeMove x n

theorem takeWaiting_by_slot {o : Option Move} (slot : s.figs[x].nextMove = o) :
    s.takeWaiting x = (s.clearNext x).thenTake x o := by
  cases o with
  | none => exact takeWaiting_of_none slot
  | some n => exact takeWaiting_of_some slot

theorem faultStill_of_well (well : s.figs[x].state ≠ .fault) : s.faultStill x r = s := by
  refine if_neg (fun h => ?_)
  rw [Bool.and_eq_true, Bool.and_eq_true] at h
  exact well (of_decide_eq_true h.1.1)

/-! The report stored (R112). -/

/-- A figure with a report taken in. -/
def State.reported (s : State) (x : Fin 16) (r : ChanReport) : Figure := { s.figs[x] with
  flags := r,
  position := if s.figs[x].state.takesPosition && s.figs[x].position.isSome
    then some (reportedPosition s.figRecs[x] r.position) else s.figs[x].position }

/-- The state with a report stored in its figure. -/
def State.withReport (s : State) (x : Fin 16) (r : ChanReport) : State := s.setFig x (s.reported x r)

theorem withReport_fig : (s.withReport x r).figs[x] = s.reported x r := setFig_get _

theorem reported_state : (s.reported x r).state = s.figs[x].state := rfl

/-- A position that a status replaces where there is one. -/
theorem reported_of_taking (takes : s.figs[x].state.takesPosition = true) : s.reported x r = { s.figs[x] with
    flags := r, position := s.figs[x].position.map (fun _ => reportedPosition s.figRecs[x] r.position) } := by
  unfold State.reported
  rw [takes]
  cases s.figs[x].position <;> rfl

theorem reported_of_not (not_ : s.figs[x].state.takesPosition = false) : s.reported x r = { s.figs[x] with flags := r } := by
  unfold State.reported
  rw [not_]
  rfl

theorem figureStatus_eq : s.figureStatus x r =
    if r.overcurrent && (s.withReport x r).figs[x].state != .unhomed && (s.withReport x r).figs[x].state != .fault
    then ((s.withReport x r).enterFault x .overcurrent).faultStill x r
    else if r.limit && (s.withReport x r).figs[x].state != .unhomed && (s.withReport x r).figs[x].state != .fault
    then ((s.withReport x r).enterFault x .limit).faultStill x r
    else ((s.withReport x r).actOnFlags x r).faultStill x r := rfl

theorem figureStatus_of_calm (calm : r.overcurrent = false ∧ r.limit = false) :
    s.figureStatus x r = ((s.withReport x r).actOnFlags x r).faultStill x r := by
  rw [figureStatus_eq, calm.1, calm.2]
  rfl

theorem figureStatus_of_fault (unhomed : s.figs[x].state ≠ .unhomed) (fault : s.figs[x].state ≠ .fault)
    (flagged : r.overcurrent = true ∨ r.limit = true) : s.figureStatus x r = ((s.withReport x r).enterFault x
      (if r.overcurrent then .overcurrent else .limit)).faultStill x r := by
  have on : ((s.withReport x r).figs[x].state != .unhomed) = true ∧ ((s.withReport x r).figs[x].state != .fault) = true := by
    rw [withReport_fig, reported_state]
    exact ⟨bne_iff_ne.2 unhomed, bne_iff_ne.2 fault⟩
  rw [figureStatus_eq, on.1, on.2]
  cases over_ : r.overcurrent with
  | true => rfl
  | false =>
    obtain h | h := flagged
    · exact nomatch over_.symm.trans h
    · rw [h]
      rfl

theorem faultStill_fig : ∃ adm, (s.faultStill x r).figs[x] = { s.figs[x] with admitted := adm } := by
  unfold State.faultStill
  split
  · exact ⟨none, releaseCurrent_fig⟩
  · exact ⟨s.figs[x].admitted, rfl⟩

@[simp] theorem faultStill_zones : (s.faultStill x r).zones = s.zones := by
  unfold State.faultStill; split <;> rfl

/-! Arrivals (R111). -/

theorem passIfReleased_clock (before v : State) : (State.passIfReleased before v).clock = v.clock := by
  obtain ⟨zones, figs, parts⟩ := passIfReleased_parts (s := v) before
  rw [parts]

/-- The zones away from its position given up by a figure that has come to rest, and the pass made. -/
def State.restPass (v : State) (x : Fin 16) : State := State.passIfReleased v (v.keepResting x)

theorem restPass_facts (v : State) (x : Fin 16) (still : v.figs[x].state ≠ .waitZone) :
    (v.restPass x).figs[x] = v.figs[x] ∧ (v.restPass x).mgmt = v.mgmt ∧ (v.restPass x).runs = v.runs ∧
    (v.restPass x).clock = v.clock ∧
    (∀ z : Fin 24, v.zones[z] = some x → z ∈ zonesAt v.figRecs[x] v.figs[x].position → (v.restPass x).zones[z] = some x) ∧
    (∀ z : Fin 24, v.zones[z] = some x → z ∉ zonesAt v.figRecs[x] v.figs[x].position →
      (v.restPass x).zones[z] ≠ some x) := by
  have pass := zones_keepResting_pass v v x rfl rfl still
  have clock := (passIfReleased_clock v (v.keepResting x)).trans keepResting_clock
  unfold State.restPass
  generalize State.passIfReleased v (v.keepResting x) = w at pass clock ⊢
  obtain ⟨pass, keep, drop⟩ := pass
  refine ⟨pass.fig.trans (by rw [keepResting_figs]), pass.mgmt.trans keepResting_mgmt, pass.runs.trans keepResting_runs,
    clock, keep, drop⟩

/-- A figure at rest where it has arrived. -/
def State.idleAt (s : State) (x : Fin 16) (position : Option Nat) : State :=
  s.modFig x (fun y => { y with state := .idle, position := position, travelDeadline := none, current := none })

theorem idleAt_fig (position : Option Nat) : (s.idleAt x position).figs[x] = { s.figs[x] with
    state := .idle, position := position, travelDeadline := none, current := none } := modFig_figs_self s x _

/-- A figure that has arrived, before it takes the move in its slot. -/
def State.arrived (s : State) (x : Fin 16) (m : Move) : State :=
  (((s.idleAt x s.figs[x].position).restPass x).releaseCurrent x).endMove x m true

theorem arriveFigure_eq : s.arriveFigure x m = (s.arrived x m).takeWaiting x := rfl

theorem arrived_fig : (s.arrived x m).figs[x] = { s.figs[x] with
    state := .idle, travelDeadline := none, current := none, admitted := none,
    movesArrived := min (s.figs[x].movesArrived + 1) 65535 } := by
  have rests := (restPass_facts (s.idleAt x s.figs[x].position) x (by rw [idleAt_fig]; exact nofun)).1
  unfold State.arrived
  rw [endMove_fig, releaseCurrent_fig, rests, idleAt_fig]
  rfl

theorem arrived_zones :
    (∀ z : Fin 24, s.zones[z] = some x → z ∈ zonesAt s.figRecs[x] s.figs[x].position → (s.arrived x m).zones[z] = some x) ∧
    (∀ z : Fin 24, s.zones[z] = some x → z ∉ zonesAt s.figRecs[x] s.figs[x].position →
      (s.arrived x m).zones[z] ≠ some x) := by
  obtain ⟨-, -, -, -, keep, drop⟩ := restPass_facts (s.idleAt x s.figs[x].position) x (by rw [idleAt_fig]; exact nofun)
  rw [idleAt_fig] at keep drop
  have zones : (s.arrived x m).zones = ((s.idleAt x s.figs[x].position).restPass x).zones :=
    yard_zones ((yard_endMove x m true).trans (yard_releaseCurrent x))
  rw [zones]
  exact ⟨keep, drop⟩

/-! Homings that end (R121). -/

/-- A figure homed, before it takes the move in its slot. -/
def State.homedAt (s : State) (x : Fin 16) : State :=
  (((s.idleAt x (some s.figRecs[x].home)).restPass x).releaseCurrent x).raise .figureHomed x.val s.figRecs[x].home

theorem endHoming_eq : s.endHoming x = (s.homedAt x).takeWaiting x := rfl

theorem homedAt_facts :
    (s.homedAt x).figs[x] = { s.figs[x] with
      state := .idle, position := some s.figRecs[x].home, travelDeadline := none, current := none, admitted := none } ∧
    (s.homedAt x).mgmt = (s.raise .figureHomed x.val s.figRecs[x].home).mgmt ∧
    (∀ z : Fin 24, s.zones[z] = some x → z ∈ zonesAt s.figRecs[x] (some s.figRecs[x].home) →
      (s.homedAt x).zones[z] = some x) ∧
    (∀ z : Fin 24, s.zones[z] = some x → z ∉ zonesAt s.figRecs[x] (some s.figRecs[x].home) →
      (s.homedAt x).zones[z] ≠ some x) := by
  obtain ⟨fig, mgmt, -, clock, keep, drop⟩ := restPass_facts (s.idleAt x (some s.figRecs[x].home)) x
    (by rw [idleAt_fig]; exact nofun)
  rw [idleAt_fig] at keep drop
  unfold State.homedAt
  generalize (s.idleAt x (some s.figRecs[x].home)).restPass x = w at *
  refine ⟨?_, raise_mgmt_congr (t := w.releaseCurrent x) mgmt clock _ _ _, keep, drop⟩
  rw [State.raise_figs, releaseCurrent_fig, fig, idleAt_fig]

/-! Stops that complete (R115). -/

/-- A figure whose move is given up, at rest and with the pass made. -/
def State.restedAt (s : State) (x : Fin 16) : State := (s.restFigure x).restPass x

theorem restFigure_fig_eq : (s.restFigure x).figs[x] = { s.figs[x] with
    state := if s.figs[x].current.map (fun m => m.goal) = some .home then .unhomed else .idle,
    current := none, waitStart := none } := by
  cases current : s.figs[x].current with
  | none =>
    have away : s.figs[x].homingNow = false := by
      unfold Figure.homingNow
      rw [current]
    unfold State.restFigure
    rw [modFig_figs_self, away]
    rfl
  | some m => rw [restFigure_fig current]; simp

theorem restedAt_facts : (s.restedAt x).figs[x] = { s.figs[x] with
      state := if s.figs[x].current.map (fun m => m.goal) = some .home then .unhomed else .idle,
      current := none, waitStart := none } ∧
    (s.restedAt x).mgmt = s.mgmt ∧ (s.restedAt x).runs = s.runs ∧
    (∀ z : Fin 24, s.zones[z] = some x → z ∈ zonesAt s.figRecs[x] s.figs[x].position → (s.restedAt x).zones[z] = some x) ∧
    (∀ z : Fin 24, s.zones[z] = some x → z ∉ zonesAt s.figRecs[x] s.figs[x].position →
      (s.restedAt x).zones[z] ≠ some x) := by
  have rest := restFigure_fig_eq (s := s) (x := x)
  have still : (s.restFigure x).figs[x].state ≠ .waitZone := by
    rw [rest]
    dsimp only
    split <;> exact nofun
  obtain ⟨fig, mgmt, runs, -, keep, drop⟩ := restPass_facts (s.restFigure x) x still
  rw [rest] at keep drop
  exact ⟨fig.trans rest, mgmt, runs, keep, drop⟩

theorem completeStop_of_idle (idle : s.figs[x].stopEnd = .idle) :
    s.completeStop x = ((s.releaseCurrent x).restedAt x).takeWaiting x := by
  unfold State.completeStop
  dsimp only
  rw [show (s.releaseCurrent x).figs[x].stopEnd = .idle by rw [releaseCurrent_fig]; exact idle]
  rfl

theorem completeStop_of_held (held : s.figs[x].stopEnd = .held) (current : s.figs[x].current = some m) :
    s.completeStop x = (s.releaseCurrent x).settleStop x m := by
  unfold State.completeStop
  dsimp only
  rw [show (s.releaseCurrent x).figs[x].stopEnd = .held by rw [releaseCurrent_fig]; exact held,
    show (s.releaseCurrent x).figs[x].current = some m by rw [releaseCurrent_fig]; exact current]

/-- Whether a stopped figure has come to rest at the target of its move. -/
theorem near_iff {o : Option Nat} : (match o with
      | some p => withinTolerance s.figRecs[x] p m.goal
      | none => false) = true ↔ ∃ p, o = some p ∧ withinTolerance s.figRecs[x] p m.goal = true := by
  cases o <;> simp

theorem settleStop_of_near (near : ∃ p, s.figs[x].position = some p ∧ withinTolerance s.figRecs[x] p m.goal = true) :
    s.settleStop x m = ((s.restedAt x).endMove x m true).takeWaiting x := if_pos (near_iff.2 near)

theorem settleStop_of_open (far : ¬∃ p, s.figs[x].position = some p ∧ withinTolerance s.figRecs[x] p m.goal = true)
    (gate : s.calendar.figuresOpen = true) : s.settleStop x m = s.leaveHold x :=
  (if_neg (fun h => far (near_iff.1 h))).trans (if_pos gate)

theorem settleStop_of_closed (far : ¬∃ p, s.figs[x].position = some p ∧ withinTolerance s.figRecs[x] p m.goal = true)
    (gate : s.calendar.figuresOpen = false) : s.settleStop x m = s.modFig x (fun y => { y with state := .held }) :=
  (if_neg (fun h => far (near_iff.1 h))).trans (if_neg (by rw [gate]; exact nofun))

theorem withinTolerance_home {p : Nat} {rec_ : FigRec} (near : withinTolerance rec_ p m.goal = true) : m.goal ≠ .home := by
  intro home
  rw [home] at near
  exact nomatch near

theorem enterWaitZone_fig_of (current : s.figs[x].current = some m) : (s.enterWaitZone x).figs[x] = { s.figs[x] with
    state := .waitZone, waitStart := some s.clock.time,
    needed := neededZones s.figRecs[x] m.goal s.figs[x].position,
    resolvedWay := goalWay s.figRecs[x] m.goal s.figs[x].position } := by
  unfold State.enterWaitZone
  rw [modFig_figs_self]
  simp only [current]
  rfl

theorem leaveHold_mgmt : (s.leaveHold x).mgmt = (s.raise .figureHeld x.val 0).mgmt := by
  unfold State.leaveHold
  dsimp only
  exact raise_mgmt_congr (by simp [State.releaseZones]; rfl) (by simp [State.releaseZones]; rfl) _ _ _

/-! What the flags do by the figure's state. -/

theorem actOnFlags_of_arrived (state : s.figs[x].state = .moving) (current : s.figs[x].current = some m)
    (arrived : r.arrived = true)
    (near : withinTolerance s.figRecs[x] (reportedPosition s.figRecs[x] r.position) m.goal = true) :
    s.actOnFlags x r = s.arriveFigure x m := by
  unfold State.actOnFlags
  rw [state]
  dsimp only
  rw [current]
  exact if_pos (by rw [arrived, near]; rfl)

theorem actOnFlags_of_homing (state : s.figs[x].state = .homing) :
    s.actOnFlags x r = if s.figs[x].commandDone && r.homed then s.endHoming x else s := by
  unfold State.actOnFlags
  rw [state]

theorem actOnFlags_of_stopping (state : s.figs[x].state = .stopping) :
    s.actOnFlags x r = if s.figs[x].commandDone && !r.moving then s.completeStop x else s := by
  unfold State.actOnFlags
  rw [state]

/-! The whole of a status for one figure (R112). -/

section

variable (calm : r.overcurrent = false ∧ r.limit = false)
include calm

theorem figureStatus_is {v : State} (acts : (s.withReport x r).actOnFlags x r = v) (well : v.figs[x].state ≠ .fault) :
    s.figureStatus x r = v := by
  rw [figureStatus_of_calm calm, acts, faultStill_of_well well]

/-- A status that ends a move and has the figure take the next one. -/
theorem figureStatus_takes {v : State} {o : Option Move} (acts : (s.withReport x r).actOnFlags x r = v.takeWaiting x)
    (well : v.figs[x].state ≠ .fault) (slot : v.figs[x].nextMove = o) :
    s.figureStatus x r = (v.clearNext x).thenTake x o := by
  rw [figureStatus_of_calm calm, acts, faultStill_of_well (takeWaiting_state well), takeWaiting_by_slot slot]

end

theorem clearNext_zones : (s.clearNext x).zones = s.zones := rfl

theorem withReport_eq {y : Figure} (record : s.reported x r = y) : s.withReport x r = s.setFig x y :=
  congrArg (s.setFig x) record

/-- A figure that a flag puts into FAULT. -/
theorem figureStatus_fault_facts (unhomed : s.figs[x].state ≠ .unhomed) (fault : s.figs[x].state ≠ .fault)
    (flagged : r.overcurrent = true ∨ r.limit = true) : (s.figureStatus x r).figs[x].state = .fault ∧
    (s.figureStatus x r).figs[x].faultCause = some (if r.overcurrent then .overcurrent else .limit) ∧
    (s.figureStatus x r).figs[x].flags = r ∧ (s.figureStatus x r).zones = s.zones := by
  have state : (s.withReport x r).figs[x].state = s.figs[x].state := by rw [withReport_fig]; rfl
  have flags : (s.withReport x r).figs[x].flags = r := by rw [withReport_fig]; rfl
  have held : (s.withReport x r).zones = s.zones := rfl
  rw [figureStatus_of_fault unhomed fault flagged]
  generalize (if r.overcurrent then FaultCause.overcurrent else .limit) = c
  generalize s.withReport x r = v at *
  obtain ⟨faulted, cause, -, -, kept⟩ := enterFault_state (s := v) (x := x) c (by rw [state]; exact unhomed)
    (by rw [state]; exact fault)
  have zones := enterFault_zones (s := v) (x := x) c
  generalize v.enterFault x c = w at *
  obtain ⟨adm, still⟩ := faultStill_fig (s := w) (x := x) (r := r)
  rw [still, faultStill_zones]
  exact ⟨faulted, cause, kept.trans flags, zones.trans held⟩

/-- A stop that gives the move up: the figure at rest, and the move of its slot taken. -/
theorem stopped_facts {y : Figure} (calm : r.overcurrent = false ∧ r.limit = false)
    (record : ((s.withReport x r).releaseCurrent x).figs[x] = y)
    (acts : (s.withReport x r).actOnFlags x r = (((s.withReport x r).releaseCurrent x).restedAt x).takeWaiting x) :
    ∃ t : State, s.figureStatus x r = t.thenTake x y.nextMove ∧ t.mgmt = s.mgmt ∧ t.runs = s.runs ∧
      t.figs[x] = { y with
        state := if y.current.map (fun m => m.goal) = some .home then .unhomed else .idle,
        current := none, nextMove := none, waitStart := none } ∧
      (∀ z : Fin 24, s.zones[z] = some x → z ∈ zonesAt s.figRecs[x] y.position → t.zones[z] = some x) ∧
      (∀ z : Fin 24, s.zones[z] = some x → z ∉ zonesAt s.figRecs[x] y.position → t.zones[z] ≠ some x) := by
  obtain ⟨rest, mgmt, runs, keep, drop⟩ := restedAt_facts (s := (s.withReport x r).releaseCurrent x) (x := x)
  rw [record] at rest keep drop
  have told : _ = s.mgmt := mgmt
  have ran : _ = s.runs := runs
  generalize ((s.withReport x r).releaseCurrent x).restedAt x = w at *
  refine ⟨w.clearNext x, figureStatus_takes calm acts ?_ (by rw [rest]), told, ran, ?_, keep, drop⟩
  · rw [rest]
    dsimp only
    split <;> exact nofun
  · rw [clearNext_fig, rest]

/-- A stop for a hold that has come to rest at the target of its move: the move has arrived. -/
theorem stopped_near_facts {y : Figure} (calm : r.overcurrent = false ∧ r.limit = false)
    (record : ((s.withReport x r).releaseCurrent x).figs[x] = y) (current : y.current = some m)
    (near : ∃ p, y.position = some p ∧ withinTolerance s.figRecs[x] p m.goal = true)
    (acts : (s.withReport x r).actOnFlags x r =
      ((((s.withReport x r).releaseCurrent x).restedAt x).endMove x m true).takeWaiting x) :
    ∃ t : State, s.figureStatus x r = t.thenTake x y.nextMove ∧
      t.figs[x] = { y with
        state := .idle, current := none, nextMove := none, waitStart := none,
        movesArrived := min (y.movesArrived + 1) 65535 } ∧
      (∀ z : Fin 24, s.zones[z] = some x → z ∈ zonesAt s.figRecs[x] y.position → t.zones[z] = some x) ∧
      (∀ z : Fin 24, s.zones[z] = some x → z ∉ zonesAt s.figRecs[x] y.position → t.zones[z] ≠ some x) := by
  obtain ⟨p, -, within⟩ := near
  have away : ¬(y.current.map (fun m => m.goal) = some .home) := by
    rw [current]
    exact fun h => withinTolerance_home within (Option.some.inj h)
  obtain ⟨rest, -, -, keep, drop⟩ := restedAt_facts (s := (s.withReport x r).releaseCurrent x) (x := x)
  rw [record] at rest keep drop
  rw [if_neg away] at rest
  generalize ((s.withReport x r).releaseCurrent x).restedAt x = w at *
  have ended := endMove_fig (s := w) (x := x) m true
  have zones : (w.endMove x m true).zones = w.zones := yard_zones (yard_endMove x m true)
  rw [rest] at ended
  rw [← zones] at keep drop
  generalize w.endMove x m true = v at *
  refine ⟨v.clearNext x, figureStatus_takes calm acts ?_ (by rw [ended]; rfl), ?_, keep, drop⟩
  · rw [ended]
    exact nofun
  · rw [clearNext_fig, ended]
    rfl

/-- A stop for a hold whose gate has opened: the move waits for its zones again. -/
theorem stopped_far_facts {y : Figure} (calm : r.overcurrent = false ∧ r.limit = false)
    (record : ((s.withReport x r).releaseCurrent x).figs[x] = y) (current : y.current = some m)
    (acts : (s.withReport x r).actOnFlags x r = ((s.withReport x r).releaseCurrent x).leaveHold x) :
    (s.figureStatus x r).mgmt = (s.raise .figureHeld x.val 0).mgmt ∧
    (s.figureStatus x r).figs[x] = { y with
      state := .waitZone, waitStart := some s.clock.time,
      needed := neededZones s.figRecs[x] m.goal y.position, resolvedWay := goalWay s.figRecs[x] m.goal y.position } := by
  have fig := enterWaitZone_fig_of (s := (s.withReport x r).releaseCurrent x) (x := x) (m := m)
    (by rw [record]; exact current)
  have mgmt := leaveHold_mgmt (s := (s.withReport x r).releaseCurrent x) (x := x)
  rw [record, ← leaveHold_figs] at fig
  have told := mgmt.trans (raise_mgmt_congr (t := (s.withReport x r).releaseCurrent x) (s := s) rfl rfl _ _ _)
  generalize ((s.withReport x r).releaseCurrent x).leaveHold x = v at *
  rw [figureStatus_is calm acts (by rw [fig]; exact nofun)]
  exact ⟨told, fig⟩

/-- Settles O46: arrivals, faults by flags, homings and stops that end, and what they leave of zones and slot. -/
theorem reportsMoveFigures : Obligations.ReportsMoveFigures := by
  intro s x r fig position
  refine ⟨fun m moving current somewhere over_ limit arrives near => ?_, fun unhomed fault flagged => ?_, ?_⟩
  · have record : (s.withReport x r).figs[x] = { fig with flags := r, position := some position } := by
      rw [withReport_fig, reported_of_taking (by rw [show s.figs[x].state = .moving from moving]; rfl)]
      obtain ⟨p, at_⟩ := Option.ne_none_iff_exists'.1 somewhere
      rw [show s.figs[x].position = some p from at_]
      rfl
    have acts := (actOnFlags_of_arrived (s := s.withReport x r) (x := x) (r := r) (m := m) (by rw [record]; exact moving)
      (by rw [record]; exact current) arrives near).trans arriveFigure_eq
    have rest := arrived_fig (s := s.withReport x r) (x := x) (m := m)
    obtain ⟨keep, drop⟩ := arrived_zones (s := s.withReport x r) (x := x) (m := m)
    rw [record] at rest keep drop
    refine ⟨((s.withReport x r).arrived x m).clearNext x, ?_, ?_, keep, drop⟩
    · exact figureStatus_takes ⟨over_, limit⟩ acts (by rw [rest]; exact nofun) (by rw [rest])
    · rw [clearNext_fig, rest]
  · exact figureStatus_fault_facts unhomed fault flagged
  · intro calm next keeps
    refine ⟨fun homing done_ calm homed => ?_, fun homing not_ calm => ?_, ?_⟩
    · have record : (s.withReport x r).figs[x] = { fig with flags := r } := by
        rw [withReport_fig, reported_of_not (by rw [show s.figs[x].state = .homing from homing]; rfl)]
      have acts : (s.withReport x r).actOnFlags x r = ((s.withReport x r).homedAt x).takeWaiting x := by
        rw [actOnFlags_of_homing (by rw [record]; exact homing)]
        exact if_pos (by rw [record, show fig.commandDone = true from done_, homed]; rfl)
      obtain ⟨rest, mgmt, keep, drop⟩ := homedAt_facts (s := s.withReport x r) (x := x)
      have told := mgmt.trans (raise_mgmt_congr (t := s.withReport x r) (s := s) rfl rfl _ _ _)
      have held : (s.withReport x r).zones = s.zones := rfl
      rw [record] at rest
      rw [held] at keep drop
      generalize (s.withReport x r).homedAt x = w at *
      refine ⟨w.clearNext x, figureStatus_takes calm acts (by rw [rest]; exact nofun) (by rw [rest]), told, ?_, keep, drop⟩
      rw [clearNext_fig, rest]
      rfl
    · have record : s.reported x r = { fig with flags := r } :=
        reported_of_not (by rw [show s.figs[x].state = .homing from homing]; rfl)
      refine (figureStatus_is calm (v := s.withReport x r) ?_ ?_).trans (withReport_eq record)
      · rw [actOnFlags_of_homing (by rw [withReport_fig, record]; exact homing), withReport_fig, record]
        refine if_neg (fun h => ?_)
        rw [Bool.and_eq_true] at h
        obtain undone | away := not_
        · exact nomatch undone.symm.trans h.1
        · exact nomatch away.symm.trans h.2
      · rw [withReport_fig, record]
        exact fun h => nomatch homing.symm.trans h
    · intro seen stopped
      have record (stopping : fig.state = .stopping) : s.reported x r = { fig with flags := r, position := seen } :=
        reported_of_taking (by rw [show s.figs[x].state = .stopping from stopping]; rfl)
      have released (stopping : fig.state = .stopping) : ((s.withReport x r).releaseCurrent x).figs[x] =
          { fig with flags := r, position := seen, admitted := none } := by
        rw [releaseCurrent_fig, withReport_fig, record stopping]
      have completes (stop : stopped) : (s.withReport x r).actOnFlags x r = (s.withReport x r).completeStop x := by
        obtain ⟨stopping, done_, still, -⟩ := stop
        rw [actOnFlags_of_stopping (by rw [withReport_fig, record stopping]; exact stopping), withReport_fig,
          record stopping]
        exact if_pos (by rw [show fig.commandDone = true from done_, still]; rfl)
      refine ⟨fun stop idle => ?_, fun m stop held current => ?_, fun stopping not_ calm => ?_⟩
      · have acts := completes stop
        obtain ⟨stopping, -, -, calm⟩ := stop
        rw [completeStop_of_idle (by rw [withReport_fig, record stopping]; exact idle)] at acts
        exact stopped_facts calm (released stopping) acts
      · have acts := completes stop
        obtain ⟨stopping, -, -, calm⟩ := stop
        have rec_ := released stopping
        rw [completeStop_of_held (m := m) (by rw [withReport_fig, record stopping]; exact held)
          (by rw [withReport_fig, record stopping]; exact current)] at acts
        intro near
        refine ⟨fun yes => ?_, fun far gate => ?_, fun far gate => ?_⟩
        · rw [settleStop_of_near (by rw [rec_]; exact yes)] at acts
          exact stopped_near_facts calm rec_ current yes acts
        · rw [settleStop_of_open (s := (s.withReport x r).releaseCurrent x) (x := x) (m := m) (by rw [rec_]; exact far)
            gate] at acts
          exact ⟨_, rfl, stopped_far_facts calm rec_ current acts⟩
        · rw [settleStop_of_closed (s := (s.withReport x r).releaseCurrent x) (x := x) (m := m) (by rw [rec_]; exact far)
            gate] at acts
          refine (figureStatus_is calm acts (by rw [modFig_figs_self]; exact nofun)).trans ?_
          rw [withReport_eq (record stopping), State.releaseCurrent, modFig_setFig, modFig_setFig]
          rfl
      · refine (figureStatus_is calm (v := s.withReport x r) ?_ ?_).trans (withReport_eq (record stopping))
        · rw [actOnFlags_of_stopping (by rw [withReport_fig, record stopping]; exact stopping), withReport_fig,
            record stopping]
          refine if_neg (fun h => ?_)
          rw [Bool.and_eq_true, Bool.not_eq_true'] at h
          obtain undone | moves := not_
          · exact nomatch undone.symm.trans h.1
          · exact nomatch moves.symm.trans h.2
        · rw [withReport_fig, record stopping]
          exact fun h => nomatch stopping.symm.trans h

end

end Sys2Proof.Machine

/-! What a purge of the launch queue leaves alone, and what the withdrawal of its moves leaves of a figure (R61, R71 to
R73, R96, R123). -/

namespace Sys2Proof.Machine

section

variable {s t u : State} {x : Fin 16} {k : Fin 4} {m : Move}

/-! Purges. -/

/-- What a purge, with the frames it closes and its notice of room, may change: the launch queue, the queues to the
boards, and the notices of the runs. -/
def Purged (s t : State) : Prop :=
  ∃ tail launch runs, t = { s with tail := tail, launch := launch, runs := runs } ∧
    ∀ j : Fin 4, ∃ b, runs[j] = { s.runs[j] with roomNotice := b }

theorem Purged.refl (s : State) : Purged s s := ⟨s.tail, s.launch, s.runs, rfl, fun j => ⟨s.runs[j].roomNotice, rfl⟩⟩

theorem Purged.trans (h : Purged s t) (l : Purged t u) : Purged s u := by
  obtain ⟨tail, launch, runs, rfl, notices⟩ := h
  obtain ⟨tail', launch', runs', rfl, notices'⟩ := l
  refine ⟨tail', launch', runs', rfl, fun j => ?_⟩
  obtain ⟨b, first⟩ := notices j
  obtain ⟨c, second⟩ := notices' j
  exact ⟨c, second.trans (by rw [first])⟩

theorem purged_modLaunch (g : Launch → Launch) : Purged s (s.modLaunch g) :=
  ⟨s.tail, g s.launch, s.runs, rfl, fun j => ⟨s.runs[j].roomNotice, rfl⟩⟩

theorem purged_offerFrame (o : OpenFrame) : Purged s (s.offerFrame o) := by
  unfold State.offerFrame
  split
  · exact ⟨_, _, s.runs, rfl, fun j => ⟨s.runs[j].roomNotice, rfl⟩⟩
  · exact ⟨s.tail, _, s.runs, rfl, fun j => ⟨s.runs[j].roomNotice, rfl⟩⟩

theorem purged_offerFrames (l : List OpenFrame) : Purged s (l.foldl State.offerFrame s) := by
  induction l generalizing s with
  | nil => exact .refl s
  | cons o l ih => exact (purged_offerFrame o).trans ih

theorem purged_endBatch : Purged s s.endBatch := by
  unfold State.endBatch State.closeFrames
  split
  · exact .refl s
  · exact (purged_modLaunch _).trans (purged_offerFrames _)

theorem purged_noticeRoom (n : Nat) : Purged s (s.noticeRoom n) := by
  unfold State.noticeRoom
  split
  · refine ⟨s.tail, s.launch, _, rfl, fun j => ?_⟩
    rw [Fin.getElem_fin, Vector.getElem_map]
    by_cases paused : s.runs[j].paused = true
    · exact ⟨true, if_pos paused⟩
    · exact ⟨s.runs[j].roomNotice, if_neg paused⟩
  · exact .refl s

theorem purged_purge (r : PurgeReason) (p : LaunchEntry → Bool) : Purged s (s.purge r p) :=
  ((purged_modLaunch _).trans purged_endBatch).trans (purged_noticeRoom s.held)

theorem Purged.backdrop (h : Purged s t) : Backdrop s t := by
  obtain ⟨tail, launch, runs, rfl, -⟩ := h
  exact .of_same rfl rfl rfl rfl rfl rfl

theorem Purged.apart (h : Purged s t) (x : Fin 16) : Apart x s t := by
  have back := h.backdrop
  obtain ⟨tail, launch, runs, rfl, -⟩ := h
  exact ⟨back, rfl, fun _ => Iff.rfl, fun _ h => h⟩

theorem Purged.figs (h : Purged s t) : t.figs = s.figs := by obtain ⟨tail, launch, runs, rfl, -⟩ := h; rfl

theorem Purged.runState (h : Purged s t) (j : Fin 4) : t.runs[j].state = s.runs[j].state := by
  obtain ⟨tail, launch, runs, rfl, notices⟩ := h
  obtain ⟨b, same⟩ := notices j
  show runs[j].state = s.runs[j].state
  rw [same]

theorem purge_waiting (r : PurgeReason) (p : LaunchEntry → Bool) :
    (s.purge r p).launch.waiting = s.launch.waiting.filter (fun e => !p e) :=
  congrArg (fun x => x.1) (purge_purges (s := s) r p)

/-! The current move withdrawn (the table of R123). -/

theorem withdrawCurrent_of_waiting
    (waits : s.figs[x].state = .waitZone ∨ s.figs[x].state = .waitSupply ∨ s.figs[x].state = .held) :
    s.withdrawCurrent x = (s.restFigure x).keepResting x := by
  unfold State.withdrawCurrent
  obtain e | e | e := waits <;> rw [e]

theorem withdrawCurrent_of_moving
    (moves : s.figs[x].state = .starting ∨ s.figs[x].state = .moving ∨ s.figs[x].state = .homing) :
    s.withdrawCurrent x = (s.modFig x Figure.markWithdrawn).stopFigure x .idle := by
  unfold State.withdrawCurrent
  obtain e | e | e := moves <;> rw [e]

theorem withdrawCurrent_of_stopping (stopping : s.figs[x].state = .stopping) :
    s.withdrawCurrent x = s.modFig x (fun y => { y.markWithdrawn with stopEnd := .idle }) := by
  unfold State.withdrawCurrent
  rw [stopping]

theorem withdrawCurrent_of_still
    (still : s.figs[x].state = .unhomed ∨ s.figs[x].state = .idle ∨ s.figs[x].state = .fault) :
    s.withdrawCurrent x = s := by
  unfold State.withdrawCurrent
  obtain e | e | e := still <;> rw [e]

/-- The zones that a figure at rest holds: those of its position. -/
theorem keepResting_held {z : Fin 24} (held : s.zones[z] = some x) :
    (s.keepResting x).zones[z] = if z ∈ zonesAt s.figRecs[x] s.figs[x].position then some x else none := by
  rw [zones_keepResting]
  by_cases at_ : z ∈ zonesAt s.figRecs[x] s.figs[x].position
  · rw [if_pos at_, if_neg (fun h => h.2 at_), held]
  · rw [if_neg at_, if_pos ⟨held, at_⟩]

/-- A waiting figure whose move is withdrawn comes to rest, with the zones of its position alone. -/
theorem withdrawCurrent_waiting_facts (current : s.figs[x].current = some m)
    (waits : s.figs[x].state = .waitZone ∨ s.figs[x].state = .waitSupply ∨ s.figs[x].state = .held) :
    (s.withdrawCurrent x).figs[x] = { s.figs[x] with
      state := if m.goal = .home then .unhomed else .idle, current := none, waitStart := none } ∧
    ∀ z : Fin 24, s.zones[z] = some x → (s.withdrawCurrent x).zones[z] =
      if z ∈ zonesAt s.figRecs[x] s.figs[x].position then some x else none := by
  have rest := restFigure_fig current
  rw [withdrawCurrent_of_waiting waits]
  refine ⟨by rw [keepResting_figs, rest], fun z held => ?_⟩
  have kept := keepResting_held (s := s.restFigure x) (x := x) held
  rw [rest] at kept
  exact kept

theorem markWithdrawn_of_some {y : Figure} (current : y.current = some m) :
    y.markWithdrawn = { y with current := some { m with withdrawn := true } } := by
  unfold Figure.markWithdrawn
  rw [current]
  rfl

/-- The figure that lost only the move in its slot at its fault. -/
theorem bothFailed_of_withdrawn {y : Figure} (current : y.current = some m) (withdrawn : m.withdrawn = true) :
    y.bothFailed = if y.nextMove = none then y.movesFailed else min (y.movesFailed + 1) 65535 := by
  have none_ : y.currentFailed = y.movesFailed := by
    unfold Figure.currentFailed
    rw [current]
    exact if_pos withdrawn
  unfold Figure.bothFailed
  rw [none_]

/-- A figure under way whose current move is withdrawn, its board not ABSENT. -/
theorem withdrawCurrent_stopped_facts (current : s.figs[x].current = some m)
    (moves : s.figs[x].state = .starting ∨ s.figs[x].state = .moving ∨ s.figs[x].state = .homing)
    (there : s.boards[s.figRecs[x].board].presence ≠ .absent) :
    (s.withdrawCurrent x).figs[x] = { s.figs[x] with
      state := .stopping, stopEnd := .idle, travelDeadline := none, commandDone := false,
      current := some { m with withdrawn := true } } ∧
    (s.withdrawCurrent x).zones = s.zones ∧ (s.withdrawCurrent x).stopAsked s.figRecs[x].board x := by
  rw [withdrawCurrent_of_moving moves]
  refine ⟨?_, stopFigure_zones _, stopFigure_stops (s := s.modFig x Figure.markWithdrawn) .idle there⟩
  rw [stopFigure_fig_of_there _ (by exact there), modFig_figs_self, markWithdrawn_of_some current]

/-- A figure under way whose current move is withdrawn, its board ABSENT. -/
theorem withdrawCurrent_absent_facts (current : s.figs[x].current = some m)
    (moves : s.figs[x].state = .starting ∨ s.figs[x].state = .moving ∨ s.figs[x].state = .homing)
    (absent : s.boards[s.figRecs[x].board].presence = .absent) :
    (s.withdrawCurrent x).figs[x] = { s.figs[x] with
      state := .fault, faultCause := some .boardAbsent, stopEnd := .idle, travelDeadline := none, commandDone := false,
      current := none, nextMove := none, waitStart := none, waitUsed := 0, admitted := none,
      movesFailed := if s.figs[x].nextMove = none then s.figs[x].movesFailed else min (s.figs[x].movesFailed + 1) 65535 } ∧
    (s.withdrawCurrent x).zones = s.zones := by
  have marked : (s.modFig x Figure.markWithdrawn).figs[x] = { s.figs[x] with
      current := some { m with withdrawn := true } } :=
    (modFig_figs_self s x _).trans (markWithdrawn_of_some current)
  rw [withdrawCurrent_of_moving moves]
  refine ⟨?_, stopFigure_zones _⟩
  rw [stopFigure_fig_of_absent _ (by exact absent), Figure.faulted, bothFailed_of_withdrawn (m := { m with withdrawn := true })]
  · rw [marked]
  · rw [marked]
  · rfl
  · rw [marked]
    rintro (e : s.figs[x].state = _)
    obtain h | h | h := moves <;> exact nomatch h.symm.trans e
  · rw [marked]
    rintro (e : s.figs[x].state = _)
    obtain h | h | h := moves <;> exact nomatch h.symm.trans e

/-- A figure that is stopping goes on, to rest with no outcome for its move. -/
theorem withdrawCurrent_stopping_facts (current : s.figs[x].current = some m) (stopping : s.figs[x].state = .stopping) :
    (s.withdrawCurrent x).figs[x] = { s.figs[x] with stopEnd := .idle, current := some { m with withdrawn := true } } ∧
    (s.withdrawCurrent x).zones = s.zones := by
  rw [withdrawCurrent_of_stopping stopping]
  refine ⟨?_, rfl⟩
  rw [modFig_figs_self, markWithdrawn_of_some current]

/-! The move in the slot of a figure that comes to rest (R123). -/

theorem takeAtRest_of_busy (busy : s.figs[x].state ≠ .idle ∧ s.figs[x].state ≠ .unhomed) : s.takeAtRest x = s := by
  unfold State.takeAtRest
  split
  · next e => exact absurd e busy.1
  · next e => exact absurd e busy.2
  all_goals rfl

theorem takeAtRest_of_empty (empty : s.figs[x].nextMove = none) : s.takeAtRest x = s := by
  have still : s.takeWaiting x = s := by
    unfold State.takeWaiting
    rw [empty]
  unfold State.takeAtRest
  rw [still]
  split <;> rfl

theorem takeAtRest_of_full {n : Move} (rests : s.figs[x].state = .idle ∨ s.figs[x].state = .unhomed)
    (full : s.figs[x].nextMove = some n) : s.takeAtRest x = (s.clearNext x).takeMove x n := by
  have takes := takeWaiting_of_some full
  unfold State.takeAtRest
  obtain e | e := rests <;> rw [e] <;> exact takes

/-! A move taken (R105). -/

@[simp] theorem yard_takeNextSlot : (s.takeNextSlot x m).yard = s.yard := by
  unfold State.takeNextSlot; split <;> simp

@[simp] theorem yard_beginMove : (s.beginMove x m).yard = s.yard := by
  unfold State.beginMove; dsimp only; split <;> rfl

@[simp] theorem yard_takeMove : (s.takeMove x m).yard = s.yard := by
  by_cases able : s.canMove x
  · rw [takeMove_of_able m able]
    cases s.figs[x].state with
    | idle => dsimp only; split <;> simp
    | _ => simp
  · rw [takeMove_of_unable m able, yard_endMove]

/-! What a withdrawal leaves of the owner. -/

theorem endMove_owner (a : Bool) : (s.endMove x m a).figs[x].owner = s.figs[x].owner := by
  rw [endMove_fig]; split <;> rfl

theorem enterFault_owner (c : FaultCause) : (s.enterFault x c).figs[x].owner = s.figs[x].owner := by
  by_cases out : s.figs[x].state = .unhomed ∨ s.figs[x].state = .fault
  · rw [enterFault_of_out c out]
  · push Not at out
    obtain ⟨done, adm, fig⟩ := enterFault_fig c out.1 out.2
    rw [fig]
    rfl

theorem stopFigure_owner (e : StopEnd) : (s.stopFigure x e).figs[x].owner = s.figs[x].owner := by
  by_cases absent : s.boards[s.figRecs[x].board].presence = .absent
  · rw [stopFigure_of_absent e absent, releaseCurrent_fig]
    exact (enterFault_owner _).trans (by rw [modFig_figs_self])
  · rw [stopFigure_fig_of_there e absent]

theorem withdrawCurrent_owner : (s.withdrawCurrent x).figs[x].owner = s.figs[x].owner := by
  have rests : ((s.restFigure x).keepResting x).figs[x].owner = s.figs[x].owner := by
    rw [keepResting_figs, restFigure_fig_eq]
  have stops : ((s.modFig x Figure.markWithdrawn).stopFigure x .idle).figs[x].owner = s.figs[x].owner := by
    rw [stopFigure_owner, modFig_figs_self]
    rfl
  unfold State.withdrawCurrent
  cases s.figs[x].state with
  | waitZone => exact rests
  | waitSupply => exact rests
  | held => exact rests
  | starting => exact stops
  | moving => exact stops
  | homing => exact stops
  | stopping => dsimp only; rw [modFig_figs_self]; rfl
  | _ => rfl

theorem takeNextSlot_owner : (s.takeNextSlot x m).figs[x].owner = s.figs[x].owner := by
  cases slot : s.figs[x].nextMove with
  | none => rw [takeNextSlot_of_empty m slot, setFig_get]
  | some old => rw [takeNextSlot_of_full m slot, modFig_figs_self]; exact endMove_owner false

theorem beginMove_owner : (s.beginMove x m).figs[x].owner = s.figs[x].owner := by
  cases gate : s.calendar.figuresOpen with
  | true => rw [beginMove_of_open m gate, setFig_get]
  | false => rw [beginMove_of_closed m gate, setFig_get]

theorem takeMove_owner : (s.takeMove x m).figs[x].owner = s.figs[x].owner := by
  by_cases able : s.canMove x
  · rw [takeMove_of_able m able]
    cases s.figs[x].state with
    | idle =>
      dsimp only
      split
      · exact endMove_owner true
      · exact beginMove_owner
    | waitZone => exact takeNextSlot_owner
    | waitSupply => exact takeNextSlot_owner
    | starting => exact takeNextSlot_owner
    | moving => exact takeNextSlot_owner
    | held => exact takeNextSlot_owner
    | _ => exact endMove_owner false
  · rw [takeMove_of_unable m able]
    exact endMove_owner false

theorem takeAtRest_owner : (s.takeAtRest x).figs[x].owner = s.figs[x].owner := by
  have takes : (s.takeWaiting x).figs[x].owner = s.figs[x].owner := by
    cases slot : s.figs[x].nextMove with
    | none => rw [takeWaiting_of_none slot, clearNext_fig]
    | some n => rw [takeWaiting_of_some slot, takeMove_owner, clearNext_fig]
  unfold State.takeAtRest
  cases s.figs[x].state with
  | idle => exact takes
  | unhomed => exact takes
  | _ => rfl

/-! A run's moves withdrawn from a figure (R123). -/

/-- The requesters that are moves of run `k`. -/
def Requester.ofRun (k : Fin 4) (q : Requester) : Bool :=
  match q with
  | .run j _ => j = k
  | .cue => false
  | .mgmt => false

theorem moveBy_ofRun_iff (o : Option Move) : moveBy (Requester.ofRun k) o = true ↔
    ∃ y i, o = some y ∧ y.requester = .run k i ∧ y.withdrawn = false := by
  unfold moveBy Requester.ofRun
  cases o with
  | none => simp
  | some y => cases h : y.requester <;> simp [h]

/-- A figure's slot, emptied if its move is of the run. -/
def State.freeSlotOf (s : State) (k : Fin 4) (x : Fin 16) : State :=
  if moveBy (Requester.ofRun k) s.figs[x].nextMove then s.modFig x (fun y => { y with nextMove := none }) else s

/-- What is left of a move in the slot when a run is cancelled. -/
def slotLeft (k : Fin 4) (o : Option Move) : Option Move := if moveBy (Requester.ofRun k) o then none else o

theorem freeSlotOf_fig : (s.freeSlotOf k x).figs[x] = { s.figs[x] with nextMove := slotLeft k s.figs[x].nextMove } := by
  unfold State.freeSlotOf slotLeft
  split
  · rw [modFig_figs_self]
  · rfl

@[simp] theorem freeSlotOf_zones : (s.freeSlotOf k x).zones = s.zones := by unfold State.freeSlotOf; split <;> rfl

theorem figStep_freeSlotOf : FigStep x s (s.freeSlotOf k x) := by
  unfold State.freeSlotOf
  split
  · exact figStep_modFig _ (.refl x s)
  · exact .refl x s

theorem withdrawRunFrom_of_other (other : moveBy (Requester.ofRun k) s.figs[x].current = false) :
    s.withdrawRunFrom k x = s.freeSlotOf k x := by
  have same : (s.freeSlotOf k x).figs[x].current = s.figs[x].current := by rw [freeSlotOf_fig]
  exact if_neg (by rw [← same] at other; exact Bool.eq_false_iff.1 other)

theorem withdrawRunFrom_of_mine (mine : moveBy (Requester.ofRun k) s.figs[x].current = true) :
    s.withdrawRunFrom k x = ((s.freeSlotOf k x).withdrawCurrent x).takeAtRest x := by
  have same : (s.freeSlotOf k x).figs[x].current = s.figs[x].current := by rw [freeSlotOf_fig]
  exact if_pos (by rw [← same] at mine; exact mine)

theorem withdrawRunFrom_owner : (s.withdrawRunFrom k x).figs[x].owner = s.figs[x].owner := by
  have freed : (s.freeSlotOf k x).figs[x].owner = s.figs[x].owner := by rw [freeSlotOf_fig]
  by_cases mine : moveBy (Requester.ofRun k) s.figs[x].current = true
  · rw [withdrawRunFrom_of_mine mine, takeAtRest_owner, withdrawCurrent_owner, freed]
  · rw [withdrawRunFrom_of_other (Bool.eq_false_iff.2 mine), freed]

/-! A run cancelled (R96). -/

/-- A figure after the release of the figures of a run. -/
def Figure.disowned (y : Figure) (k : Fin 4) : Figure := { y with owner := if y.owner = some k then none else y.owner }

theorem releaseFigures_fig : (s.releaseFigures k).figs[x] = s.figs[x].disowned k := by
  have mapped : (s.releaseFigures k).figs[x] =
      if s.figs[x].owner = some k then { s.figs[x] with owner := none } else s.figs[x] := by
    show (s.figs.map _)[x.val] = _
    rw [Vector.getElem_map]
    rfl
  rw [mapped]
  unfold Figure.disowned
  split
  · rfl
  · rfl

theorem raiseCancelled_eq (n : Nat) (c : CancelCause) : ∃ kind a b, s.raiseCancelled k n c = s.raise kind a b := by
  cases c <;> exact ⟨_, _, _, rfl⟩

/-- What the run unit does of a cancellation once the moves of the run are withdrawn. -/
theorem cancelled_facts (n : Nat) (c : CancelCause) :
    let t := ((u.releaseFigures k).modRun k Run.cancelled).raiseCancelled k n c
    Backdrop u t ∧ (∀ x : Fin 16, t.figs[x] = u.figs[x].disowned k) ∧ t.zones = u.zones ∧ t.launch = u.launch ∧
      t.runs[k] = u.runs[k].cancelled ∧ ∀ j : Fin 4, j ≠ k → t.runs[j] = u.runs[j] := by
  obtain ⟨kind, a, b, raised⟩ := raiseCancelled_eq (s := (u.releaseFigures k).modRun k Run.cancelled) (k := k) n c
  intro t
  have is_ : t = _ := raised
  rw [is_]
  have same : Backdrop u ((u.releaseFigures k).modRun k Run.cancelled) := .of_same rfl rfl rfl rfl rfl rfl
  refine ⟨same.trans (backdrop_raise _ _ _ _), fun x => releaseFigures_fig, rfl, rfl,
    ?_, fun j ne => ?_⟩
  · rw [State.raise_runs, modRun_eq_setRun, setRun_get]
    rfl
  · rw [State.raise_runs, modRun_eq_setRun, setRun_other _ ne]
    rfl

theorem cancelRun_of_free (c : CancelCause) (free : s.runs[k].state = .free) : s.cancelRun k c = s := if_pos free

theorem cancelRun_of_busy (c : CancelCause) (busy : s.runs[k].state ≠ .free) : s.cancelRun k c =
    (((((s.purgeRun k).withdrawRun k).releaseFigures k).modRun k Run.cancelled).raiseCancelled k s.runs[k].eventId c) :=
  if_neg busy

/-- What a cancellation leaves of figure `x`: what the withdrawal of the run's moves from it leaves, but for its owner. -/
theorem cancelRun_at (c : CancelCause) (busy : s.runs[k].state ≠ .free) (x : Fin 16) : ∃ w v, Apart x s w ∧
    Apart x (w.withdrawRunFrom k x) v ∧ Backdrop v (s.cancelRun k c) ∧
    (s.cancelRun k c).figs[x] = v.figs[x].disowned k ∧ (s.cancelRun k c).zones = v.zones := by
  obtain ⟨w, first, rest⟩ := pass_at (fun v y => figStep_withdrawRunFrom (f := y) k (.refl y v)) x (s.purgeRun k)
  obtain ⟨back, fig, zones, -⟩ := cancelled_facts (u := (s.purgeRun k).withdrawRun k) (k := k) s.runs[k].eventId c
  rw [← cancelRun_of_busy c busy] at back fig zones
  exact ⟨w, _, ((purged_purge _ _).apart x).trans first, rest, back, fig x, zones⟩

theorem foldl_runState {g : State → Fin 16 → State} (step : ∀ (v : State) (y : Fin 16), FigStep y v (g v y))
    (l : List (Fin 16)) (v : State) (j : Fin 4) : (l.foldl g v).runs[j].state = v.runs[j].state := by
  induction l generalizing v with
  | nil => rfl
  | cons y l ih => rw [List.foldl_cons, ih, (step v y).runState]

theorem foldl_launch {g : State → Fin 16 → State} (step : ∀ (v : State) (y : Fin 16), FigStep y v (g v y))
    (l : List (Fin 16)) (v : State) : (l.foldl g v).launch = v.launch := by
  induction l generalizing v with
  | nil => rfl
  | cons y l ih => rw [List.foldl_cons, ih, (step v y).launch]

/-- The slots after a cancellation: the run's is FREE and empty, the others go on. -/
theorem cancelRun_runs (c : CancelCause) (j : Fin 4) :
    (s.cancelRun k c).runs[j].state = if j = k then .free else s.runs[j].state := by
  by_cases free : s.runs[k].state = .free
  · rw [cancelRun_of_free c free]
    split
    · next e => rw [e, free]
    · rfl
  · obtain ⟨-, -, -, -, own, others⟩ := cancelled_facts (u := (s.purgeRun k).withdrawRun k) (k := k) s.runs[k].eventId c
    rw [← cancelRun_of_busy c free] at own others
    have withdrawn : ((s.purgeRun k).withdrawRun k).runs[j].state = s.runs[j].state :=
      (foldl_runState (fun v y => figStep_withdrawRunFrom (f := y) k (.refl y v)) _ _ j).trans
        ((purged_purge _ _).runState j)
    split
    · next e =>
      subst e
      rw [own]
      rfl
    · next ne => rw [others j ne, withdrawn]

theorem cancelRun_backdrop (c : CancelCause) : Backdrop s (s.cancelRun k c) := by
  by_cases free : s.runs[k].state = .free
  · rw [cancelRun_of_free c free]
    exact .refl s
  · obtain ⟨w, v, first, rest, back, -⟩ := cancelRun_at c free 0
    exact ((first.backdrop.trans (figStep_withdrawRunFrom (f := 0) k (.refl 0 w)).backdrop).trans rest.backdrop).trans back

theorem cancelRun_owner (c : CancelCause) : (s.cancelRun k c).figs[x].owner =
    if s.figs[x].owner = some k ∧ s.runs[k].state ≠ .free then none else s.figs[x].owner := by
  by_cases free : s.runs[k].state = .free
  · rw [cancelRun_of_free c free, if_neg (fun h => h.2 free)]
  · obtain ⟨w, v, first, rest, -, fig, -⟩ := cancelRun_at c free x
    have same : v.figs[x].owner = s.figs[x].owner := by rw [rest.fig, withdrawRunFrom_owner, first.fig]
    rw [fig, Figure.disowned, same]
    exact if_congr (iff_self_and.2 (fun _ => free)) rfl rfl

/-- No entry of a cancelled run waits in the launch queue (R72). -/
theorem cancelRun_waiting (c : CancelCause) (busy : s.runs[k].state ≠ .free) :
    (s.cancelRun k c).launch.waiting = s.launch.waiting.filter (fun e => !(decide (e.origin = .run k))) := by
  obtain ⟨-, -, -, launch, -⟩ := cancelled_facts (u := (s.purgeRun k).withdrawRun k) (k := k) s.runs[k].eventId c
  rw [← cancelRun_of_busy c busy] at launch
  rw [launch, show ((s.purgeRun k).withdrawRun k).launch = (s.purgeRun k).launch from
    foldl_launch (fun v y => figStep_withdrawRunFrom (f := y) k (.refl y v)) _ _]
  exact purge_waiting _ _

end

end Sys2Proof.Machine

/-! A show stopped by a cue: its queue entry removed or its run cancelled, and what that does to each figure (R96, R123,
R153). -/

namespace Sys2Proof.Machine

section

variable {s t u v : State} {x : Fin 16} {k : Fin 4} {m : Move} {w : Fin 32}

/-! Figures that keep their current move. -/

/-- Of figure `x` only the move in its slot and its owner may have changed, and the zones it holds are the same. -/
structure Spared (x : Fin 16) (left : Option Move) (owner : Option (Fin 4)) (s t : State) : Prop where
  backdrop : Backdrop s t
  fig : t.figs[x] = { s.figs[x] with nextMove := left, owner := owner }
  held : ∀ z : Fin 24, t.zones[z] = some x ↔ s.zones[z] = some x
  free : ∀ z : Fin 24, s.zones[z] = none → t.zones[z] = none

variable {left left' : Option Move} {o o' : Option (Fin 4)}

theorem Spared.trans (h : Spared x left o s t) (l : Spared x left' o' t u) : Spared x left' o' s u :=
  ⟨h.backdrop.trans l.backdrop, by rw [l.fig, h.fig], fun z => (l.held z).trans (h.held z),
    fun z e => l.free z (h.free z e)⟩

theorem Apart.spared (h : Apart x s t) : Spared x s.figs[x].nextMove s.figs[x].owner s t :=
  ⟨h.backdrop, h.fig, h.held, h.free⟩

theorem Spared.then (h : Spared x left o s t) (l : Apart x t u) : Spared x left o s u :=
  ⟨h.backdrop.trans l.backdrop, l.fig.trans h.fig, fun z => (l.held z).trans (h.held z),
    fun z e => l.free z (h.free z e)⟩

theorem spared_freeSlotOf (k : Fin 4) (s : State) (x : Fin 16) :
    Spared x (slotLeft k s.figs[x].nextMove) s.figs[x].owner s (s.freeSlotOf k x) :=
  ⟨figStep_freeSlotOf.backdrop, freeSlotOf_fig, fun z => by rw [freeSlotOf_zones], fun z e => by
    rw [freeSlotOf_zones, e]⟩

/-- The owner that a figure keeps when run `k` is cancelled. -/
def ownerLeft (k : Fin 4) (o : Option (Fin 4)) : Option (Fin 4) := if o = some k then none else o

/-- A cancellation leaves the current move of a figure that has none of the run's. -/
theorem cancelRun_spares (c : CancelCause) (busy : s.runs[k].state ≠ .free)
    (other : moveBy (Requester.ofRun k) s.figs[x].current = false) :
    Spared x (slotLeft k s.figs[x].nextMove) (ownerLeft k s.figs[x].owner) s (s.cancelRun k c) := by
  obtain ⟨w, v, first, rest, back, fig, zones⟩ := cancelRun_at c busy x
  rw [withdrawRunFrom_of_other (by rw [first.fig]; exact other)] at rest
  have freed := spared_freeSlotOf k w x
  rw [first.fig] at freed
  have till := (first.spared.trans freed).then rest
  refine ⟨till.backdrop.trans back, ?_, fun z => by rw [zones]; exact till.held z,
    fun z e => by rw [zones]; exact till.free z e⟩
  rw [fig, till.fig]
  rfl

/-- A cancellation withdraws the current move of a figure that has one of the run's, from a state where only its slot
has changed. -/
theorem cancelRun_withdraws (c : CancelCause) (busy : s.runs[k].state ≠ .free)
    (mine : moveBy (Requester.ofRun k) s.figs[x].current = true) : ∃ u v,
    Spared x (slotLeft k s.figs[x].nextMove) s.figs[x].owner s u ∧ Apart x ((u.withdrawCurrent x).takeAtRest x) v ∧
    Backdrop v (s.cancelRun k c) ∧ (s.cancelRun k c).figs[x] = v.figs[x].disowned k ∧
    (s.cancelRun k c).zones = v.zones := by
  obtain ⟨w, v, first, rest, back, fig, zones⟩ := cancelRun_at c busy x
  rw [withdrawRunFrom_of_mine (by rw [first.fig]; exact mine)] at rest
  have freed := spared_freeSlotOf k w x
  rw [first.fig] at freed
  exact ⟨_, v, first.spared.trans freed, rest, back, fig, zones⟩

/-! The show (R153). -/

theorem runOf_of_only (busy : s.runs[k].state ≠ .free) (plays : s.runs[k].showId = some w)
    (only : ∀ j : Fin 4, j ≠ k → s.runs[j].state = .free ∨ s.runs[j].showId ≠ some w) : s.runOf w = some k := by
  refine find?_of_only (List.mem_finRange k) ?_ (fun j _ ne => ?_)
  · rw [plays]
    simpa using busy
  · show (s.runs[j].state != .free && decide (s.runs[j].showId = some w)) = false
    obtain free | other := only j ne
    · rw [free]
      rfl
    · rw [decide_eq_false other, Bool.and_false]

theorem runOf_of_none (unplayed : ¬∃ k : Fin 4, s.runs[k].state ≠ .free ∧ s.runs[k].showId = some w) :
    s.runOf w = none := by
  refine List.find?_eq_none.2 (fun j _ yes => unplayed ⟨j, ?_⟩)
  simpa using yes

theorem cueStop_of_run (runs : s.runOf w = some k) : s.cueStop w.val = s.judgeAfter (s.cancelRun k .showStop) := by
  unfold State.cueStop State.stopShow
  rw [fin?_val]
  dsimp only
  rw [runs]

theorem cueStop_of_queued (none_ : s.runOf w = none) (queued : ∃ q ∈ s.showUnit.queue, q.showId = w) :
    s.cueStop w.val = s.judgeAfter ((s.modShowUnit (fun u => { u with
      queue := u.queue.filter (fun q => q.showId ≠ w) })).raiseDropped w .stopped) := by
  have any_ : s.showUnit.queue.any (fun q => q.showId = w) = true := by simpa using queued
  unfold State.cueStop State.stopShow
  rw [fin?_val]
  dsimp only
  rw [none_]
  dsimp only
  rw [any_]
  rfl

theorem cueStop_of_inactive (none_ : s.runOf w = none) (unqueued : ¬∃ q ∈ s.showUnit.queue, q.showId = w) :
    s.cueStop w.val = s.raise .cueRefused 14 1024 := by
  have any_ : s.showUnit.queue.any (fun q => q.showId = w) = false := by simpa using unqueued
  unfold State.cueStop State.stopShow
  rw [fin?_val]
  dsimp only
  rw [none_]
  dsimp only
  rw [any_]
  rfl

/-! One figure at the cancellation of a run. -/

theorem slotLeft_of {n : Option Move} (slot : ((∃ y i, n = some y ∧ y.requester = .run k i ∧ y.withdrawn = false) ∧ left = none) ∨
    (¬(∃ y i, n = some y ∧ y.requester = .run k i ∧ y.withdrawn = false) ∧ left = n)) : slotLeft k n = left := by
  unfold slotLeft
  obtain ⟨mine, rfl⟩ | ⟨other, rfl⟩ := slot
  · exact if_pos ((moveBy_ofRun_iff _).2 mine)
  · exact if_neg (fun h => other ((moveBy_ofRun_iff _).1 h))

/-- A figure that rests takes no more from the zones than what keeps it in place. -/
theorem takeAtRest_zones : (s.takeAtRest x).zones = s.zones := by
  have takes : (s.takeWaiting x).zones = s.zones := by
    cases slot : s.figs[x].nextMove with
    | none => rw [takeWaiting_of_none slot]; rfl
    | some n => rw [takeWaiting_of_some slot]; exact yard_zones yard_takeMove
  unfold State.takeAtRest
  split
  · exact takes
  · exact takes
  all_goals rfl

theorem rest_or {p : Prop} [Decidable p] : (if p then FigState.unhomed else .idle) = .idle ∨
    (if p then FigState.unhomed else .idle) = .unhomed := by
  split
  · exact .inr rfl
  · exact .inl rfl

/-- A waiting figure whose move is withdrawn rests, or takes the move left in its slot. -/
theorem withdrawn_waiting_facts (current : s.figs[x].current = some m)
    (waits : s.figs[x].state = .waitZone ∨ s.figs[x].state = .waitSupply ∨ s.figs[x].state = .held) :
    let rested : Figure := { s.figs[x] with
      state := if m.goal = .home then .unhomed else .idle, current := none, nextMove := none, waitStart := none }
    (s.figs[x].nextMove = none → ((s.withdrawCurrent x).takeAtRest x).figs[x] = rested) ∧
    (∀ n, s.figs[x].nextMove = some n → ∃ u, u.figs[x] = rested ∧ Backdrop s u ∧
      (s.withdrawCurrent x).takeAtRest x = u.takeMove x n) ∧
    ∀ z : Fin 24, s.zones[z] = some x → ((s.withdrawCurrent x).takeAtRest x).zones[z] =
      if z ∈ zonesAt s.figRecs[x] s.figs[x].position then some x else none := by
  obtain ⟨fig, zones⟩ := withdrawCurrent_waiting_facts current waits
  have back := (figStep_withdrawCurrent (.refl x s)).backdrop
  intro rested
  generalize s.withdrawCurrent x = v at *
  refine ⟨fun empty => ?_, fun n full => ⟨v.clearNext x, ?_, ?_, ?_⟩, fun z held => ?_⟩
  · rw [takeAtRest_of_empty (by rw [fig]; exact empty), fig]
    exact congrArg (fun n => ({ rested with nextMove := n } : Figure)) empty
  · rw [clearNext_fig, fig]
  · exact back.trans (figStep_modFig (fun y => { y with nextMove := none }) (.refl x v)).backdrop
  · exact takeAtRest_of_full (by rw [fig]; exact rest_or) (by rw [fig]; exact full)
  · rw [takeAtRest_zones]
    exact zones z held

/-- Settles O34: the show in the queue, at no place, or played by a run, whose cancellation is followed to each figure. -/
theorem showStopEndsTheShow : Obligations.ShowStopEndsTheShow := by
  intro s f w cued run read played queued left
  have carried : exec (.showStop f) s = .next (s.cueStop w.val) :=
    congrArg Host.Outcome.next (cueFrame_carried s f _ _ cued run read (.inl rfl))
  refine ⟨fun unplayed queued => carried.trans (congrArg Host.Outcome.next (cueStop_of_queued (runOf_of_none unplayed) queued)),
    fun unplayed unqueued => carried.trans (congrArg Host.Outcome.next (cueStop_of_inactive (runOf_of_none unplayed) unqueued)),
    fun k busy plays only => ?_⟩
  have back := cancelRun_backdrop (s := s) (k := k) .showStop
  obtain ⟨-, -, -, -, own, -⟩ := cancelled_facts (u := (s.purgeRun k).withdrawRun k) (k := k) s.runs[k].eventId .showStop
  rw [← cancelRun_of_busy .showStop busy] at own
  refine ⟨s.cancelRun k .showStop, carried.trans (congrArg Host.Outcome.next (cueStop_of_run (runOf_of_only busy plays only))),
    by rw [own]; rfl, by rw [own]; rfl, fun e mem => ?_, fun x => ?_, queue_cancelRun _ _ _, back.written,
    back.clock, ?_⟩
  · rw [cancelRun_waiting _ busy] at mem
    simpa using (List.mem_filter.1 mem).2
  · rw [cancelRun_owner]
    split
    · exact nofun
    · next no => exact fun own => no ⟨own, busy⟩
  intro ofRun x left slot fig r unowned keepsZones
  have slotIs : slotLeft k fig.nextMove = left := slotLeft_of slot
  refine ⟨fun other => ?_, fun m i current ofK live => ?_⟩
  · have spared := cancelRun_spares (x := x) .showStop busy
      (Bool.eq_false_iff.2 (fun h => other ((moveBy_ofRun_iff _).1 h)))
    rw [slotIs] at spared
    exact ⟨spared.fig, fun z held => (spared.held z).2 held⟩
  · intro waits rested ended
    obtain ⟨u, v, before, rest, after, figIs, zonesAre⟩ := cancelRun_withdraws (x := x) .showStop busy
      ((moveBy_ofRun_iff _).2 ⟨m, i, current, ofK, live⟩)
    rw [slotIs] at before
    have uFig : u.figs[x] = { fig with nextMove := left } := before.fig
    have uRec : u.figRecs[x] = r := before.backdrop.figRec x
    have uCurrent : u.figs[x].current = some m := by rw [uFig]; exact current
    have final : (s.cancelRun k .showStop).figs[x] = unowned ((u.withdrawCurrent x).takeAtRest x).figs[x] := by
      rw [figIs, rest.fig]
      rfl
    have kept (same : ((u.withdrawCurrent x).takeAtRest x).zones = u.zones) : keepsZones := by
      intro z held
      rw [zonesAre, rest.held z, same]
      exact (before.held z).2 held
    refine ⟨fun waiting => ?_, fun moves there => ?_, fun moves absent => ?_, fun stopping => ?_, fun fault => ?_⟩
    · obtain ⟨alone, takes, zones⟩ := withdrawn_waiting_facts uCurrent (by rw [uFig]; exact waiting)
      rw [uFig] at alone takes zones
      refine ⟨fun none_ => ?_, fun n some_ => ?_, fun z held => ?_⟩
      · rw [final, alone none_]
      · obtain ⟨y, yFig, yBack, is_⟩ := takes n some_
        have yAll := before.backdrop.trans yBack
        exact ⟨y, yFig, yAll.calendar, yAll.figRecs, yAll.boardRecs, yAll.clock, by rw [final, is_]⟩
      · have zone := zones z ((before.held z).2 held)
        rw [uRec] at zone
        rw [zonesAre]
        by_cases at_ : z ∈ zonesAt r fig.position
        · rw [if_pos at_] at zone ⊢
          exact (rest.held z).2 zone
        · rw [if_neg at_] at zone ⊢
          exact rest.free z zone
    · obtain ⟨fig_, zones, stops⟩ := withdrawCurrent_stopped_facts uCurrent
        (by rw [uFig]; exact moves.imp_right .inl) (by rw [before.backdrop.presenceOf]; exact there)
      have still : (u.withdrawCurrent x).takeAtRest x = u.withdrawCurrent x :=
        takeAtRest_of_busy (by rw [fig_]; exact ⟨nofun, nofun⟩)
      rw [still] at final kept rest
      rw [uRec] at stops
      refine ⟨by rw [final, fig_, uFig], kept zones, ?_⟩
      exact after.stops _ _ (rest.backdrop.stops _ _ stops)
    · obtain ⟨fig_, zones⟩ := withdrawCurrent_absent_facts uCurrent
        (by rw [uFig]; exact moves.imp_right .inl) (by rw [before.backdrop.presenceOf]; exact absent)
      have still : (u.withdrawCurrent x).takeAtRest x = u.withdrawCurrent x :=
        takeAtRest_of_busy (by rw [fig_]; exact ⟨nofun, nofun⟩)
      rw [still] at final kept
      exact ⟨by rw [final, fig_, uFig], kept zones⟩
    · obtain ⟨fig_, zones⟩ := withdrawCurrent_stopping_facts uCurrent (by rw [uFig]; exact stopping)
      have state : (u.withdrawCurrent x).figs[x].state = .stopping := by rw [fig_, uFig]; exact stopping
      have still : (u.withdrawCurrent x).takeAtRest x = u.withdrawCurrent x :=
        takeAtRest_of_busy (by rw [state]; exact ⟨nofun, nofun⟩)
      rw [still] at final kept
      exact ⟨by rw [final, fig_, uFig], kept zones⟩
    · have state : u.figs[x].state = .fault := by rw [uFig]; exact fault
      have still : (u.withdrawCurrent x).takeAtRest x = u := by
        rw [withdrawCurrent_of_still (.inr (.inr state))]
        exact takeAtRest_of_busy (by rw [state]; exact ⟨nofun, nofun⟩)
      rw [still] at final kept
      exact ⟨by rw [final, uFig], kept rfl⟩

end

end Sys2Proof.Machine

/-! Every run cancelled and every move brought to its end: what is left of a figure (R96, R123, R124, R174). -/

namespace Sys2Proof.Machine

section

variable {s t u v w : State} {x : Fin 16} {k : Fin 4} {m : Move} {left : Option Move} {o p : Option (Fin 4)} {n : Nat}

/-! The runs cancelled in turn (R96). -/

/-- Among the slots of the list is one not FREE that the test picks. -/
def State.cuts (s : State) (l : List (Fin 4)) (q : Fin 4 → Bool) : Bool :=
  l.any (fun k => s.runs[k].state != .free && q k)

theorem cuts_iff {l : List (Fin 4)} {q : Fin 4 → Bool} :
    s.cuts l q = true ↔ ∃ k ∈ l, s.runs[k].state ≠ .free ∧ q k = true := by
  unfold State.cuts
  rw [List.any_eq_true]
  exact exists_congr (fun k => and_congr_right (fun _ => by rw [Bool.and_eq_true, bne_iff_ne]))

/-- A slot once cancelled cuts no more. -/
theorem cuts_cons (c : CancelCause) (l : List (Fin 4)) (q : Fin 4 → Bool) : s.cuts (k :: l) q = true ↔
    (s.runs[k].state ≠ .free ∧ q k = true) ∨ (s.cancelRun k c).cuts l q = true := by
  rw [cuts_iff, cuts_iff]
  constructor
  · rintro ⟨j, mem, busy, yes⟩
    by_cases same : j = k
    · subst same
      exact .inl ⟨busy, yes⟩
    · refine .inr ⟨j, (List.mem_cons.1 mem).resolve_left same, ?_, yes⟩
      rw [cancelRun_runs, if_neg same]
      exact busy
  · rintro (⟨busy, yes⟩ | ⟨j, mem, busy, yes⟩)
    · exact ⟨k, List.mem_cons_self, busy, yes⟩
    · rw [cancelRun_runs] at busy
      split at busy
      · exact absurd rfl busy
      · exact ⟨j, List.mem_cons_of_mem _ mem, busy, yes⟩

/-- What the cancellations of a list leave of something that a run's cancellation takes. -/
theorem cuts_step {α : Type} {q : Fin 4 → Option α → Bool} {before after : Option α}
    (c : CancelCause) (l : List (Fin 4))
    (step : after = if s.runs[k].state ≠ .free ∧ q k before = true then none else before) :
    (if (s.cancelRun k c).cuts l (fun j => q j after) then none else after) =
      if s.cuts (k :: l) (fun j => q j before) then none else before := by
  by_cases cut : s.runs[k].state ≠ .free ∧ q k before = true
  · rw [if_pos cut] at step
    subst step
    rw [ite_self, if_pos ((cuts_cons c l _).2 (.inl cut))]
  · rw [if_neg cut] at step
    subst step
    exact if_congr ((cuts_cons c l _).trans (or_iff_right cut)).symm rfl rfl

theorem cancels_owner (c : CancelCause) (l : List (Fin 4)) (v : State) :
    (l.foldl (fun t k => t.cancelRun k c) v).figs[x].owner =
      if v.cuts l (fun k => v.figs[x].owner = some k) then none else v.figs[x].owner := by
  induction l generalizing v with
  | nil => rfl
  | cons k l ih =>
    rw [List.foldl_cons, ih]
    refine cuts_step (q := fun k o => decide (o = some k)) c l ?_
    rw [cancelRun_owner]
    exact if_congr (and_comm.trans (and_congr_right (fun _ => decide_eq_true_iff.symm))) rfl rfl

theorem cancels_runs (c : CancelCause) (l : List (Fin 4)) (v : State) (j : Fin 4) :
    (l.foldl (fun t k => t.cancelRun k c) v).runs[j].state = if j ∈ l then .free else v.runs[j].state := by
  induction l generalizing v with
  | nil => rfl
  | cons k l ih =>
    rw [List.foldl_cons, ih, cancelRun_runs]
    by_cases mem : j ∈ l
    · rw [if_pos mem, if_pos (List.mem_cons_of_mem _ mem)]
    · rw [if_neg mem]
      exact if_congr (by rw [List.mem_cons, or_iff_left mem]) rfl rfl

theorem cancels_backdrop (c : CancelCause) (l : List (Fin 4)) (v : State) :
    Backdrop v (l.foldl (fun t k => t.cancelRun k c) v) := by
  induction l generalizing v with
  | nil => exact .refl v
  | cons k l ih => exact (cancelRun_backdrop c).trans (ih _)

theorem cancels_queue (c : CancelCause) (l : List (Fin 4)) (v : State) :
    (l.foldl (fun t k => t.cancelRun k c) v).showUnit.queue = v.showUnit.queue := by
  induction l generalizing v with
  | nil => rfl
  | cons k l ih => rw [List.foldl_cons, ih, queue_cancelRun]

/-- The cancellations leave the current move of a figure that has none of the runs'. -/
theorem cancels_spare (c : CancelCause) (l : List (Fin 4)) (v : State)
    (other : ∀ k ∈ l, v.runs[k].state ≠ .free → moveBy (Requester.ofRun k) v.figs[x].current = false) :
    ∃ o, Spared x (if v.cuts l (fun k => moveBy (Requester.ofRun k) v.figs[x].nextMove) then none else v.figs[x].nextMove) o
      v (l.foldl (fun t k => t.cancelRun k c) v) := by
  induction l generalizing v with
  | nil => exact ⟨_, (Apart.refl x v).spared⟩
  | cons k l ih =>
    have one : ∃ o, Spared x (if v.runs[k].state ≠ .free ∧ moveBy (Requester.ofRun k) v.figs[x].nextMove = true then none
        else v.figs[x].nextMove) o v (v.cancelRun k c) := by
      by_cases free : v.runs[k].state = .free
      · rw [cancelRun_of_free c free, if_neg (fun h => h.1 free)]
        exact ⟨_, (Apart.refl x v).spared⟩
      · refine ⟨ownerLeft k v.figs[x].owner, ?_⟩
        rw [if_congr (and_iff_right free) rfl rfl]
        exact cancelRun_spares c free (other k List.mem_cons_self free)
    obtain ⟨o, first⟩ := one
    obtain ⟨o', rest⟩ := ih (v.cancelRun k c) (fun j mem busy => by
      rw [first.fig]
      rw [cancelRun_runs] at busy
      split at busy
      · exact absurd rfl busy
      · exact other j (List.mem_cons_of_mem _ mem) busy)
    rw [cuts_step (q := fun k o => moveBy (Requester.ofRun k) o) c l (by rw [first.fig])] at rest
    exact ⟨o', first.trans rest⟩

/-- A figure that has no move of a run keeps both its moves. -/
theorem cancels_spare_both (c : CancelCause) (l : List (Fin 4)) (v : State)
    (other : ∀ k ∈ l, moveBy (Requester.ofRun k) v.figs[x].current = false)
    (slot : ∀ k ∈ l, moveBy (Requester.ofRun k) v.figs[x].nextMove = false) :
    ∃ o, Spared x v.figs[x].nextMove o v (l.foldl (fun t k => t.cancelRun k c) v) := by
  obtain ⟨o, spared⟩ := cancels_spare (x := x) c l v (fun k mem _ => other k mem)
  rw [if_neg] at spared
  · exact ⟨o, spared⟩
  · intro cut
    obtain ⟨k, mem, -, mine⟩ := cuts_iff.1 cut
    exact Bool.noConfusion ((slot k mem).symm.trans mine)

/-- A move that is not of run `k`. -/
theorem moveBy_ofRun_of_ne {i : Nat} (run : m.requester = .run k i) {j : Fin 4} (ne : j ≠ k) :
    moveBy (Requester.ofRun j) (some m) = false := by
  refine Bool.eq_false_iff.2 (fun h => ?_)
  obtain ⟨y, i', same, mine, -⟩ := (moveBy_ofRun_iff _).1 h
  cases same
  have both := run.symm.trans mine
  injection both with jk _
  exact ne jk.symm

/-- The cancellations withdraw the current move of a figure that has one of a run, whose slot holds none. -/
theorem cancels_withdraw (c : CancelCause) {i : Nat} (current : s.figs[x].current = some m)
    (run : m.requester = .run k i) (live : m.withdrawn = false) (busy : s.runs[k].state ≠ .free)
    (slot : ∀ j : Fin 4, moveBy (Requester.ofRun j) s.figs[x].nextMove = false) :
    ∃ u o, Spared x s.figs[x].nextMove o s u ∧ ∀ r, (u.withdrawCurrent x).takeAtRest x = r →
      (∀ j : Fin 4, moveBy (Requester.ofRun j) r.figs[x].current = false) →
      (∀ j : Fin 4, moveBy (Requester.ofRun j) r.figs[x].nextMove = false) →
      ∃ o', Spared x r.figs[x].nextMove o' r (s.cancelAll c) := by
  obtain ⟨before, after, order⟩ := List.append_of_mem (List.mem_finRange k)
  have once := List.nodup_finRange 4
  rw [order] at once
  have away : k ∉ before := fun h => (List.nodup_append.1 once).2.2 k h k List.mem_cons_self rfl
  have split_ : s.cancelAll c = after.foldl (fun t j => t.cancelRun j c)
      ((before.foldl (fun t j => t.cancelRun j c) s).cancelRun k c) := by
    show (List.finRange 4).foldl _ s = _
    rw [order, List.foldl_append]
    rfl
  obtain ⟨o, first⟩ := cancels_spare_both (x := x) c before s (fun j mem => by
    rw [current]
    exact moveBy_ofRun_of_ne run (fun e => away (e ▸ mem))) (fun j _ => slot j)
  have runs := cancels_runs c before s k
  rw [if_neg away] at runs
  rw [split_]
  generalize before.foldl (fun t j => t.cancelRun j c) s = v at *
  obtain ⟨u, w, till, rest, back, fig, zones⟩ := cancelRun_withdraws (s := v) (x := x) (k := k) c (by rw [runs]; exact busy)
    ((moveBy_ofRun_iff _).2 ⟨m, i, by rw [first.fig]; exact current, run, live⟩)
  have same : slotLeft k v.figs[x].nextMove = s.figs[x].nextMove := by
    rw [first.fig]
    exact if_neg (Bool.eq_false_iff.1 (slot k))
  rw [same] at till
  refine ⟨u, _, first.trans till, fun r is_ clean empty => ?_⟩
  rw [is_] at rest
  have one : Spared x r.figs[x].nextMove (ownerLeft k r.figs[x].owner) r (v.cancelRun k c) := by
    refine ⟨rest.backdrop.trans back, ?_, fun z => by rw [zones]; exact rest.held z,
      fun z e => by rw [zones]; exact rest.free z e⟩
    rw [fig, rest.fig]
    rfl
  generalize v.cancelRun k c = z at *
  obtain ⟨o', more⟩ := cancels_spare_both (x := x) c after z (fun j _ => by rw [one.fig]; exact clean j)
    (fun j _ => by rw [one.fig]; exact empty j)
  refine ⟨o', one.trans ?_⟩
  rw [one.fig] at more
  exact more

/-- The owner that a figure keeps when every run is cancelled. -/
def State.ownerKept (s : State) (o : Option (Fin 4)) : Option (Fin 4) :=
  match o with
  | some k => if s.runs[k].state = .free then some k else none
  | none => none

theorem ownerKept_eq : s.ownerKept o = if s.cuts (indices 4) (fun k => o = some k) then none else o := by
  cases o with
  | none => rw [ite_self]; rfl
  | some k =>
    unfold State.ownerKept
    by_cases free : s.runs[k].state = .free
    · rw [if_neg]
      · exact if_pos free
      · intro cut
        obtain ⟨j, -, busy, same⟩ := cuts_iff.1 cut
        exact busy (Option.some.inj (of_decide_eq_true same) ▸ free)
    · exact (if_neg free).trans (if_pos (cuts_iff.2 ⟨k, List.mem_finRange k, free, decide_eq_true rfl⟩)).symm

/-! The show queue emptied (R141). -/

theorem emptyShows_facts : (∀ x, Apart x s s.emptyShows) ∧ s.emptyShows.figs = s.figs ∧ s.emptyShows.runs = s.runs ∧
    s.emptyShows.showUnit.queue = [] := by
  have raised : ∀ (l : List ShowRequest) (v : State),
      let t := l.foldl (fun t q => t.raiseDropped q.showId .stopped) v
      Backdrop v t ∧ t.figs = v.figs ∧ t.zones = v.zones ∧ t.runs = v.runs := by
    intro l
    induction l with
    | nil => exact fun v => ⟨.refl v, rfl, rfl, rfl⟩
    | cons q l ih =>
      intro v
      obtain ⟨back, figs, zones, runs⟩ := ih (v.raiseDropped q.showId .stopped)
      exact ⟨(backdrop_raise v _ _ _).trans back, figs, zones, runs⟩
  obtain ⟨back, figs, zones, runs⟩ := raised s.showUnit.queue s
  refine ⟨fun x => ⟨back.trans (.of_same rfl rfl rfl rfl rfl rfl), ?_, fun z => ?_, fun z e => ?_⟩, figs, runs, rfl⟩
  · exact congrArg (fun f : Vector Figure 16 => f[x]) figs
  · rw [show s.emptyShows.zones = s.zones from zones]
  · rw [show s.emptyShows.zones = s.zones from zones, e]

/-! The shows and runs at an end (R96, R141). -/

/-- The state with the show queue emptied, every run cancelled and the launch queue purged. -/
def State.cleared (s : State) (c : CancelCause) : State := (s.emptyShows.cancelAll c).purgeAll

theorem purged_purgeAll : Purged s s.purgeAll := purged_purge _ _

theorem cleared_backdrop (s : State) (c : CancelCause) : Backdrop s (s.cleared c) :=
  ((emptyShows_facts.1 0).backdrop.trans (cancels_backdrop c _ _)).trans purged_purgeAll.backdrop

theorem cleared_owner (c : CancelCause) : (s.cleared c).figs[x].owner = s.ownerKept s.figs[x].owner := by
  obtain ⟨apart, figs, runs, -⟩ := emptyShows_facts (s := s)
  have owner := cancels_owner (x := x) c (indices 4) s.emptyShows
  have cuts : ∀ q, s.emptyShows.cuts (indices 4) q = s.cuts (indices 4) q := by
    intro q
    unfold State.cuts
    rw [runs]
  rw [cuts, figs] at owner
  rw [ownerKept_eq, ← owner]
  exact congrArg (fun f : Vector Figure 16 => f[x].owner) purged_purgeAll.figs

theorem cleared_runs (c : CancelCause) (j : Fin 4) : (s.cleared c).runs[j].state = .free := by
  refine (purged_purgeAll.runState j).trans ((cancels_runs c (indices 4) s.emptyShows j).trans ?_)
  exact if_pos (List.mem_finRange j)

theorem cleared_queue (c : CancelCause) : (s.cleared c).showUnit.queue = [] := by
  unfold State.cleared State.purgeAll State.cancelAll
  rw [queue_purge, cancels_queue, emptyShows_facts.2.2.2]

theorem cleared_waiting (s : State) (c : CancelCause) : (s.cleared c).launch.waiting = [] := by
  unfold State.cleared
  generalize s.emptyShows.cancelAll c = v
  rw [(purgeAll_held v).1]

/-- A figure whose current move is of no run that is not FREE. -/
theorem cleared_spares (c : CancelCause)
    (other : ∀ k : Fin 4, s.runs[k].state ≠ .free → moveBy (Requester.ofRun k) s.figs[x].current = false) :
    ∃ o, Spared x (if s.cuts (indices 4) (fun k => moveBy (Requester.ofRun k) s.figs[x].nextMove) then none
      else s.figs[x].nextMove) o s (s.cleared c) := by
  obtain ⟨apart, figs, runs, -⟩ := emptyShows_facts (s := s)
  obtain ⟨o, spared⟩ := cancels_spare (x := x) c (indices 4) s.emptyShows (fun k _ => by
    rw [figs, runs]
    exact other k)
  have cuts : ∀ q, s.emptyShows.cuts (indices 4) q = s.cuts (indices 4) q := by
    intro q
    unfold State.cuts
    rw [runs]
  rw [cuts, figs] at spared
  exact ⟨o, ((apart x).spared.trans spared).then (purged_purgeAll.apart x)⟩

/-- A figure whose current move is of a run that is not FREE. -/
theorem cleared_withdraws (c : CancelCause) {i : Nat} (current : s.figs[x].current = some m)
    (run : m.requester = .run k i) (live : m.withdrawn = false) (busy : s.runs[k].state ≠ .free)
    (slot : ∀ j : Fin 4, moveBy (Requester.ofRun j) s.figs[x].nextMove = false) :
    ∃ u o, Spared x s.figs[x].nextMove o s u ∧ ∀ r, (u.withdrawCurrent x).takeAtRest x = r →
      (∀ j : Fin 4, moveBy (Requester.ofRun j) r.figs[x].current = false) →
      (∀ j : Fin 4, moveBy (Requester.ofRun j) r.figs[x].nextMove = false) →
      ∃ o', Spared x r.figs[x].nextMove o' r (s.cleared c) := by
  obtain ⟨apart, figs, runs, -⟩ := emptyShows_facts (s := s)
  obtain ⟨u, o, till, rest⟩ := cancels_withdraw (s := s.emptyShows) (x := x) (k := k) (m := m) (i := i) c
    (by rw [figs]; exact current) run live (by rw [runs]; exact busy) (by rw [figs]; exact slot)
  rw [figs] at till
  refine ⟨u, o, (apart x).spared.trans till, fun r is_ clean empty => ?_⟩
  obtain ⟨o', spared⟩ := rest r is_ clean empty
  exact ⟨o', spared.then (purged_purgeAll.apart x)⟩

/-! The current move withdrawn from a figure with an empty slot. -/

theorem withdrawCurrent_slot (empty : s.figs[x].nextMove = none) : (s.withdrawCurrent x).figs[x].nextMove = none := by
  have stops : (s.figs[x].state = .starting ∨ s.figs[x].state = .moving ∨ s.figs[x].state = .homing) →
      (s.withdrawCurrent x).figs[x].nextMove = none := by
    intro moves
    have marked : (s.modFig x Figure.markWithdrawn).figs[x] = s.figs[x].markWithdrawn := modFig_figs_self s x _
    rw [withdrawCurrent_of_moving moves]
    by_cases absent : s.boards[s.figRecs[x].board].presence = .absent
    · rw [stopFigure_fig_of_absent .idle (by exact absent)]
      · rfl
      · rw [marked]
        rintro (e : s.figs[x].state = _)
        obtain h | h | h := moves <;> exact nomatch h.symm.trans e
      · rw [marked]
        rintro (e : s.figs[x].state = _)
        obtain h | h | h := moves <;> exact nomatch h.symm.trans e
    · rw [stopFigure_fig_of_there .idle (by exact absent), marked]
      exact empty
  have rests : (s.figs[x].state = .waitZone ∨ s.figs[x].state = .waitSupply ∨ s.figs[x].state = .held) →
      (s.withdrawCurrent x).figs[x].nextMove = none := by
    intro waits
    rw [withdrawCurrent_of_waiting waits, keepResting_figs, restFigure_fig_eq]
    exact empty
  cases state : s.figs[x].state with
  | waitZone => exact rests (.inl state)
  | waitSupply => exact rests (.inr (.inl state))
  | held => exact rests (.inr (.inr state))
  | starting => exact stops (.inl state)
  | moving => exact stops (.inr (.inl state))
  | homing => exact stops (.inr (.inr state))
  | stopping => rw [withdrawCurrent_of_stopping state, modFig_figs_self]; exact empty
  | unhomed => rw [withdrawCurrent_of_still (.inl state)]; exact empty
  | idle => rw [withdrawCurrent_of_still (.inr (.inl state))]; exact empty
  | fault => rw [withdrawCurrent_of_still (.inr (.inr state))]; exact empty

/-- A figure whose slot has been emptied, its failed moves counted, and its owner changed, with the zones it held. -/
structure Readied (x : Fin 16) (n : Nat) (o : Option (Fin 4)) (s t : State) : Prop where
  backdrop : Backdrop s t
  fig : t.figs[x] = { s.figs[x] with nextMove := none, owner := o, movesFailed := n }
  held : ∀ z : Fin 24, t.zones[z] = some x ↔ s.zones[z] = some x
  free : ∀ z : Fin 24, s.zones[z] = none → t.zones[z] = none

/-- A figure known but for its owner, and its owner. -/
theorem eq_of_owner {y z : Figure} (fig : y = z) (owner : y.owner = p) : y = { z with owner := p } := by
  subst owner
  subst fig
  rfl

section

variable {o' : Option (Fin 4)} (ready : Readied x n o s v)
  (rest : Spared x (v.withdrawCurrent x).figs[x].nextMove o' (v.withdrawCurrent x) t) (owner : t.figs[x].owner = p)
include ready rest owner

theorem ended_waiting_facts (current : s.figs[x].current = some m)
    (waits : s.figs[x].state = .waitZone ∨ s.figs[x].state = .waitSupply ∨ s.figs[x].state = .held) :
    t.figs[x] = { s.figs[x] with
      state := if m.goal = .home then .unhomed else .idle, current := none, nextMove := none, waitStart := none,
      movesFailed := n, owner := p } ∧
    ∀ z : Fin 24, s.zones[z] = some x → t.zones[z] = if z ∈ zonesAt s.figRecs[x] s.figs[x].position then some x else none := by
  obtain ⟨fig, zones⟩ := withdrawCurrent_waiting_facts (s := v) (x := x) (m := m) (by rw [ready.fig]; exact current)
    (by rw [ready.fig]; exact waits)
  have known := eq_of_owner rest.fig owner
  rw [fig, ready.fig] at known
  refine ⟨known, fun z held => ?_⟩
  have zone := zones z ((ready.held z).2 held)
  rw [ready.backdrop.figRec x, ready.fig] at zone
  by_cases at_ : z ∈ zonesAt s.figRecs[x] s.figs[x].position
  · rw [if_pos at_] at zone ⊢
    exact (rest.held z).2 zone
  · rw [if_neg at_] at zone ⊢
    exact rest.free z zone

theorem ended_stopped_facts (current : s.figs[x].current = some m)
    (moves : s.figs[x].state = .starting ∨ s.figs[x].state = .moving ∨ s.figs[x].state = .homing)
    (there : s.boards[s.figRecs[x].board].presence ≠ .absent) :
    t.figs[x] = { s.figs[x] with
      state := .stopping, stopEnd := .idle, travelDeadline := none, commandDone := false,
      current := some { m with withdrawn := true }, nextMove := none, movesFailed := n, owner := p } ∧
    (∀ z : Fin 24, s.zones[z] = some x → t.zones[z] = some x) ∧ t.stopAsked s.figRecs[x].board x := by
  obtain ⟨fig, zones, stops⟩ := withdrawCurrent_stopped_facts (s := v) (x := x) (m := m)
    (by rw [ready.fig]; exact current) (by rw [ready.fig]; exact moves) (by rw [ready.backdrop.presenceOf]; exact there)
  rw [ready.backdrop.figRec x] at stops
  have known := eq_of_owner rest.fig owner
  rw [fig, ready.fig] at known
  refine ⟨known, fun z held => ?_, rest.backdrop.stops _ _ stops⟩
  rw [rest.held z, zones]
  exact (ready.held z).2 held

theorem ended_absent_facts (current : s.figs[x].current = some m)
    (moves : s.figs[x].state = .starting ∨ s.figs[x].state = .moving ∨ s.figs[x].state = .homing)
    (absent : s.boards[s.figRecs[x].board].presence = .absent) :
    t.figs[x] = { s.figs[x] with
      state := .fault, faultCause := some .boardAbsent, stopEnd := .idle, travelDeadline := none, commandDone := false,
      current := none, nextMove := none, waitStart := none, waitUsed := 0, admitted := none, movesFailed := n,
      owner := p } ∧
    ∀ z : Fin 24, s.zones[z] = some x → t.zones[z] = some x := by
  obtain ⟨fig, zones⟩ := withdrawCurrent_absent_facts (s := v) (x := x) (m := m)
    (by rw [ready.fig]; exact current) (by rw [ready.fig]; exact moves) (by rw [ready.backdrop.presenceOf]; exact absent)
  rw [if_pos (by rw [ready.fig])] at fig
  have known := eq_of_owner rest.fig owner
  rw [fig, ready.fig] at known
  refine ⟨known, fun z held => ?_⟩
  rw [rest.held z, zones]
  exact (ready.held z).2 held

theorem ended_stopping_facts (current : s.figs[x].current = some m) (stopping : s.figs[x].state = .stopping) :
    t.figs[x] = { s.figs[x] with
      stopEnd := .idle, current := some { m with withdrawn := true }, nextMove := none, movesFailed := n, owner := p } ∧
    ∀ z : Fin 24, s.zones[z] = some x → t.zones[z] = some x := by
  obtain ⟨fig, zones⟩ := withdrawCurrent_stopping_facts (s := v) (x := x) (m := m)
    (by rw [ready.fig]; exact current) (by rw [ready.fig]; exact stopping)
  have known := eq_of_owner rest.fig owner
  rw [fig, ready.fig] at known
  refine ⟨known, fun z held => ?_⟩
  rw [rest.held z, zones]
  exact (ready.held z).2 held

end

/-! Ends of live moves told (R106). -/

theorem tells_endMove (live : m.requester = .cue) (a : Bool) :
    Tells .liveMoveDone x.val (if a then 1 else 0) s (s.endMove x m a) := by
  rw [endMove_of_cue m a live]
  exact tells_raise (figStep_modFig _ (.refl x s)).backdrop

end

end Sys2Proof.Machine

/-! An ALL_STOP cue, followed to each figure (R174). -/

namespace Sys2Proof.Machine

section

variable {s t u v w r : State} {x : Fin 16} {k : Fin 4} {m n : Move} {left : Option Move} {o o' p : Option (Fin 4)}

/-! Moves by their requesters. -/

/-- The requesters of live moves. -/
def Requester.isLive (q : Requester) : Bool :=
  match q with
  | .run _ _ => false
  | .cue => true
  | .mgmt => false

theorem moveBy_isLive_iff (y : Option Move) : moveBy Requester.isLive y = true ↔
    ∃ m, y = some m ∧ m.requester = .cue ∧ m.withdrawn = false := by
  unfold moveBy Requester.isLive
  cases y with
  | none => simp
  | some m => cases h : m.requester <;> simp [h]

theorem moveBy_of_withdrawn (q : Requester → Bool) (withdrawn : m.withdrawn = true) : moveBy q (some m) = false := by
  show (q m.requester && !m.withdrawn) = false
  rw [withdrawn]
  exact Bool.and_false _

theorem moveBy_ofRun_of_other (other : ∀ i, m.requester ≠ .run k i) : moveBy (Requester.ofRun k) (some m) = false := by
  refine Bool.eq_false_iff.2 (fun h => ?_)
  obtain ⟨y, i, same, mine, -⟩ := (moveBy_ofRun_iff _).1 h
  cases same
  exact other i mine

theorem moveBy_isLive_of_other (other : m.requester ≠ .cue) : moveBy Requester.isLive (some m) = false := by
  refine Bool.eq_false_iff.2 (fun h => ?_)
  obtain ⟨y, same, live, -⟩ := (moveBy_isLive_iff _).1 h
  cases same
  exact other live

theorem moveBy_ofRun_of_cue (cue : m.requester = .cue) (k : Fin 4) : moveBy (Requester.ofRun k) (some m) = false :=
  moveBy_ofRun_of_other (fun _ h => nomatch cue.symm.trans h)

/-! What the cancelled runs leave in the slot. -/

theorem slot_of_emptied (emptied : s.figs[x].nextMove = none ∨ ∃ n k i, s.figs[x].nextMove = some n ∧
      n.requester = .run k i ∧ n.withdrawn = false ∧ s.runs[k].state ≠ .free) :
    (if s.cuts (indices 4) (fun k => moveBy (Requester.ofRun k) s.figs[x].nextMove) then none
      else s.figs[x].nextMove) = none := by
  obtain none_ | ⟨n, k, i, some_, run, live, busy⟩ := emptied
  · rw [none_, ite_self]
  · exact if_pos (cuts_iff.2 ⟨k, List.mem_finRange k, busy, (moveBy_ofRun_iff _).2 ⟨n, i, some_, run, live⟩⟩)

theorem slot_of_cue (slot : s.figs[x].nextMove = some n) (cue : n.requester = .cue) :
    (if s.cuts (indices 4) (fun k => moveBy (Requester.ofRun k) s.figs[x].nextMove) then none
      else s.figs[x].nextMove) = some n := by
  rw [slot]
  refine if_neg (fun cut => ?_)
  obtain ⟨k, -, -, mine⟩ := cuts_iff.1 cut
  exact Bool.noConfusion ((moveBy_ofRun_of_cue cue k).symm.trans mine)

/-! The live moves withdrawn from a figure (R174). -/

/-- A figure whose live moves have been failed, before its current move is withdrawn. -/
def State.liveFailed (s : State) (x : Fin 16) : State :=
  if moveBy Requester.isLive s.figs[x].nextMove
  then ((if moveBy Requester.isLive s.figs[x].current then s.failCurrent x else s).failNext x).clearNext x
  else if moveBy Requester.isLive s.figs[x].current then s.failCurrent x else s

theorem withdrawLiveFrom_eq : s.withdrawLiveFrom x = if moveBy Requester.isLive s.figs[x].current
    then ((s.liveFailed x).withdrawCurrent x).takeAtRest x else s.liveFailed x := rfl

theorem failCurrent_of_live (current : s.figs[x].current = some m) (live : m.withdrawn = false) :
    s.failCurrent x = s.endMove x m false := by
  unfold State.failCurrent
  rw [current]
  exact if_neg (by rw [live]; exact nofun)

theorem failNext_of_some (slot : s.figs[x].nextMove = some n) : s.failNext x = s.endMove x n false := by
  unfold State.failNext
  rw [slot]

theorem withdrawLiveFrom_of_none (current : moveBy Requester.isLive s.figs[x].current = false)
    (slot : moveBy Requester.isLive s.figs[x].nextMove = false) : s.withdrawLiveFrom x = s := by
  rw [withdrawLiveFrom_eq, current, if_neg nofun]
  unfold State.liveFailed
  rw [slot, if_neg nofun, current, if_neg nofun]

theorem Spared.readied (h : Spared x none o s t) : Readied x s.figs[x].movesFailed o s t :=
  ⟨h.backdrop, h.fig, h.held, h.free⟩

/-- An end of a move is told and counted, and leaves the zones. -/
theorem readied_endMove (a : Bool) (h : Spared x left o s w) : Backdrop s ((w.endMove x m a).clearNext x) ∧
    (∀ z : Fin 24, ((w.endMove x m a).clearNext x).zones[z] = some x ↔ s.zones[z] = some x) ∧
    ∀ z : Fin 24, s.zones[z] = none → ((w.endMove x m a).clearNext x).zones[z] = none := by
  have zones : ((w.endMove x m a).clearNext x).zones = w.zones := yard_zones (yard_endMove x m a)
  have step : FigStep x w ((w.endMove x m a).clearNext x) :=
    figStep_modFig (fun y => { y with nextMove := none }) (figStep_endMove m a (.refl x w))
  exact ⟨h.backdrop.trans step.backdrop, fun z => by rw [zones]; exact h.held z, fun z e => by
    rw [zones]; exact h.free z e⟩

/-- The live move in the slot of a figure whose current move is not one fails. -/
theorem withdrawLiveFrom_slot (h : Spared x (some n) o s w) (current : moveBy Requester.isLive s.figs[x].current = false)
    (cue : n.requester = .cue) (live : n.withdrawn = false) :
    Readied x (min (s.figs[x].movesFailed + 1) 65535) o s (w.withdrawLiveFrom x) ∧
    Tells .liveMoveDone x.val 0 s (w.withdrawLiveFrom x) := by
  have slot : w.figs[x].nextMove = some n := by rw [h.fig]
  have away : moveBy Requester.isLive w.figs[x].current = false := by rw [h.fig]; exact current
  have is_ : w.withdrawLiveFrom x = (w.endMove x n false).clearNext x := by
    rw [withdrawLiveFrom_eq, away, if_neg nofun]
    unfold State.liveFailed
    rw [if_pos ((moveBy_isLive_iff _).2 ⟨n, slot, cue, live⟩), away, if_neg nofun, failNext_of_some slot]
  obtain ⟨back, held, free⟩ := readied_endMove (m := n) false h
  rw [is_]
  refine ⟨⟨back, ?_, held, free⟩, ?_⟩
  · rw [clearNext_fig, endMove_fig, if_neg nofun, h.fig]
  · have told := tells_endMove (s := w) (x := x) cue false
    exact (told.after h.backdrop).before
      (figStep_modFig (fun y => { y with nextMove := none }) (.refl x (w.endMove x n false))).backdrop

section

variable (current : s.figs[x].current = some m) (cue : m.requester = .cue) (live : m.withdrawn = false)
include current cue live

/-- A figure with a live current move and an empty slot. -/
theorem withdrawLiveFrom_alone (h : Spared x none o s w) : ∃ v,
    Readied x (min (s.figs[x].movesFailed + 1) 65535) o s v ∧ Tells .liveMoveDone x.val 0 s v ∧
    w.withdrawLiveFrom x = v.withdrawCurrent x := by
  have now : w.figs[x].current = some m := by rw [h.fig]; exact current
  have empty : w.figs[x].nextMove = none := by rw [h.fig]
  have fails : w.liveFailed x = w.endMove x m false := by
    unfold State.liveFailed
    rw [empty, if_neg nofun, if_pos ((moveBy_isLive_iff _).2 ⟨m, now, cue, live⟩), failCurrent_of_live now live]
  have fig : (w.endMove x m false).figs[x] = { s.figs[x] with
      nextMove := none, owner := o, movesFailed := min (s.figs[x].movesFailed + 1) 65535 } := by
    rw [endMove_fig, if_neg nofun, h.fig]
  refine ⟨w.endMove x m false, ⟨h.backdrop.trans (figStep_endMove m false (.refl x w)).backdrop, fig, fun z => ?_,
    fun z e => ?_⟩, (tells_endMove cue false).after h.backdrop, ?_⟩
  · rw [yard_zones (yard_endMove x m false)]
    exact h.held z
  · rw [yard_zones (yard_endMove x m false)]
    exact h.free z e
  · rw [withdrawLiveFrom_eq, if_pos ((moveBy_isLive_iff _).2 ⟨m, now, cue, live⟩), fails]
    exact takeAtRest_of_empty (withdrawCurrent_slot (by rw [fig]))

/-- A figure with a live current move and another in its slot. -/
theorem withdrawLiveFrom_both (h : Spared x (some n) o s w) (cueNext : n.requester = .cue) (liveNext : n.withdrawn = false) :
    ∃ v, Readied x (min (s.figs[x].movesFailed + 2) 65535) o s v ∧ Tells .liveMoveDone x.val 0 s v ∧
    w.withdrawLiveFrom x = v.withdrawCurrent x := by
  have now : w.figs[x].current = some m := by rw [h.fig]; exact current
  have slot : w.figs[x].nextMove = some n := by rw [h.fig]
  have first : (w.endMove x m false).figs[x] = { s.figs[x] with
      nextMove := some n, owner := o, movesFailed := min (s.figs[x].movesFailed + 1) 65535 } := by
    rw [endMove_fig, if_neg nofun, h.fig]
  have fails : w.liveFailed x = ((w.endMove x m false).endMove x n false).clearNext x := by
    unfold State.liveFailed
    rw [if_pos ((moveBy_isLive_iff _).2 ⟨n, slot, cueNext, liveNext⟩),
      if_pos ((moveBy_isLive_iff _).2 ⟨m, now, cue, live⟩), failCurrent_of_live now live,
      failNext_of_some (by rw [first])]
  have zones : (((w.endMove x m false).endMove x n false).clearNext x).zones = w.zones :=
    yard_zones ((yard_endMove x n false).trans (yard_endMove x m false))
  have fig : (((w.endMove x m false).endMove x n false).clearNext x).figs[x] = { s.figs[x] with
      nextMove := none, owner := o, movesFailed := min (s.figs[x].movesFailed + 2) 65535 } := by
    rw [clearNext_fig, endMove_fig, if_neg nofun, first]
    have twice : min (min (s.figs[x].movesFailed + 1) 65535 + 1) 65535 = min (s.figs[x].movesFailed + 2) 65535 := by omega
    dsimp only
    rw [twice]
  have more : FigStep x (w.endMove x m false) (((w.endMove x m false).endMove x n false).clearNext x) :=
    figStep_modFig (fun y => { y with nextMove := none }) (figStep_endMove n false (.refl x _))
  refine ⟨((w.endMove x m false).endMove x n false).clearNext x, ⟨?_, fig, fun z => ?_, fun z e => ?_⟩, ?_, ?_⟩
  · exact (h.backdrop.trans (figStep_endMove m false (.refl x w)).backdrop).trans more.backdrop
  · rw [zones]
    exact h.held z
  · rw [zones]
    exact h.free z e
  · exact ((tells_endMove cue false).after h.backdrop).before more.backdrop
  · rw [withdrawLiveFrom_eq, if_pos ((moveBy_isLive_iff _).2 ⟨m, now, cue, live⟩), fails]
    exact takeAtRest_of_empty (withdrawCurrent_slot (by rw [fig]))

end

/-! A fault that fails the live move in the slot. -/

theorem tells_inFault (c : FaultCause) (slot : s.figs[x].nextMove = some n) (cue : n.requester = .cue) :
    Tells .liveMoveDone x.val 0 s (s.inFault x c) := by
  have first := (figStep_failCurrent (figStep_raise .figureFault x.val c.code
    (figStep_modFig (fun y => { y with state := .fault, faultCause := some c }) (.refl x s)))).backdrop
  have still : (((s.modFig x (fun y => { y with state := .fault, faultCause := some c })).raise .figureFault x.val
      c.code).failCurrent x).figs[x].nextMove = some n := by
    rw [failCurrent_fig, State.raise_figs, modFig_figs_self]
    exact slot
  unfold State.inFault
  generalize ((s.modFig x (fun y => { y with state := .fault, faultCause := some c })).raise .figureFault x.val
    c.code).failCurrent x = v at *
  rw [failNext_of_some still]
  exact ((tells_endMove cue false).after first).before (figStep_modFig _ (.refl x _)).backdrop

theorem tells_withdrawCurrent_absent
    (moves : s.figs[x].state = .starting ∨ s.figs[x].state = .moving ∨ s.figs[x].state = .homing)
    (absent : s.boards[s.figRecs[x].board].presence = .absent) (slot : s.figs[x].nextMove = some n)
    (cue : n.requester = .cue) : Tells .liveMoveDone x.val 0 s (s.withdrawCurrent x) := by
  have first : FigStep x s ((s.modFig x Figure.markWithdrawn).modFig x (fun y => { y with commandDone := false })) :=
    figStep_modFig _ (figStep_modFig _ (.refl x s))
  have fig : ((s.modFig x Figure.markWithdrawn).modFig x (fun y => { y with commandDone := false })).figs[x] =
      { s.figs[x].markWithdrawn with commandDone := false } := by
    rw [modFig_figs_self, modFig_figs_self]
  rw [withdrawCurrent_of_moving moves, stopFigure_of_absent .idle (by exact absent)]
  generalize (s.modFig x Figure.markWithdrawn).modFig x (fun y => { y with commandDone := false }) = v at *
  rw [enterFault_of_still]
  · exact ((tells_inFault .boardAbsent (by rw [fig]; exact slot) cue).after first.backdrop).before
      (figStep_releaseCurrent (.refl x _)).backdrop
  · rw [fig]
    rintro (e : s.figs[x].state = _)
    obtain h | h | h := moves <;> exact nomatch h.symm.trans e
  · rw [fig]
    rintro (e : s.figs[x].state = _)
    obtain h | h | h := moves <;> exact nomatch h.symm.trans e
  · exact .inr rfl

/-! A figure that takes a live move at rest (R105). -/

/-- The move ends at once, or the figure waits or is held with it. -/
theorem taken_at_rest (cue : n.requester = .cue) (rests : s.figs[x].state = .idle ∨ s.figs[x].state = .unhomed) :
    (∃ b, (b = 0 ∨ b = 1) ∧ Tells .liveMoveDone x.val b s (s.takeMove x n) ∧
      (s.takeMove x n).figs[x].state = s.figs[x].state ∧ (s.takeMove x n).figs[x].current = s.figs[x].current ∧
      (s.takeMove x n).figs[x].nextMove = s.figs[x].nextMove) ∨
    ((s.takeMove x n).figs[x].current = some n ∧ (s.takeMove x n).figs[x].nextMove = s.figs[x].nextMove ∧
      ((s.takeMove x n).figs[x].state = .waitZone ∨ (s.takeMove x n).figs[x].state = .held)) := by
  have ends (a : Bool) : (s.endMove x n a).figs[x].state = s.figs[x].state ∧
      (s.endMove x n a).figs[x].current = s.figs[x].current ∧ (s.endMove x n a).figs[x].nextMove = s.figs[x].nextMove := by
    rw [endMove_fig]
    split <;> exact ⟨rfl, rfl, rfl⟩
  have fails := (⟨0, .inl rfl, tells_endMove cue false, ends false⟩ : ∃ b, (b = 0 ∨ b = 1) ∧
    Tells .liveMoveDone x.val b s (s.endMove x n false) ∧ _)
  by_cases able : s.canMove x
  · obtain idle | unhomed := rests
    · cases at_ : atTarget s.figRecs[x] n.goal s.figs[x].position with
      | true =>
        rw [takeMove_of_there n able idle at_]
        exact .inl ⟨1, .inr rfl, tells_endMove cue true, ends true⟩
      | false =>
        rw [takeMove_of_idle n able idle at_]
        cases gate : s.calendar.figuresOpen with
        | true =>
          rw [beginMove_of_open n gate, setFig_get]
          exact .inr ⟨rfl, rfl, .inl rfl⟩
        | false =>
          rw [beginMove_of_closed n gate, setFig_get]
          exact .inr ⟨rfl, rfl, .inr rfl⟩
    · have is_ : s.takeMove x n = s.endMove x n false := by
        rw [takeMove_of_able n able, unhomed]
      rw [is_]
      exact .inl fails
  · rw [takeMove_of_unable n able]
    exact .inl fails

/-! The whole of an ALL_STOP. -/

theorem withdrawLiveFrom_owner : (s.withdrawLiveFrom x).figs[x].owner = s.figs[x].owner := by
  have failed : (s.liveFailed x).figs[x].owner = s.figs[x].owner := by
    have current : (if moveBy Requester.isLive s.figs[x].current then s.failCurrent x else s).figs[x].owner =
        s.figs[x].owner := by
      split
      · rw [failCurrent_fig]
      · rfl
    unfold State.liveFailed
    split
    · rw [clearNext_fig, failNext_fig]
      exact current
    · exact current
  rw [withdrawLiveFrom_eq]
  split
  · rw [takeAtRest_owner, withdrawCurrent_owner, failed]
  · exact failed

theorem figStep_live (v : State) (y : Fin 16) : FigStep y v (v.withdrawLiveFrom y) :=
  figStep_withdrawLiveFrom (.refl y v)

theorem stopAll_eq : s.stopAll = (indices 16).foldl State.withdrawLiveFrom (s.cleared .allStop) := rfl

theorem stopAll_backdrop (s : State) : Backdrop s s.stopAll :=
  (cleared_backdrop s .allStop).trans (foldl_backdrop figStep_live _ _)

theorem stopAll_at (s : State) (x : Fin 16) : ∃ w, Apart x (s.cleared .allStop) w ∧
    Apart x (w.withdrawLiveFrom x) s.stopAll := pass_at figStep_live x _

theorem stopAll_owner (s : State) (x : Fin 16) : s.stopAll.figs[x].owner = s.ownerKept s.figs[x].owner := by
  obtain ⟨w, first, rest⟩ := stopAll_at s x
  rw [rest.fig, withdrawLiveFrom_owner, first.fig, cleared_owner]

theorem foldl_showUnit {g : State → Fin 16 → State} (step : ∀ (v : State) (y : Fin 16), FigStep y v (g v y))
    (l : List (Fin 16)) (v : State) : (l.foldl g v).showUnit = v.showUnit := by
  induction l generalizing v with
  | nil => rfl
  | cons y l ih => rw [List.foldl_cons, ih, (step v y).showUnit]

theorem stopAll_units (s : State) : s.stopAll.showUnit.queue = [] ∧ (∀ k : Fin 4, s.stopAll.runs[k].state = .free) ∧
    s.stopAll.launch.waiting = [] := by
  rw [stopAll_eq, foldl_showUnit figStep_live, foldl_launch figStep_live]
  exact ⟨cleared_queue _, fun k => (foldl_runState figStep_live _ _ k).trans (cleared_runs _ k), cleared_waiting s _⟩

end

end Sys2Proof.Machine

/-! What an ALL_STOP cue does, for the system and for each figure (R73, R96, R123, R128, R141, R174). -/

namespace Sys2Proof.Machine

section

variable {s t u v w r : State} {x : Fin 16} {k : Fin 4} {m n : Move} {o o' p : Option (Fin 4)}

/-- A current move that has been withdrawn counts no more. -/
theorem withdrawCurrent_clean (current : s.figs[x].current = some m)
    (active : (s.figs[x].state = .waitZone ∨ s.figs[x].state = .waitSupply ∨ s.figs[x].state = .held) ∨
      (s.figs[x].state = .starting ∨ s.figs[x].state = .moving ∨ s.figs[x].state = .homing) ∨
      s.figs[x].state = .stopping) (q : Requester → Bool) :
    moveBy q (s.withdrawCurrent x).figs[x].current = false := by
  obtain waits | moves | stopping := active
  · rw [(withdrawCurrent_waiting_facts current waits).1]
    rfl
  · by_cases absent : s.boards[s.figRecs[x].board].presence = .absent
    · rw [(withdrawCurrent_absent_facts current moves absent).1]
      rfl
    · rw [(withdrawCurrent_stopped_facts current moves absent).1]
      exact moveBy_of_withdrawn q rfl
  · rw [(withdrawCurrent_stopping_facts current stopping).1]
    exact moveBy_of_withdrawn q rfl

/-- A figure whose current move is of no run that is not FREE. -/
theorem stopAll_other
    (other : ∀ k : Fin 4, s.runs[k].state ≠ .free → moveBy (Requester.ofRun k) s.figs[x].current = false) :
    ∃ o w, Spared x (if s.cuts (indices 4) (fun k => moveBy (Requester.ofRun k) s.figs[x].nextMove) then none
      else s.figs[x].nextMove) o s w ∧ Apart x (w.withdrawLiveFrom x) s.stopAll := by
  obtain ⟨o, spared⟩ := cleared_spares .allStop other
  obtain ⟨w, first, rest⟩ := stopAll_at s x
  exact ⟨o, w, spared.then first, rest⟩

/-- A figure whose current move is of a run that is not FREE. -/
theorem stopAll_run {i : Nat} (current : s.figs[x].current = some m)
    (run : m.requester = .run k i) (live : m.withdrawn = false) (busy : s.runs[k].state ≠ .free)
    (slot : ∀ j : Fin 4, moveBy (Requester.ofRun j) s.figs[x].nextMove = false) :
    ∃ u o, Spared x s.figs[x].nextMove o s u ∧ ∀ r, (u.withdrawCurrent x).takeAtRest x = r →
      (∀ j : Fin 4, moveBy (Requester.ofRun j) r.figs[x].current = false) →
      (∀ j : Fin 4, moveBy (Requester.ofRun j) r.figs[x].nextMove = false) →
      ∃ w o', Spared x r.figs[x].nextMove o' r w ∧ Apart x (w.withdrawLiveFrom x) s.stopAll := by
  obtain ⟨u, o, first, rest⟩ := cleared_withdraws .allStop current run live busy slot
  obtain ⟨w, cleared, last⟩ := stopAll_at s x
  refine ⟨u, o, first, fun r is_ clean empty => ?_⟩
  obtain ⟨o', spared⟩ := rest r is_ clean empty
  exact ⟨w, o', spared.then cleared, last⟩

/-- A run's move withdrawn, with nothing in the slot. -/
theorem stopAll_run_alone {i : Nat} (current : s.figs[x].current = some m)
    (run : m.requester = .run k i) (live : m.withdrawn = false) (busy : s.runs[k].state ≠ .free)
    (empty : s.figs[x].nextMove = none)
    (active : (s.figs[x].state = .waitZone ∨ s.figs[x].state = .waitSupply ∨ s.figs[x].state = .held) ∨
      (s.figs[x].state = .starting ∨ s.figs[x].state = .moving ∨ s.figs[x].state = .homing) ∨
      s.figs[x].state = .stopping) :
    ∃ v o o', Readied x s.figs[x].movesFailed o s v ∧
      Spared x (v.withdrawCurrent x).figs[x].nextMove o' (v.withdrawCurrent x) s.stopAll := by
  obtain ⟨u, o, first, rest⟩ := stopAll_run current run live busy (fun j => by rw [empty]; rfl)
  rw [empty] at first
  have slot : (u.withdrawCurrent x).figs[x].nextMove = none := withdrawCurrent_slot (by rw [first.fig])
  have clean := withdrawCurrent_clean (s := u) (x := x) (m := m) (by rw [first.fig]; exact current)
    (by rw [first.fig]; exact active)
  obtain ⟨w, o', spared, last⟩ := rest _ (takeAtRest_of_empty slot) (fun j => clean _) (fun j => by rw [slot]; rfl)
  rw [withdrawLiveFrom_of_none (by rw [spared.fig]; exact clean _) (by rw [spared.fig]; dsimp only; rw [slot]; rfl)] at last
  exact ⟨u, o, o', first.readied, spared.then last⟩

section

variable (current : s.figs[x].current = some m) {i : Nat} (run : m.requester = .run k i) (live : m.withdrawn = false)
  (busy : s.runs[k].state ≠ .free) (slot : s.figs[x].nextMove = some n) (cue : n.requester = .cue)
  (liveNext : n.withdrawn = false)
include current run live busy slot cue liveNext

/-- A run's move withdrawn from a figure that goes on to its stop, and the live move behind it failed. -/
theorem stopAll_run_stopping
    (goes : ((s.figs[x].state = .starting ∨ s.figs[x].state = .moving) ∧
      s.boards[s.figRecs[x].board].presence ≠ .absent) ∨ s.figs[x].state = .stopping) :
    ∃ u o o', Spared x (some n) o s u ∧ Readied x (min ((u.withdrawCurrent x).figs[x].movesFailed + 1) 65535) o'
      (u.withdrawCurrent x) s.stopAll ∧ Tells .liveMoveDone x.val 0 s s.stopAll := by
  obtain ⟨u, o, first, rest⟩ := stopAll_run current run live busy (fun j => by
    rw [slot]
    exact moveBy_ofRun_of_cue cue j)
  rw [slot] at first
  have now : u.figs[x].current = some m := by rw [first.fig]; exact current
  have step : (u.withdrawCurrent x).figs[x].state = .stopping ∧ (u.withdrawCurrent x).figs[x].nextMove = some n ∧
      ∀ q, moveBy q (u.withdrawCurrent x).figs[x].current = false := by
    obtain ⟨moves, there⟩ | stopping := goes
    · have moves' : u.figs[x].state = .starting ∨ u.figs[x].state = .moving ∨ u.figs[x].state = .homing := by
        rw [first.fig]
        exact moves.imp_right .inl
      have fig := (withdrawCurrent_stopped_facts now moves' (by rw [first.backdrop.presenceOf]; exact there)).1
      exact ⟨by rw [fig], by rw [fig, first.fig], withdrawCurrent_clean now (.inr (.inl moves'))⟩
    · have stopping' : u.figs[x].state = .stopping := by rw [first.fig]; exact stopping
      have fig := (withdrawCurrent_stopping_facts now stopping').1
      exact ⟨by rw [fig]; exact stopping', by rw [fig, first.fig], withdrawCurrent_clean now (.inr (.inr stopping'))⟩
  obtain ⟨state, next, clean⟩ := step
  obtain ⟨w, o', spared, last⟩ := rest _ (takeAtRest_of_busy (by rw [state]; exact ⟨nofun, nofun⟩)) (fun j => clean _)
    (fun j => by rw [next]; exact moveBy_ofRun_of_cue cue j)
  rw [next] at spared
  obtain ⟨ready, told⟩ := withdrawLiveFrom_slot spared (clean _) cue liveNext
  have back := first.backdrop.trans (figStep_withdrawCurrent (.refl x u)).backdrop
  refine ⟨u, o, o', first, ⟨ready.backdrop.trans last.backdrop, last.fig.trans ready.fig,
    fun z => (last.held z).trans (ready.held z), fun z e => last.free z (ready.free z e)⟩, ?_⟩
  exact (told.after back).before last.backdrop

omit liveNext in
/-- A run's move withdrawn from a figure whose board is ABSENT, and the live move behind it failed by the fault. -/
theorem stopAll_run_absent (moves : s.figs[x].state = .starting ∨ s.figs[x].state = .moving)
    (absent : s.boards[s.figRecs[x].board].presence = .absent) :
    ∃ u o o', Spared x (some n) o s u ∧ Spared x none o' (u.withdrawCurrent x) s.stopAll ∧
      Tells .liveMoveDone x.val 0 s s.stopAll := by
  obtain ⟨u, o, first, rest⟩ := stopAll_run current run live busy (fun j => by
    rw [slot]
    exact moveBy_ofRun_of_cue cue j)
  rw [slot] at first
  have now : u.figs[x].current = some m := by rw [first.fig]; exact current
  have moves' : u.figs[x].state = .starting ∨ u.figs[x].state = .moving ∨ u.figs[x].state = .homing := by
    rw [first.fig]
    exact moves.imp_right .inl
  have absent' : u.boards[u.figRecs[x].board].presence = .absent := by rw [first.backdrop.presenceOf]; exact absent
  have fig := (withdrawCurrent_absent_facts now moves' absent').1
  have told := tells_withdrawCurrent_absent moves' absent' (by rw [first.fig]) cue
  have still : (u.withdrawCurrent x).takeAtRest x = u.withdrawCurrent x :=
    takeAtRest_of_busy (by rw [fig]; exact ⟨nofun, nofun⟩)
  have next : (u.withdrawCurrent x).figs[x].nextMove = none := by rw [fig]
  have clean := withdrawCurrent_clean now (.inr (.inl moves'))
  obtain ⟨w, o', spared, last⟩ := rest _ still (fun j => clean _) (fun j => by rw [next]; rfl)
  rw [withdrawLiveFrom_of_none (by rw [spared.fig]; exact clean _) (by rw [spared.fig]; dsimp only; rw [next]; rfl)] at last
  rw [next] at spared
  exact ⟨u, o, o', first, spared.then last, (told.after first.backdrop).before (spared.backdrop.trans last.backdrop)⟩

/-- A run's move withdrawn from a waiting figure, which takes the live move behind it and loses it too. -/
theorem stopAll_run_waiting
    (waits : s.figs[x].state = .waitZone ∨ s.figs[x].state = .waitSupply ∨ s.figs[x].state = .held) :
    (∃ b, (b = 0 ∨ b = 1) ∧ Tells .liveMoveDone x.val b s s.stopAll) ∧
    (s.stopAll.figs[x].state = .idle ∨ s.stopAll.figs[x].state = .unhomed) ∧ s.stopAll.figs[x].current = none ∧
    s.stopAll.figs[x].nextMove = none := by
  obtain ⟨u, o, first, rest⟩ := stopAll_run current run live busy (fun j => by
    rw [slot]
    exact moveBy_ofRun_of_cue cue j)
  rw [slot] at first
  obtain ⟨-, takes, -⟩ := withdrawn_waiting_facts (s := u) (x := x) (m := m) (by rw [first.fig]; exact current)
    (by rw [first.fig]; exact waits)
  obtain ⟨y, yFig, yBack, is_⟩ := takes n (by rw [first.fig])
  have yRests : y.figs[x].state = .idle ∨ y.figs[x].state = .unhomed := by rw [yFig]; exact rest_or
  have yNone : y.figs[x].current = none ∧ y.figs[x].nextMove = none := by rw [yFig]; exact ⟨rfl, rfl⟩
  have took : Backdrop y (y.takeMove x n) := (figStep_takeMove n (.refl x y)).backdrop
  obtain ⟨b, which, told, state, now, next⟩ | ⟨now, next, state⟩ := taken_at_rest (s := y) cue yRests
  · rw [yNone.1] at now
    rw [yNone.2] at next
    obtain ⟨w, o', spared, last⟩ := rest _ is_ (fun j => by rw [now]; rfl) (fun j => by rw [next]; rfl)
    have wFig := spared.fig
    rw [withdrawLiveFrom_of_none (by rw [wFig]; dsimp only; rw [now]; rfl) (by rw [wFig]; dsimp only; rw [next]; rfl)]
      at last
    rw [last.fig, wFig]
    refine ⟨⟨b, which, ?_⟩, by rw [← state] at yRests; exact yRests, now, next⟩
    exact (told.after (first.backdrop.trans yBack)).before (spared.backdrop.trans last.backdrop)
  · rw [yNone.2] at next
    obtain ⟨w, o', spared, last⟩ := rest _ is_ (fun j => by rw [now]; exact moveBy_ofRun_of_cue cue j)
      (fun j => by rw [next]; rfl)
    rw [next] at spared
    obtain ⟨v, ready, told, ends⟩ := withdrawLiveFrom_alone now cue liveNext spared
    rw [ends] at last
    have fig := (ended_waiting_facts ready last.spared rfl now (state.imp_right .inr)).1
    rw [fig]
    refine ⟨⟨0, .inl rfl, ?_⟩, rest_or, rfl, rfl⟩
    have till := (first.backdrop.trans yBack).trans took
    exact (told.after till).before ((figStep_withdrawCurrent (.refl x v)).backdrop.trans last.backdrop)

end

/-- A live current move is told at its withdrawal, whatever waits in the slot. -/
theorem tells_withdrawLiveFrom (current : s.figs[x].current = some m) (cue : m.requester = .cue)
    (live : m.withdrawn = false) : Tells .liveMoveDone x.val 0 s (s.withdrawLiveFrom x) := by
  have mine := (moveBy_isLive_iff _).2 ⟨m, current, cue, live⟩
  have failed : Backdrop (s.endMove x m false) (s.liveFailed x) := by
    unfold State.liveFailed
    rw [mine, if_pos rfl, failCurrent_of_live current live]
    split
    · exact (figStep_modFig (fun y => { y with nextMove := none }) (figStep_failNext (.refl x _))).backdrop
    · exact .refl _
  rw [withdrawLiveFrom_eq, if_pos mine]
  refine (tells_endMove cue false).before (failed.trans ?_)
  exact (figStep_takeAtRest (figStep_withdrawCurrent (.refl x _))).backdrop

theorem readCue_of_allStop {q : List Byte} (row : cueRow q = .allStop) : readCue q = some .allStop := by
  unfold cueRow at row
  cases read : readCue q with
  | none =>
    rw [read] at row
    exact nomatch row
  | some c =>
    rw [read] at row
    cases c with
    | allStop => rfl
    | _ => exact nomatch row

theorem carryCue_allStop (s : State) : s.carryCue .allStop = s.stopAll := by
  unfold State.carryCue
  dsimp only

/-- Settles O35: every figure followed through the cancellations and the withdrawal of the live moves. -/
theorem allStopStopsEverything : Obligations.AllStopStopsEverything := by
  intro s f cued run
  have read : readCue (framePayload f) = some .allStop :=
    readCue_of_allStop ((cued_iff s f _).1 cued).2
  have back := stopAll_backdrop s
  obtain ⟨queue, runs, waiting⟩ := stopAll_units s
  have carried : s.cueFrame f .allStop = s.stopAll :=
    (cueFrame_carried s f _ _ cued run read (.inl rfl)).trans (carryCue_allStop s)
  refine ⟨s.stopAll, congrArg Host.Outcome.next carried, queue, runs,
    fun x k owned busy => ?_, waiting, ?_, ?_, ?_, ?_, ?_,
    fun x => ?_⟩
  · rw [stopAll_owner, owned]
    exact if_neg busy
  · exact back.engine.trans run
  · exact back.written
  · exact back.clock
  · exact back.calendar
  · exact back.account
  intro fig r unowned keepsZones reports waits emptied stops ends
  have owner := stopAll_owner s x
  have reportsOf : ∀ (arrived : Prop) (b : Int), (b = 0 ∨ (arrived ∧ b = 1)) →
      Tells .liveMoveDone x.val b s s.stopAll → reports arrived := by
    intro arrived b which told
    obtain ⟨new, events, kept⟩ := told.reports
    refine ⟨new, events, fun on room => ?_⟩
    obtain ⟨e, mem, kind, arg1, arg2⟩ := kept on room
    exact ⟨e, mem, kind, arg1, by rw [arg2]; exact which⟩
  have stopsOf : ∀ {m : Move} {c : Nat} {v : State} {o o' : Option (Fin 4)}, fig.current = some m → Readied x c o s v →
      Spared x (v.withdrawCurrent x).figs[x].nextMove o' (v.withdrawCurrent x) s.stopAll → stops m c := by
    intro m c v o o' current ready rest
    exact ⟨fun moves there => ended_stopped_facts ready rest owner current (moves.imp_right .inl) there,
      fun moves absent => ended_absent_facts ready rest owner current (moves.imp_right .inl) absent,
      fun stopping => ended_stopping_facts ready rest owner current stopping⟩
  have endsOf : ∀ {m : Move} {c : Nat} {v : State} {o o' : Option (Fin 4)}, fig.current = some m → Readied x c o s v →
      Spared x (v.withdrawCurrent x).figs[x].nextMove o' (v.withdrawCurrent x) s.stopAll → ends m c :=
    fun current ready rest => ⟨fun waits => ended_waiting_facts ready rest owner current waits,
      stopsOf current ready rest⟩
  refine ⟨fun m current cue live => ?_, fun m k i current ofK live busy => ⟨fun empty => ?_, fun n slot cue liveNext => ?_⟩,
    fun idle => ?_⟩
  · obtain ⟨o, w, spared, last⟩ := stopAll_other (s := s) (x := x) (fun k _ => by
      rw [show s.figs[x].current = some m from current]
      exact moveBy_ofRun_of_cue cue k)
    have alone (empty : emptied) : Spared x none o s w := by
      rw [slot_of_emptied empty] at spared
      exact spared
    refine ⟨?_, fun empty => ?_, fun n slot cueNext liveNext => ?_⟩
    · have now : w.figs[x].current = some m := by rw [spared.fig]; exact current
      have told := (tells_withdrawLiveFrom now cue live).after spared.backdrop
      exact reportsOf False 0 (.inl rfl) (told.before last.backdrop)
    · obtain ⟨v, ready, told, is_⟩ := withdrawLiveFrom_alone current cue live (alone empty)
      rw [is_] at last
      exact endsOf current ready last.spared
    · rw [slot_of_cue slot cueNext] at spared
      obtain ⟨v, ready, told, is_⟩ := withdrawLiveFrom_both current cue live spared cueNext liveNext
      rw [is_] at last
      exact endsOf current ready last.spared
  · have alone := stopAll_run_alone (s := s) (x := x) current ofK live busy empty
    refine ⟨fun waiting => ?_, fun moves there => ?_, fun moves absent => ?_, fun stopping => ?_⟩
    · obtain ⟨v, o, o', ready, rest⟩ := alone (.inl waiting)
      exact (endsOf current ready rest).1 waiting
    · obtain ⟨v, o, o', ready, rest⟩ := alone (.inr (.inl (moves.imp_right .inl)))
      exact (stopsOf current ready rest).1 moves there
    · obtain ⟨v, o, o', ready, rest⟩ := alone (.inr (.inl (moves.imp_right .inl)))
      exact (stopsOf current ready rest).2.1 moves absent
    · obtain ⟨v, o, o', ready, rest⟩ := alone (.inr (.inr stopping))
      exact (stopsOf current ready rest).2.2 stopping
  · have goes := stopAll_run_stopping (s := s) (x := x) current ofK live busy slot cue liveNext
    have lost := stopAll_run_absent (s := s) (x := x) current ofK live busy slot cue
    have rested := stopAll_run_waiting (s := s) (x := x) current ofK live busy slot cue liveNext
    refine ⟨⟨fun moves there => ?_, fun moves absent => ?_, fun stopping => ?_⟩, fun active => ?_, fun waiting => (rested waiting).2⟩
    · obtain ⟨u, o, o', first, ready, -⟩ := goes (.inl ⟨moves, there⟩)
      obtain ⟨uFig, uZones, uStops⟩ := withdrawCurrent_stopped_facts (s := u) (x := x) (m := m)
        (by rw [first.fig]; exact current) (by rw [first.fig]; exact moves.imp_right .inl)
        (by rw [first.backdrop.presenceOf]; exact there)
      have known := eq_of_owner ready.fig owner
      rw [uFig, first.fig] at known
      rw [first.backdrop.figRec x] at uStops
      refine ⟨known, fun z held => ?_, ready.backdrop.stops _ _ uStops⟩
      rw [ready.held z, uZones]
      exact (first.held z).2 held
    · obtain ⟨u, o, o', first, rest, -⟩ := lost moves absent
      obtain ⟨uFig, uZones⟩ := withdrawCurrent_absent_facts (s := u) (x := x) (m := m)
        (by rw [first.fig]; exact current) (by rw [first.fig]; exact moves.imp_right .inl)
        (by rw [first.backdrop.presenceOf]; exact absent)
      have known := eq_of_owner rest.fig owner
      rw [uFig, first.fig] at known
      refine ⟨known, fun z held => ?_⟩
      rw [rest.held z, uZones]
      exact (first.held z).2 held
    · obtain ⟨u, o, o', first, ready, -⟩ := goes (.inr stopping)
      obtain ⟨uFig, uZones⟩ := withdrawCurrent_stopping_facts (s := u) (x := x) (m := m)
        (by rw [first.fig]; exact current) (by rw [first.fig]; exact stopping)
      have known := eq_of_owner ready.fig owner
      rw [uFig, first.fig] at known
      refine ⟨known, fun z held => ?_⟩
      rw [ready.held z, uZones]
      exact (first.held z).2 held
    · have moving (moves : fig.state = .starting ∨ fig.state = .moving) : reports waits := by
        by_cases absent : s.boards[r.board].presence = .absent
        · obtain ⟨u, o, o', -, -, told⟩ := lost moves absent
          exact reportsOf waits 0 (.inl rfl) told
        · obtain ⟨u, o, o', -, -, told⟩ := goes (.inl ⟨moves, absent⟩)
          exact reportsOf waits 0 (.inl rfl) told
      obtain waiting | starting | moves | stopping := active
      · obtain ⟨⟨b, which, told⟩, -⟩ := rested waiting
        exact reportsOf waits b (which.imp_right (fun h => ⟨waiting, h⟩)) told
      · exact moving (.inl starting)
      · exact moving (.inr moves)
      · obtain ⟨u, o, o', -, -, told⟩ := goes (.inr stopping)
        exact reportsOf waits 0 (.inl rfl) told
  · have unmoved : (∀ k : Fin 4, moveBy (Requester.ofRun k) s.figs[x].current = false) ∧
        moveBy Requester.isLive s.figs[x].current = false := by
      obtain none_ | ⟨m, some_, mgmt | withdrawn⟩ := idle
      · rw [show s.figs[x].current = none from none_]
        exact ⟨fun _ => rfl, rfl⟩
      · rw [show s.figs[x].current = some m from some_]
        exact ⟨fun k => moveBy_ofRun_of_other (fun _ h => nomatch mgmt.symm.trans h),
          moveBy_isLive_of_other (fun h => nomatch mgmt.symm.trans h)⟩
      · rw [show s.figs[x].current = some m from some_]
        exact ⟨fun k => moveBy_of_withdrawn _ withdrawn, moveBy_of_withdrawn _ withdrawn⟩
    obtain ⟨o, w, spared, last⟩ := stopAll_other (s := s) (x := x) (fun k _ => unmoved.1 k)
    refine ⟨fun empty => ?_, fun n slot cue live => ?_⟩
    · rw [slot_of_emptied empty] at spared
      rw [withdrawLiveFrom_of_none (by rw [spared.fig]; exact unmoved.2) (by rw [spared.fig]; rfl)] at last
      have known := eq_of_owner (last.fig.trans spared.fig) owner
      exact ⟨known, fun z held => (last.held z).2 ((spared.held z).2 held)⟩
    · rw [slot_of_cue slot cue] at spared
      obtain ⟨ready, told⟩ := withdrawLiveFrom_slot spared unmoved.2 cue live
      have known := eq_of_owner (last.fig.trans ready.fig) owner
      exact ⟨reportsOf False 0 (.inl rfl) (told.before last.backdrop),
        fun z held => (last.held z).2 ((ready.held z).2 held), known⟩

end

end Sys2Proof.Machine

/-! A figure UNHOMED with no owner while shows are judged, and ENGINE_RUN (R120, R145, R162, R169). -/

namespace Sys2Proof.Machine

section

variable {s t u v : State} {x : Fin 16} {k : Fin 4}

/-! Figures asleep. -/

/-- A figure that takes part in nothing: UNHOMED, with no owner. -/
def State.asleep (s : State) (x : Fin 16) : Prop := s.figs[x].state = .unhomed ∧ s.figs[x].owner = none

/-- A change that keeps the engine's state, and figure `x` asleep if it is. -/
structure Sleeps (x : Fin 16) (s t : State) : Prop where
  engine : t.mgmt.engine = s.mgmt.engine
  asleep : s.asleep x → t.asleep x

theorem Sleeps.refl (x : Fin 16) (s : State) : Sleeps x s s := ⟨rfl, id⟩

theorem Sleeps.trans (h : Sleeps x s t) (l : Sleeps x t u) : Sleeps x s u :=
  ⟨l.engine.trans h.engine, fun a => l.asleep (h.asleep a)⟩

theorem sleeps_of_same (engine : t.mgmt.engine = s.mgmt.engine) (figs : t.figs = s.figs) : Sleeps x s t :=
  ⟨engine, fun a => by unfold State.asleep; rw [figs]; exact a⟩

/-- An operation on another figure. -/
theorem FigStep.sleeps {f : Fin 16} (h : FigStep f s t) (apart : s.asleep x → x ≠ f) : Sleeps x s t :=
  ⟨h.backdrop.engine, fun a => by unfold State.asleep; rw [h.others x (apart a)]; exact a⟩

theorem Backdrop.sleeps (h : Backdrop s t) (asleep : s.asleep x → t.asleep x) : Sleeps x s t := ⟨h.engine, asleep⟩

@[simp] theorem sleeps_raise (kind : EventKind) (a b : Int) (h : Sleeps x s t) : Sleeps x s (t.raise kind a b) :=
  h.trans ((backdrop_raise t kind a b).sleeps id)

@[simp] theorem sleeps_setRun (r : Run) (h : Sleeps x s t) : Sleeps x s (t.setRun k r) := h.trans (sleeps_of_same rfl rfl)
@[simp] theorem sleeps_modRun (g : Run → Run) (h : Sleeps x s t) : Sleeps x s (t.modRun k g) :=
  h.trans (sleeps_of_same rfl rfl)
@[simp] theorem sleeps_modShowUnit (g : ShowUnit → ShowUnit) (h : Sleeps x s t) : Sleeps x s (t.modShowUnit g) :=
  h.trans (sleeps_of_same rfl rfl)
@[simp] theorem sleeps_modShowCounters (g : ShowCounters → ShowCounters) (h : Sleeps x s t) :
    Sleeps x s (t.modShowCounters g) := h.trans (sleeps_of_same rfl rfl)
@[simp] theorem sleeps_modCalendar (g : Calendar → Calendar) (h : Sleeps x s t) : Sleeps x s (t.modCalendar g) :=
  h.trans (sleeps_of_same rfl rfl)
@[simp] theorem sleeps_modCalendarCounters (g : CalendarCounters → CalendarCounters) (h : Sleeps x s t) :
    Sleeps x s (t.modCalendarCounters g) := h.trans (sleeps_of_same rfl rfl)

/-! Runs (R84 to R92, R96, R123, R148). -/

theorem withdrawRunFrom_state_of_unhomed (unhomed : s.figs[x].state = .unhomed) :
    (s.withdrawRunFrom k x).figs[x].state = .unhomed := by
  have freed : (s.freeSlotOf k x).figs[x].state = .unhomed := by rw [freeSlotOf_fig]; exact unhomed
  by_cases mine : moveBy (Requester.ofRun k) s.figs[x].current = true
  · rw [withdrawRunFrom_of_mine mine, withdrawCurrent_of_still (.inl freed)]
    generalize s.freeSlotOf k x = v at *
    cases slot : v.figs[x].nextMove with
    | none => rw [takeAtRest_of_empty slot, freed]
    | some n =>
      have state : (v.clearNext x).figs[x].state = .unhomed := by rw [clearNext_fig]; exact freed
      rw [takeAtRest_of_full (.inr freed) slot]
      by_cases able : (v.clearNext x).canMove x
      · rw [takeMove_of_able n able, state]
        exact (endMove_state false).trans state
      · rw [takeMove_of_unable n able]
        exact (endMove_state false).trans state
  · rw [withdrawRunFrom_of_other (Bool.eq_false_iff.2 mine), freed]

@[simp] theorem sleeps_cancelRun (c : CancelCause) (h : Sleeps x s t) : Sleeps x s (t.cancelRun k c) := by
  refine h.trans ((cancelRun_backdrop c).sleeps (fun ⟨unhomed, unowned⟩ => ?_))
  by_cases free : t.runs[k].state = .free
  · rw [cancelRun_of_free c free]
    exact ⟨unhomed, unowned⟩
  · obtain ⟨w, v, first, rest, -, fig, -⟩ := cancelRun_at c free x
    have state : v.figs[x].state = .unhomed := by
      rw [rest.fig]
      exact withdrawRunFrom_state_of_unhomed (by rw [first.fig]; exact unhomed)
    have owner : v.figs[x].owner = none := by rw [rest.fig, withdrawRunFrom_owner, first.fig]; exact unowned
    unfold State.asleep
    rw [fig]
    refine ⟨state, ?_⟩
    show (if v.figs[x].owner = some k then none else v.figs[x].owner) = none
    rw [owner]
    exact ite_self none

@[simp] theorem sleeps_issueMove (i : Nat) (m : MoveEntry) (h : Sleeps x s t) : Sleeps x s (t.issueMove k i m) := by
  have record : ∀ p, Sleeps x t (t.recordOutcome k i p) := fun p =>
    (figStep_recordOutcome (f := 0) k i p (.refl 0 t)).backdrop.sleeps (fun a => by
      unfold State.asleep; rw [recordOutcome_figs]; exact a)
  unfold State.issueMove
  split
  · next owned =>
    refine (h.trans (record _)).trans ((figStep_requestMove _ _ _ _ (.refl _ _)).sleeps (fun a same => ?_))
    unfold State.asleep at a
    rw [recordOutcome_figs, same, owned] at a
    exact nomatch a.2
  · exact h.trans (record _)

@[simp] theorem sleeps_judgeFrom (ms : List MoveEntry) (i : Nat) (h : Sleeps x s t) :
    Sleeps x s (State.judgeFrom k ms i t) := by
  induction ms generalizing i t with
  | nil => exact h
  | cons m ms ih =>
    unfold State.judgeFrom
    split
    · exact ih _ (sleeps_modRun _ h)
    · split
      · exact h
      · exact ih _ (sleeps_modRun _ (sleeps_issueMove i m h))

@[simp] theorem sleeps_judgeCursor (h : Sleeps x s t) : Sleeps x s (t.judgeCursor k) := by
  unfold State.judgeCursor
  dsimp only
  split
  · exact h
  · exact sleeps_judgeFrom _ _ h

@[simp] theorem sleeps_endStep (b : Bool) (h : Sleeps x s t) : Sleeps x s (t.endStep k b) := by
  unfold State.endStep
  split
  · exact sleeps_modRun _ h
  · split
    · exact sleeps_modRun _ h
    · exact sleeps_cancelRun _ h

@[simp] theorem sleeps_finishRow (d : Nat) (h : Sleeps x s t) : Sleeps x s (t.finishRow k d) :=
  sleeps_endStep _ (sleeps_modRun _ h)

@[simp] theorem sleeps_loseStrike (h : Sleeps x s t) : Sleeps x s (t.loseStrike k) := sleeps_modRun _ h

@[simp] theorem sleeps_planStrike (q : StrikeRequest) (h : Sleeps x s t) : Sleeps x s (planStrike t q).2 := by
  unfold planStrike
  split
  · exact h.trans (sleeps_of_same rfl rfl)
  · exact h
  · exact h.trans (sleeps_of_same rfl rfl)

@[simp] theorem sleeps_noteRow (f : StackFrame) (b : Fin 48) (v d : Nat) (h : Sleeps x s t) :
    Sleeps x s (t.noteRow k f b v d) := by
  unfold State.noteRow
  dsimp only
  split
  · simp (maxDischargeDepth := 20) [h]
  · split <;> simp (maxDischargeDepth := 20) [h]

@[simp] theorem sleeps_nestRow (f : StackFrame) (m : Fin 64) (n : Nat) (tr : Int) (sc : Nat) (h : Sleeps x s t) :
    Sleeps x s (t.nestRow k f m n tr sc) := by
  unfold State.nestRow
  dsimp only
  generalize (if n = 0 then t.runs[k].count else n) = times
  split
  · exact sleeps_finishRow _ h
  · split <;> simp (maxDischargeDepth := 20) [h]

@[simp] theorem sleeps_markRow (m : Fin 16) (h : Sleeps x s t) : Sleeps x s (t.markRow k m) :=
  sleeps_judgeCursor (sleeps_endStep _ (sleeps_modRun _ h))

@[simp] theorem sleeps_enterDraining (h : Sleeps x s t) : Sleeps x s (t.enterDraining k) := by
  unfold State.enterDraining
  exact sleeps_modShowCounters _ (sleeps_modRun _ h)

@[simp] theorem sleeps_motifEnd (f : StackFrame) (fs : List StackFrame) (h : Sleeps x s t) :
    Sleeps x s (t.motifEnd k f fs) := by
  unfold State.motifEnd
  split
  · simp (maxDischargeDepth := 20) [h]
  · split <;> simp (maxDischargeDepth := 20) [h]

@[simp] theorem sleeps_stepRun (h : Sleeps x s t) : Sleeps x s (t.stepRun k) := by
  unfold State.stepRun
  split
  · exact h
  · split
    · exact sleeps_motifEnd _ _ h
    · split <;> simp (maxDischargeDepth := 20) [h]

@[simp] theorem sleeps_expand (h : Sleeps x s t) : Sleeps x s (t.expand k) := by
  unfold State.expand
  split
  · exact sleeps_stepRun h
  · exact h

@[simp] theorem sleeps_beginRun (h : Sleeps x s t) : Sleeps x s (t.beginRun k) := sleeps_expand (sleeps_judgeCursor h)

/-! Shows (R142 to R146). -/

theorem sleeps_ownFigures (w : Fin 32) (h : Sleeps x s t) : Sleeps x s (t.ownFigures w k) := by
  have one : ∀ (v : State) (m : MoveEntry), Sleeps x v
      (if v.healthy m.figure then v.modFig m.figure (fun y => { y with owner := some k }) else v) := by
    intro v m
    split
    · next healthy =>
      refine (figStep_modFig _ (.refl m.figure v)).sleeps (fun a same => ?_)
      unfold State.healthy at healthy
      rw [← same, a.1] at healthy
      simp at healthy
    · exact .refl x v
  unfold State.ownFigures
  generalize t.movesOf t.shows[w] = l
  induction l generalizing t with
  | nil => exact h
  | cons m l ih => exact ih (h.trans (one t m))

@[simp] theorem sleeps_admitTo (q : ShowRequest) (h : Sleeps x s t) : Sleeps x s (t.admitTo q k) := by
  unfold State.admitTo State.createRun
  exact sleeps_beginRun (sleeps_raise _ _ _ (sleeps_ownFigures _ (sleeps_setRun _ (sleeps_modShowUnit _ h))))

@[simp] theorem sleeps_judgeHeads (n : Nat) (h : Sleeps x s t) : Sleeps x s (t.judgeHeads n) := by
  induction n generalizing t with
  | zero => exact h
  | succ n ih =>
    unfold State.judgeHeads
    split
    · exact h
    · split
      · split
        · exact ih (sleeps_admitTo _ h)
        · exact h
      · exact h

theorem sleeps_judgeAfter (before : State) (h : Sleeps x s t) : Sleeps x s (before.judgeAfter t) := by
  unfold State.judgeAfter
  split
  · exact sleeps_judgeHeads _ h
  · exact h

/-! Derivations (R143, R160 to R162). -/

theorem sleeps_pass {g : State → Fin 16 → State} (step : ∀ (v : State) (y : Fin 16), FigStep y v (g v y))
    (rests : ∀ v : State, v.figs[x].state = .unhomed → g v x = v) (v : State) : Sleeps x v ((indices 16).foldl g v) := by
  obtain ⟨w, first, rest⟩ := pass_at step x v
  refine (foldl_backdrop step _ v).sleeps (fun a => ?_)
  rw [rests w (by rw [first.fig]; exact a.1)] at rest
  unfold State.asleep
  rw [rest.fig, first.fig]
  exact a

theorem sleeps_announce (before : State) (h : Sleeps x s t) : Sleeps x s (State.announce before t) := by
  unfold State.announce
  split
  · exact h.trans (sleeps_pass figStep_holdFigure (fun v unhomed => holdFigure_of_still (.inr (.inl unhomed))) t)
  · split
    · exact h.trans (sleeps_pass figStep_resumeFigure (fun v unhomed => resumeFigure_of_other (by rw [unhomed]; exact nofun)) t)
    · exact h

theorem sleeps_requestShow (w : Fin 32) (tempo n : Nat) (a : Option Time) (o : RequestOrigin) (h : Sleeps x s t) :
    Sleeps x s (t.requestShow w tempo n a o).2 := by
  unfold State.requestShow State.joinShows State.refuseShow State.captureDrop
  dsimp only
  split
  · dsimp only
    split <;> simp (maxDischargeDepth := 20) [h]
  · simp (maxDischargeDepth := 20) [h]

theorem sleeps_calendarRequest (w : Fin 32) (n : Nat) (te : Time) (v : Fin 16) (h : Sleeps x s t) :
    Sleeps x s (t.calendarRequest w n te v) := by
  have asked := sleeps_requestShow w 0 n (some te) (.calendar v) h
  unfold State.calendarRequest
  split
  · next queued => rw [queued] at asked; exact asked
  · next refused => rw [refused] at asked; exact sleeps_raise _ _ _ asked

theorem sleeps_issueTrigger (te : Time) (g : Trigger) (h : Sleeps x s t) : Sleeps x s (t.issueTrigger te g) := by
  unfold State.issueTrigger
  dsimp only
  split
  · exact sleeps_modCalendar _ h
  · exact sleeps_calendarRequest _ _ _ _ (sleeps_modCalendar _ h)

theorem sleeps_missTriggers (n : Nat) (h : Sleeps x s t) : Sleeps x s (t.missTriggers n) := by
  unfold State.missTriggers
  split
  · exact h
  · exact sleeps_raise _ _ _ (sleeps_modCalendarCounters _ h)

theorem sleeps_derive (h : Sleeps x s t) : Sleeps x s t.derive := by
  have placed : Sleeps x s t.derivePosition := sleeps_announce t (sleeps_modCalendar _ h)
  have caughtUp : Sleeps x s t.derivePosition.catchUp := by
    unfold State.catchUp
    split
    · exact placed
    · split
      · exact sleeps_missTriggers _ (sleeps_issueTrigger _ _ placed)
      · exact sleeps_missTriggers _ placed
  unfold State.derive State.settleTriggers
  split
  · exact sleeps_modCalendar _ caughtUp
  · exact sleeps_modCalendar _ placed

/-! The position of the programme after a derivation (R162). -/

theorem cycleStart_derive : s.derive.calendar.cycleStart =
    cycleStartAt s.calendar.activeBank.base s.calendar.activeBank.cycle s.clock.time := by
  have placed : s.derivePosition.calendar.cycleStart =
      cycleStartAt s.calendar.activeBank.base s.calendar.activeBank.cycle s.clock.time := by
    unfold State.derivePosition
    dsimp only
    rw [calendar_of_outside (outside_announce _ _)]
    rfl
  have issued : ∀ (v : State) (te : Time) (g : Trigger), (v.issueTrigger te g).calendar.cycleStart = v.calendar.cycleStart := by
    intro v te g
    unfold State.issueTrigger
    dsimp only
    split
    · rfl
    · rw [calendar_of_outside (outside_calendarRequest _ _ _ _ _)]
      rfl
  have missed : ∀ (v : State) (n : Nat), (v.missTriggers n).calendar.cycleStart = v.calendar.cycleStart := by
    intro v n
    unfold State.missTriggers
    split <;> rfl
  have caughtUp : ∀ v : State, v.catchUp.calendar.cycleStart = v.calendar.cycleStart := by
    intro v
    unfold State.catchUp
    split
    · rfl
    · split
      · rw [missed, issued]
      · rw [missed]
  unfold State.derive State.settleTriggers
  split
  · exact (caughtUp _).trans placed
  · exact placed

end

end Sys2Proof.Machine

/-! ENGINE_RUN with its homings, and ENGINE_STOP followed to each figure (R120, R124, R134, R169). -/

namespace Sys2Proof.Machine

section

variable {s t u v w : State} {x : Fin 16} {k : Fin 4} {m : Move} {left : Option Move} {o o' : Option (Fin 4)}

theorem Request.row_eq_engineRun {q : Request} (h : q.row = .engineRun) : q = .engineRun := by
  cases q with
  | engineRun => rfl
  | _ => cases h

theorem Request.row_eq_engineStop {q : Request} (h : q.row = .engineStop) : q = .engineStop := by
  cases q with
  | engineStop => rfl
  | _ => cases h

theorem readRequest_engineRun {f : List Byte} (reached : s.reaches f .engineRun = true) :
    readRequest (framePayload f) = some .engineRun := by
  obtain ⟨-, row, -⟩ := (reaches_iff s f _).1 reached
  obtain ⟨q, read, is_⟩ := readRequest_of_requestRow row nofun
  rw [read, Request.row_eq_engineRun is_]

theorem readRequest_engineStop {f : List Byte} (reached : s.reaches f .engineStop = true) :
    readRequest (framePayload f) = some .engineStop := by
  obtain ⟨-, row, -⟩ := (reaches_iff s f _).1 reached
  obtain ⟨q, read, is_⟩ := readRequest_of_requestRow row nofun
  rw [read, Request.row_eq_engineStop is_]

/-! The start (R120, R169). -/

/-- The engine in RUN, its position derived and the head judged, before the homings. -/
def State.started (s : State) : State :=
  s.judgeAfter (State.derive { s with mgmt := { s.mgmt with engine := .run } })

theorem startEngine_eq : s.startEngine = if s.mgmt.settings.homeOnRun then s.started.homeAll else s.started := rfl

theorem sleeps_started (s : State) (x : Fin 16) :
    Sleeps x { s with mgmt := { s.mgmt with engine := .run } } s.started :=
  sleeps_judgeAfter s (sleeps_derive (.refl x _))

theorem started_engine (s : State) : s.started.mgmt.engine = .run := (sleeps_started s 0).engine

theorem started_written (s : State) : s.started.written = s.written :=
  (made_judgeAfter s (made_derive (made_enterEngine .run (Made.refl s)))).written

theorem started_cycleStart (s : State) : s.started.calendar.cycleStart =
    cycleStartAt s.calendar.activeBank.base s.calendar.activeBank.cycle s.clock.time := by
  unfold State.started
  rw [calendar_of_outside (outside_judgeAfter _ _), cycleStart_derive]

/-- The homing of one figure at the start. -/
def State.homeOne (t : State) (f : Fin 16) : State :=
  if t.canHome f && t.figs[f].state = .unhomed && t.figs[f].owner.isNone then t.beginHoming f else t

theorem homeAll_eq : s.homeAll = (indices 16).foldl State.homeOne s := rfl

theorem figStep_homeOne (v : State) (y : Fin 16) : FigStep y v (v.homeOne y) := by
  unfold State.homeOne
  split
  · exact figStep_beginMove _ (figStep_modFig _ (.refl y v))
  · exact .refl y v

theorem canMove_congr (figRecs : t.figRecs = s.figRecs) (boardRecs : t.boardRecs = s.boardRecs) :
    t.canMove x ↔ s.canMove x :=
  Iff.of_eq (congrArg₂ (fun (r : Vector FigRec 16) (b : Vector BoardRec 32) => r[x].enabled = true ∧
    b[r[x].board].enabled = true ∧ b[r[x].board].kind = .motion) figRecs boardRecs)

/-- A figure asleep that can be homed is given its homing. -/
theorem homeOne_facts (asleep : s.asleep x) (able : s.canMove x) :
    (s.homeOne x).figs[x].state = (if s.calendar.figuresOpen = true then .waitZone else .held) ∧
    (s.homeOne x).figs[x].position = none ∧
    (s.homeOne x).figs[x].current = some { goal := .home, requester := .mgmt, withdrawn := false } := by
  obtain ⟨unhomed, unowned⟩ := asleep
  have yes : (s.canHome x && s.figs[x].state = .unhomed && s.figs[x].owner.isNone) = true := by
    have home : s.canHome x = true := by
      obtain ⟨on, board, motion⟩ := able
      unfold State.canHome BoardRec.isMotion
      rw [on, board, motion, unhomed]
      rfl
    rw [home, unhomed, unowned]
    rfl
  have is_ : s.homeOne x = (s.modFig x (fun y => { y with position := none })).beginMove x
      { goal := .home, requester := .mgmt, withdrawn := false } := if_pos yes
  rw [is_]
  cases gate : s.calendar.figuresOpen with
  | true =>
    rw [beginMove_of_open _ (by exact gate), setFig_get, modFig_figs_self]
    exact ⟨rfl, rfl, rfl⟩
  | false =>
    rw [beginMove_of_closed _ (by exact gate), setFig_get, modFig_figs_self]
    exact ⟨rfl, rfl, rfl⟩

theorem startEngine_backdrop (s : State) : Backdrop s.started s.startEngine := by
  rw [startEngine_eq]
  split
  · exact foldl_backdrop figStep_homeOne _ _
  · exact .refl _

/-- The homing of a figure at the start, if the settings ask for it. -/
theorem startEngine_homes (on : s.mgmt.settings.homeOnRun = true) (asleep : s.asleep x) (able : s.canMove x) :
    s.startEngine.figs[x].state = (if s.startEngine.calendar.figuresOpen = true then .waitZone else .held) ∧
    s.startEngine.figs[x].position = none ∧
    s.startEngine.figs[x].current = some { goal := .home, requester := .mgmt, withdrawn := false } := by
  have awake := (sleeps_started s x).asleep asleep
  have records := started_written s
  have is_ : s.startEngine = s.started.homeAll := by rw [startEngine_eq, if_pos on]
  rw [is_, homeAll_eq]
  generalize s.started = v at *
  obtain ⟨w, first, rest⟩ := pass_at figStep_homeOne x v
  have same : w.figRecs = s.figRecs ∧ w.boardRecs = s.boardRecs :=
    ⟨first.backdrop.figRecs.trans (congrArg Written.figRecs records),
      first.backdrop.boardRecs.trans (congrArg Written.boardRecs records)⟩
  have facts := homeOne_facts (s := w) (x := x) (by unfold State.asleep; rw [first.fig]; exact awake)
    ((canMove_congr same.1 same.2).2 able)
  rw [rest.fig, rest.backdrop.calendar, (figStep_homeOne w x).backdrop.calendar]
  exact facts

/-! The stop (R124, R134, R169). -/

/-- What MOVES_FAILED of a figure becomes when its current move ends at ENGINE_STOP. -/
def Figure.failedAtStop (y : Figure) (m : Move) : Nat :=
  if m.requester = .cue then min (y.movesFailed + 1) 65535 else y.movesFailed

theorem endAtStop_of_ended (ended : ∀ m, s.figs[x].current = some m → m.withdrawn = true) : s.endAtStop x = s := by
  unfold State.endAtStop
  cases current : s.figs[x].current with
  | none => rfl
  | some m => exact if_pos (ended m current)

theorem endAtStop_of_cue (current : s.figs[x].current = some m) (live : m.withdrawn = false) (cue : m.requester = .cue) :
    s.endAtStop x = s.endMove x m false := by
  unfold State.endAtStop
  rw [current]
  dsimp only
  rw [live, if_neg nofun, cue]

theorem endAtStop_of_mgmt (current : s.figs[x].current = some m) (live : m.withdrawn = false) (mgmt : m.requester = .mgmt) :
    s.endAtStop x = s.raise .moveAbandoned x.val 5 := by
  unfold State.endAtStop
  rw [current]
  dsimp only
  rw [live, if_neg nofun, mgmt]
  rfl

theorem endAtStop_of_run {i : Nat} (current : s.figs[x].current = some m) (run : m.requester = .run k i) :
    s.endAtStop x = s := by
  unfold State.endAtStop
  rw [current]
  dsimp only
  rw [run, ite_self]

theorem figStep_endAtStop (h : FigStep x s t) : FigStep x s (t.endAtStop x) := by
  unfold State.endAtStop
  split
  · split
    · exact h
    · split
      · exact figStep_endMove _ _ h
      · exact figStep_raise _ _ _ h
      · exact h
  · exact h

theorem endAtStop_zones : (s.endAtStop x).zones = s.zones := by
  unfold State.endAtStop
  split
  · split
    · rfl
    · split
      · exact yard_zones (yard_endMove x _ false)
      · rfl
      · rfl
  · rfl

/-- The end of a current move that is still under way. -/
theorem endAtStop_fig (current : s.figs[x].current = some m) (live : m.withdrawn = false) :
    (s.endAtStop x).figs[x] = { s.figs[x] with movesFailed := s.figs[x].failedAtStop m } := by
  unfold Figure.failedAtStop
  cases req : m.requester with
  | run k i => rw [endAtStop_of_run current req, if_neg nofun]
  | cue => rw [endAtStop_of_cue current live req, endMove_fig, if_neg nofun, if_pos rfl]
  | mgmt => rw [endAtStop_of_mgmt current live req, if_neg nofun]; rfl

/-- A figure's record after the end of its current move: at most its count of failed moves has changed. -/
theorem endAtStop_record : ∃ n, (s.endAtStop x).figs[x] = { s.figs[x] with movesFailed := n } := by
  by_cases ended : ∀ m, s.figs[x].current = some m → m.withdrawn = true
  · exact ⟨s.figs[x].movesFailed, by rw [endAtStop_of_ended ended]⟩
  · push Not at ended
    obtain ⟨m, current, live⟩ := ended
    exact ⟨_, endAtStop_fig current (Bool.eq_false_iff.2 live)⟩

/-- A figure at ENGINE_STOP with its slot emptied and its current move ended. -/
def State.endedAt (s : State) (x : Fin 16) : State := (s.clearNext x).endAtStop x

theorem restOne_eq : s.restOne x = (s.endedAt x).withdrawCurrent x := rfl

theorem figStep_endedAt : FigStep x s (s.endedAt x) :=
  figStep_endAtStop (figStep_modFig (fun y => { y with nextMove := none }) (.refl x s))

theorem figStep_restOne (v : State) (y : Fin 16) : FigStep y v (v.restOne y) := figStep_withdrawCurrent figStep_endedAt

theorem endedAt_zones : (s.endedAt x).zones = s.zones := endAtStop_zones

theorem restOne_slot : (s.restOne x).figs[x].nextMove = none := by
  obtain ⟨n, fig⟩ := endAtStop_record (s := s.clearNext x) (x := x)
  exact withdrawCurrent_slot (s := s.endedAt x) (by rw [State.endedAt, fig, clearNext_fig])

theorem restOne_owner : (s.restOne x).figs[x].owner = s.figs[x].owner := by
  obtain ⟨n, fig⟩ := endAtStop_record (s := s.clearNext x) (x := x)
  rw [restOne_eq, withdrawCurrent_owner, State.endedAt, fig, clearNext_fig]

/-- A figure that has nothing more to end keeps its record, with an empty slot. -/
theorem restOne_of_ended (ended : ∀ m, s.figs[x].current = some m → m.withdrawn = true)
    (rests : (s.figs[x].state = .unhomed ∨ s.figs[x].state = .idle ∨ s.figs[x].state = .fault) ∨
      (s.figs[x].state = .stopping ∧ s.figs[x].stopEnd = .idle)) :
    (s.restOne x).figs[x] = { s.figs[x] with nextMove := none } ∧ (s.restOne x).zones = s.zones := by
  have still : s.endedAt x = s.clearNext x := endAtStop_of_ended (by rw [clearNext_fig]; exact ended)
  rw [restOne_eq, still]
  obtain still_ | ⟨stopping, idle⟩ := rests
  · rw [withdrawCurrent_of_still (by rw [clearNext_fig]; exact still_)]
    exact ⟨clearNext_fig, rfl⟩
  · rw [withdrawCurrent_of_stopping (by rw [clearNext_fig]; exact stopping)]
    refine ⟨?_, rfl⟩
    have marked : s.figs[x].markWithdrawn = s.figs[x] := by
      unfold Figure.markWithdrawn
      cases current : s.figs[x].current with
      | none => rw [show Option.map _ (none : Option Move) = none from rfl, ← current]
      | some m =>
        have same : { m with withdrawn := true } = m := by rw [← ended m current]
        rw [show Option.map _ (some m) = some { m with withdrawn := true } from rfl, same, ← current]
    rw [modFig_figs_self, clearNext_fig]
    show { ({ s.figs[x] with nextMove := none } : Figure).markWithdrawn with stopEnd := .idle } = _
    have slotMarked : ({ s.figs[x] with nextMove := none } : Figure).markWithdrawn =
        { s.figs[x].markWithdrawn with nextMove := none } := rfl
    rw [slotMarked, marked, ← idle]

/-! The commands of the boards (R134). -/

theorem withdrawCommands_mem {b d : Fin 32} {p : Command → Bool} {c : Command}
    (mem : c ∈ (s.withdrawCommands b p).boards[d].commands) :
    c ∈ s.boards[d].commands ∧ (d = b → p c = false) := by
  rw [withdrawCommands_boards] at mem
  by_cases same : d = b
  · subst same
    rw [modBoard_self] at mem
    obtain ⟨there, keeps⟩ := List.mem_filter.1 mem
    exact ⟨there, fun _ => by simpa using keeps⟩
  · rw [modBoard_other _ same] at mem
    exact ⟨mem, fun e => absurd e same⟩

/-- The commands that ENGINE_STOP withdraws. -/
def Command.dropped (c : Command) : Bool := c.condition.atRest && !c.op.isStop

theorem dropped_iff (c : Command) : c.dropped = false ↔ c.op = .stop ∨ c.condition.inHandshake = true := by
  have halves : c.condition.atRest = !c.condition.inHandshake := by cases c.condition <;> rfl
  unfold Command.dropped
  rw [halves, Bool.and_eq_false_iff, Bool.not_eq_false', Bool.not_eq_false', isStop_iff]
  exact or_comm

theorem withdrawAll_eq : s.withdrawAll = (indices 32).foldl (fun t b => t.withdrawCommands b Command.dropped) s := rfl

theorem withdraws_facts (l : List (Fin 32)) (v : State) :
    let t := l.foldl (fun t b => t.withdrawCommands b Command.dropped) v
    Backdrop v t ∧ t.figs = v.figs ∧ t.zones = v.zones ∧ t.runs = v.runs ∧ t.launch = v.launch ∧ t.showUnit = v.showUnit ∧
    ∀ (b : Fin 32) (c : Command), c ∈ t.boards[b].commands → c ∈ v.boards[b].commands ∧ (b ∈ l → c.dropped = false) := by
  induction l generalizing v with
  | nil => exact ⟨.refl v, rfl, rfl, rfl, rfl, rfl, fun b c mem => ⟨mem, nofun⟩⟩
  | cons a l ih =>
    obtain ⟨back, figs, zones, runs, launch, shows_, commands⟩ := ih (v.withdrawCommands a Command.dropped)
    have off := offBoards_withdrawCommands v a Command.dropped
    have one : Backdrop v (v.withdrawCommands a Command.dropped) := by
      refine ⟨off.clock, (made_withdrawCommands a Command.dropped (Made.refl v)).written, off.calendar, off.strikeAccount,
        withdrawCommands_presence v a _, fun d y asked => ?_, [], off.mgmt⟩
      exact stopAsked_withdrawCommands (fun c stop => (dropped_iff c).2 (.inl stop)) asked
    refine ⟨one.trans back, figs.trans off.figs, zones.trans off.zones, runs.trans off.runs, launch.trans off.launch,
      shows_.trans off.showUnit, fun b c mem => ?_⟩
    obtain ⟨there, dropped⟩ := commands b c mem
    obtain ⟨was, own⟩ := withdrawCommands_mem there
    exact ⟨was, fun at_ => (List.mem_cons.1 at_).elim own dropped⟩

/-! The whole of ENGINE_STOP. -/

/-- The state at ENGINE_STOP before the engine enters CONFIG. -/
def State.stopped (s : State) : State := ((s.cleared .engineStop).restFigures).withdrawAll

theorem stopEngine_eq : s.stopEngine = s.stopped.enterEngine .config := rfl

theorem stopped_at (s : State) (x : Fin 16) : ∃ w, Apart x (s.cleared .engineStop) w ∧
    Apart x (w.restOne x) s.stopped := by
  obtain ⟨w, first, rest⟩ := pass_at figStep_restOne x (s.cleared .engineStop)
  have is_ : s.stopped = State.withdrawAll ((indices 16).foldl State.restOne (s.cleared .engineStop)) := rfl
  rw [is_, withdrawAll_eq]
  generalize (indices 16).foldl State.restOne (s.cleared .engineStop) = v at *
  obtain ⟨back, figs, zones, -⟩ := withdraws_facts (indices 32) v
  refine ⟨w, first, rest.trans ⟨back, ?_, fun z => by rw [zones], fun z e => by rw [zones, e]⟩⟩
  exact congrArg (fun f : Vector Figure 16 => f[x]) figs

theorem stopped_backdrop (s : State) : Backdrop s s.stopped := by
  obtain ⟨w, first, rest⟩ := stopped_at s 0
  exact (cleared_backdrop s .engineStop).trans
    ((first.backdrop.trans (figStep_restOne w 0).backdrop).trans rest.backdrop)

theorem stopped_owner (s : State) (x : Fin 16) : s.stopped.figs[x].owner = s.ownerKept s.figs[x].owner := by
  obtain ⟨w, first, rest⟩ := stopped_at s x
  rw [rest.fig, restOne_owner, first.fig, cleared_owner]

theorem stopped_slot (s : State) (x : Fin 16) : s.stopped.figs[x].nextMove = none := by
  obtain ⟨w, first, rest⟩ := stopped_at s x
  rw [rest.fig, restOne_slot]

theorem stopped_units (s : State) : s.stopped.showUnit.queue = [] ∧ (∀ k : Fin 4, s.stopped.runs[k].state = .free) ∧
    s.stopped.launch.waiting = [] ∧
    ∀ b : Fin 32, ∀ c ∈ s.stopped.boards[b].commands, c.op = .stop ∨ c.condition.inHandshake = true := by
  have shows_ := foldl_showUnit figStep_restOne (indices 16) (s.cleared .engineStop)
  have launch := foldl_launch figStep_restOne (indices 16) (s.cleared .engineStop)
  have runs := foldl_runState figStep_restOne (indices 16) (s.cleared .engineStop)
  have is_ : s.stopped = State.withdrawAll ((indices 16).foldl State.restOne (s.cleared .engineStop)) := rfl
  rw [is_, withdrawAll_eq]
  generalize (indices 16).foldl State.restOne (s.cleared .engineStop) = v at *
  obtain ⟨-, -, -, runs', launch', shows', commands⟩ := withdraws_facts (indices 32) v
  rw [shows', runs', launch', shows_, launch]
  refine ⟨cleared_queue _, fun k => (runs k).trans (cleared_runs _ k), cleared_waiting s _, fun b c mem => ?_⟩
  exact (dropped_iff c).1 ((commands b c mem).2 (List.mem_finRange b))

/-! One figure at ENGINE_STOP. -/

/-- A figure whose current move is of no run that is not FREE, up to its withdrawal. -/
theorem stopped_other (current : s.figs[x].current = some m) (live : m.withdrawn = false)
    (other : ∀ k : Fin 4, s.runs[k].state ≠ .free → moveBy (Requester.ofRun k) s.figs[x].current = false) :
    ∃ v o o', Readied x (s.figs[x].failedAtStop m) o s v ∧
      Spared x (v.withdrawCurrent x).figs[x].nextMove o' (v.withdrawCurrent x) s.stopped ∧
      (m.requester = .cue → Tells .liveMoveDone x.val 0 s v) ∧ (m.requester = .mgmt → Tells .moveAbandoned x.val 5 s v) := by
  obtain ⟨o, spared⟩ := cleared_spares .engineStop other
  obtain ⟨w, first, rest⟩ := stopped_at s x
  have till := spared.then first
  have cleared : Backdrop s (w.clearNext x) :=
    till.backdrop.trans (figStep_modFig (fun y => { y with nextMove := none }) (.refl x w)).backdrop
  have slot : (w.clearNext x).figs[x] = { s.figs[x] with nextMove := none, owner := o } := by rw [clearNext_fig, till.fig]
  have now : (w.clearNext x).figs[x].current = some m := by rw [slot]; exact current
  rw [restOne_eq] at rest
  refine ⟨w.endedAt x, o, _, ⟨till.backdrop.trans figStep_endedAt.backdrop, ?_, fun z => ?_, fun z e => ?_⟩, rest.spared,
    fun cue => ?_, fun mgmt => ?_⟩
  · rw [State.endedAt, endAtStop_fig now live, slot]
    rfl
  · rw [endedAt_zones]
    exact till.held z
  · rw [endedAt_zones]
    exact till.free z e
  · rw [State.endedAt, endAtStop_of_cue now live cue]
    exact (tells_endMove cue false).after cleared
  · rw [State.endedAt, endAtStop_of_mgmt now live mgmt]
    exact tells_raise cleared

/-- A figure whose current move is of a run that is not FREE: the cancellation withdraws it, and the rest finds nothing
more to end. -/
theorem stopped_run {i : Nat} (current : s.figs[x].current = some m) (run : m.requester = .run k i)
    (live : m.withdrawn = false) (busy : s.runs[k].state ≠ .free) (empty : s.figs[x].nextMove = none)
    (active : (s.figs[x].state = .waitZone ∨ s.figs[x].state = .waitSupply ∨ s.figs[x].state = .held) ∨
      (s.figs[x].state = .starting ∨ s.figs[x].state = .moving ∨ s.figs[x].state = .homing) ∨
      s.figs[x].state = .stopping) :
    ∃ v o o', Readied x s.figs[x].movesFailed o s v ∧
      Spared x (v.withdrawCurrent x).figs[x].nextMove o' (v.withdrawCurrent x) s.stopped := by
  obtain ⟨u, o, till, rest⟩ := cleared_withdraws .engineStop current run live busy (fun j => by rw [empty]; rfl)
  rw [empty] at till
  have now : u.figs[x].current = some m := by rw [till.fig]; exact current
  have slot : (u.withdrawCurrent x).figs[x].nextMove = none := withdrawCurrent_slot (by rw [till.fig])
  have clean := withdrawCurrent_clean (s := u) (x := x) now (by rw [till.fig]; exact active)
  obtain ⟨o', spared⟩ := rest _ (takeAtRest_of_empty slot) (fun j => clean _) (fun j => by rw [slot]; rfl)
  obtain ⟨w, first, last⟩ := stopped_at s x
  have known := spared.then first
  have ended : (∀ n, (u.withdrawCurrent x).figs[x].current = some n → n.withdrawn = true) ∧
      (((u.withdrawCurrent x).figs[x].state = .unhomed ∨ (u.withdrawCurrent x).figs[x].state = .idle ∨
        (u.withdrawCurrent x).figs[x].state = .fault) ∨
      ((u.withdrawCurrent x).figs[x].state = .stopping ∧ (u.withdrawCurrent x).figs[x].stopEnd = .idle)) := by
    obtain waits | moves | stopping := active
    · rw [(withdrawCurrent_waiting_facts now (by rw [till.fig]; exact waits)).1]
      refine ⟨nofun, .inl ?_⟩
      exact (rest_or (p := m.goal = .home)).symm.imp_right .inl
    · have moves' : u.figs[x].state = .starting ∨ u.figs[x].state = .moving ∨ u.figs[x].state = .homing := by
        rw [till.fig]
        exact moves
      by_cases absent : u.boards[u.figRecs[x].board].presence = .absent
      · rw [(withdrawCurrent_absent_facts now moves' absent).1]
        exact ⟨nofun, .inl (.inr (.inr rfl))⟩
      · rw [(withdrawCurrent_stopped_facts now moves' absent).1]
        exact ⟨fun n e => by cases e; rfl, .inr ⟨rfl, rfl⟩⟩
    · have stopping' : u.figs[x].state = .stopping := by rw [till.fig]; exact stopping
      rw [(withdrawCurrent_stopping_facts now stopping').1]
      exact ⟨fun n e => by cases e; rfl, .inr ⟨stopping', rfl⟩⟩
  obtain ⟨fig, zones⟩ := restOne_of_ended (s := w) (x := x) (by rw [known.fig]; exact ended.1)
    (by rw [known.fig]; exact ended.2)
  refine ⟨u, o, o', till.readied, ⟨known.backdrop.trans ((figStep_restOne w x).backdrop.trans last.backdrop), ?_,
    fun z => ?_, fun z e => ?_⟩⟩
  · rw [last.fig, fig, known.fig, slot]
  · rw [last.held z, zones]
    exact known.held z
  · exact last.free z (by rw [zones]; exact known.free z e)

/-- A figure at rest with no current move. -/
theorem stopped_still (still : s.figs[x].state = .unhomed ∨ s.figs[x].state = .idle ∨ s.figs[x].state = .fault)
    (current : s.figs[x].current = none) : ∃ o, Spared x none o s s.stopped := by
  obtain ⟨o, spared⟩ := cleared_spares (s := s) (x := x) .engineStop (fun k _ => by rw [current]; rfl)
  obtain ⟨w, first, last⟩ := stopped_at s x
  have till := spared.then first
  obtain ⟨fig, zones⟩ := restOne_of_ended (s := w) (x := x) (by rw [till.fig]; exact fun m e => nomatch current.symm.trans e)
    (by rw [till.fig]; exact .inl still)
  refine ⟨o, till.backdrop.trans ((figStep_restOne w x).backdrop.trans last.backdrop), ?_, fun z => ?_, fun z e => ?_⟩
  · rw [last.fig, fig, till.fig]
  · rw [last.held z, zones]
    exact till.held z
  · exact last.free z (by rw [zones]; exact till.free z e)

/-- Settles O58: ENGINE_RUN answered and followed to the homings, and ENGINE_STOP followed to each figure. -/
theorem engineRunsAndStops : Obligations.EngineRunsAndStops := by
  intro s f
  refine ⟨fun reached => ?_, fun reached => ?_⟩
  · have read := readRequest_engineRun reached
    have refused (run : s.mgmt.engine = .run) : carryOut .engineRun s = plainReply (.wrongState, s) :=
      if_pos (running_iff.2 run)
    have taken (config : s.mgmt.engine = .config) : carryOut .engineRun s = plainReply (.ok, s.startEngine) :=
      if_neg (by rw [config_not_running config]; exact nofun)
    have back := startEngine_backdrop s
    have node : s.startEngine.node = s.node :=
      congrArg Written.node (back.written.trans (started_written s))
    have starts (config : s.mgmt.engine = .config) :
        exec (.engineRun f) s = .next (s.startEngine.respond f (Reply.plain .ok)) :=
      request_answers reached read (taken config) node
    refine ⟨fun run => request_answers reached read (refused run) rfl, fun config off => ?_, fun config on => ?_,
      fun config => ?_⟩
    · rw [starts config, startEngine_eq, off]
      rfl
    · rw [starts config, startEngine_eq, on]
      rfl
    · obtain ⟨queue, pending, answered⟩ := respond_eq s.startEngine f (Reply.plain .ok)
      refine ⟨_, starts config, ?_, ?_, fun on x able board motion unhomed unowned => ?_⟩
      · rw [answered]
        exact back.engine.trans (started_engine s)
      · rw [answered]
        exact (congrArg Calendar.cycleStart back.calendar).trans (started_cycleStart s)
      · rw [answered]
        exact startEngine_homes on ⟨unhomed, unowned⟩ ⟨able, board, motion⟩
  · have read := readRequest_engineStop reached
    refine ⟨fun config => ?_, fun run => ?_⟩
    · have refused : carryOut .engineStop s = plainReply (.wrongState, s) :=
        if_neg (by rw [config_not_running config]; exact nofun)
      exact request_answers reached read refused rfl
    · have back := stopped_backdrop s
      have taken : carryOut .engineStop s = plainReply (.ok, s.stopEngine) := if_pos (running_iff.2 run)
      have owner := stopped_owner s
      have slots := stopped_slot s
      have other := @stopped_other s
      have cancelled := @stopped_run s
      have still := @stopped_still s
      have units := stopped_units s
      rw [stopEngine_eq] at taken
      generalize s.stopped = v at *
      have stops : exec (.engineStop f) s = .next ((v.enterEngine .config).respond f (Reply.plain .ok)) :=
        request_answers reached read taken (congrArg Written.node back.written)
      obtain ⟨reports, pending, answered⟩ := respond_eq (v.enterEngine .config) f (Reply.plain .ok)
      obtain ⟨queue, runs, waiting, commands⟩ := units
      rw [answered] at stops
      refine ⟨_, stops, rfl, queue, runs, waiting, slots, commands, back.written, back.clock, back.calendar, fun x => ?_⟩
      intro fig r unowned keepsZones reports
      refine ⟨fun rests current _ => ?_, fun m current live alone => ?_⟩
      · obtain ⟨o, spared⟩ := still rests current
        have known := eq_of_owner spared.fig (owner x)
        exact ⟨known, fun z held => (spared.held z).2 held⟩
      · intro ended failed
        have foreign (away : ¬∃ k i, m.requester = .run k i ∧ s.runs[k].state ≠ .free) :=
          other (x := x) current live (fun k busy => by
            rw [show s.figs[x].current = some m from current]
            exact moveBy_ofRun_of_other (fun i run => away ⟨k, i, run, busy⟩))
        have ready (active : (fig.state = .waitZone ∨ fig.state = .waitSupply ∨ fig.state = .held) ∨
            (fig.state = .starting ∨ fig.state = .moving ∨ fig.state = .homing) ∨ fig.state = .stopping) :
            ∃ u o o', Readied x failed o s u ∧
              Spared x (u.withdrawCurrent x).figs[x].nextMove o' (u.withdrawCurrent x) v := by
          by_cases mine : ∃ k i, m.requester = .run k i ∧ s.runs[k].state ≠ .free
          · obtain ⟨k, i, run, busy⟩ := mine
            have count : failed = s.figs[x].movesFailed := if_neg (by rw [run]; exact nofun)
            rw [count]
            exact cancelled current run live busy (alone.resolve_right (fun h => h k i run)) active
          · obtain ⟨u, o, o', readied, rest, -⟩ := foreign mine
            exact ⟨u, o, o', readied, rest⟩
        refine ⟨fun cue => ?_, fun mgmt => ?_, fun waits => ?_, fun moves there => ?_, fun moves absent => ?_,
          fun stopping => ?_⟩
        · obtain ⟨u, o, o', -, rest, told, -⟩ := foreign (fun ⟨k, i, run, _⟩ => nomatch cue.symm.trans run)
          exact ((told cue).before ((figStep_withdrawCurrent (.refl x u)).backdrop.trans rest.backdrop)).reports
        · obtain ⟨u, o, o', -, rest, -, told⟩ := foreign (fun ⟨k, i, run, _⟩ => nomatch mgmt.symm.trans run)
          exact ((told mgmt).before ((figStep_withdrawCurrent (.refl x u)).backdrop.trans rest.backdrop)).reports
        · obtain ⟨u, o, o', readied, rest⟩ := ready (.inl waits)
          have facts := ended_waiting_facts readied rest (owner x) current waits
          exact facts
        · obtain ⟨u, o, o', readied, rest⟩ := ready (.inr (.inl moves))
          have facts := ended_stopped_facts readied rest (owner x) current moves there
          exact facts
        · obtain ⟨u, o, o', readied, rest⟩ := ready (.inr (.inl moves))
          have facts := ended_absent_facts readied rest (owner x) current moves absent
          exact facts
        · obtain ⟨u, o, o', readied, rest⟩ := ready (.inr (.inr stopping))
          have facts := ended_stopping_facts readied rest (owner x) current stopping
          exact facts

end

end Sys2Proof.Machine

/-! Fields read from bytes and sent back as bytes (R176, R177). -/

namespace Sys2Proof.Machine

section

variable {d : List Byte} {o p k a b n : Nat}

/-! Runs of bytes. -/

/-- The `k` bytes of `d` from byte `o` on. -/
def bytesAt (d : List Byte) (o k : Nat) : List Byte := (d.drop o).take k

theorem bytesAt_zero (d : List Byte) (k : Nat) : bytesAt d 0 k = d.take k := rfl

theorem bytesAt_none (d : List Byte) (o : Nat) : bytesAt d o 0 = [] := List.take_zero

theorem bytesAt_length (fits : o + k ≤ d.length) : (bytesAt d o k).length = k := by
  rw [bytesAt, List.length_take, List.length_drop]
  omega

/-- Two runs of bytes, one after the other. -/
theorem bytesAt_join (next : p = o + a) : bytesAt d o a ++ bytesAt d p b = bytesAt d o (a + b) := by
  rw [next, bytesAt, bytesAt, bytesAt, ← List.drop_drop, ← List.take_add]

theorem byteOf_toNat_add (c : Byte) (m : Nat) : byteOf (c.toNat + 256 * m) = c := by
  refine BitVec.eq_of_toNat_eq ?_
  rw [byteOf_toNat]
  have small := c.isLt
  omega

theorem leBytes_leNat (l : List Byte) : leBytes l.length (leNat l) = l := by
  induction l with
  | nil => rfl
  | cons c l ih =>
    have rest : (c.toNat + 256 * leNat l) / 256 = leNat l := by
      have small := c.isLt
      omega
    rw [List.length_cons, leBytes, leNat, byteOf_toNat_add, rest, ih]

/-- A number sent as the bytes it was read from. -/
theorem leBytes_numAt (fits : o + k ≤ d.length) : leBytes k (numAt k d o) = bytesAt d o k := by
  have whole := leBytes_leNat (bytesAt d o k)
  rw [bytesAt_length fits] at whole
  exact whole

section

variable (len : n ≤ d.length)
include len

theorem u8_bytes (fits : o + 1 ≤ n) : [byteOf (u8 d o)] = bytesAt d o 1 := leBytes_numAt (k := 1) (fits.trans len)
theorem u16_bytes (fits : o + 2 ≤ n) : leBytes 2 (u16 d o) = bytesAt d o 2 := leBytes_numAt (fits.trans len)
theorem u32_bytes (fits : o + 4 ≤ n) : leBytes 4 (u32 d o) = bytesAt d o 4 := leBytes_numAt (fits.trans len)

theorem u8_cons (fits : o + 1 ≤ n) (next : p = o + 1) :
    byteOf (u8 d o) :: bytesAt d p k = bytesAt d o (1 + k) := by
  rw [← bytesAt_join next, ← u8_bytes len fits]
  rfl

end

/-! Numbers in range. -/

theorem u8_lt (d : List Byte) (o : Nat) : u8 d o < 256 := numAt_lt 1 d o

theorem fin?_eq_some {i : Fin n} (h : fin? n k = some i) : i.val = k := by
  unfold fin? at h
  split at h
  · cases h
    rfl
  · exact nomatch h

/-! Flags, optional fields and signed bytes. -/

theorem flagAt_eq_true_iff : flagAt d o = true ↔ u8 d o ≠ 0 := bne_iff_ne

/-- A flag of 0 or 1 is sent as the byte it was read from. -/
theorem boolByte_flagAt (flag : u8 d o ≤ 1) : boolByte (flagAt d o) = byteOf (u8 d o) := by
  unfold boolByte flagAt
  obtain zero | one := Nat.le_one_iff_eq_zero_or_eq_one.1 flag
  · rw [zero]
    rfl
  · rw [one]
    rfl

/-- Bytes that are all 0. -/
theorem zeros_bytes (fits : o + k ≤ d.length) (zeros : ∀ j, o ≤ j → j < o + k → u8 d j = 0) :
    List.replicate k 0 = bytesAt d o k := by
  induction k generalizing o with
  | zero => rw [bytesAt_none]; rfl
  | succ k ih =>
    have rest := ih (o := o + 1) (by omega) (fun j low high => zeros j (by omega) (by omega))
    rw [List.replicate_succ, rest, Nat.add_comm k 1, ← u8_cons (Nat.le_refl d.length) (by omega) rfl,
      zeros o (Nat.le_refl o) (by omega)]
    rfl

/-- The optional field at byte `o`, of `k` bytes, sent as it was read. -/
theorem optBytes_none (fits : o + (1 + k) ≤ d.length) (absent : u8 d o = 0)
    (zeros : ∀ j, o + 1 ≤ j → j < o + 1 + k → u8 d j = 0) : optBytes k none = bytesAt d o (1 + k) := by
  unfold optBytes
  dsimp only
  rw [zeros_bytes (by omega) zeros, ← u8_cons (Nat.le_refl d.length) (by omega) rfl, absent]
  rfl

theorem optBytes_some (fits : o + (1 + k) ≤ d.length) (present : u8 d o = 1) :
    optBytes k (some (bytesAt d (o + 1) k)) = bytesAt d o (1 + k) := by
  unfold optBytes
  dsimp only
  rw [← u8_cons (Nat.le_refl d.length) (by omega) rfl, present]
  rfl

theorem s8_bytes (fits : o + 1 ≤ d.length) : leInt 1 (s8 d o) = bytesAt d o 1 := by
  have small := u8_lt d o
  have same : (s8 d o % (256 ^ 1 : Nat)).toNat = u8 d o := by
    unfold s8
    split <;> omega
  rw [leInt, same]
  exact leBytes_numAt (k := 1) fits

/-! Codes (R176). -/

theorem wayOf_code {w : Way} (h : wayOf n = some w) : w.code = n := by
  unfold wayOf at h
  split_ifs at h <;> cases h <;> simp [Way.code, *]

theorem dirFilterOf_code {w : DirFilter} (h : dirFilterOf n = some w) : w.code = n := by
  unfold dirFilterOf at h
  split_ifs at h <;> cases h <;> simp [DirFilter.code, *]

theorem comparisonOf_code {w : Comparison} (h : comparisonOf n = some w) : w.code = n := by
  unfold comparisonOf at h
  split_ifs at h <;> cases h <;> simp [Comparison.code, *]

theorem curveOf_code {w : Curve} (h : curveOf n = some w) : w.code = n := by
  unfold curveOf at h
  split_ifs at h <;> cases h <;> simp [Curve.code, *]

theorem gateNeedOf_code {w : GateNeed} (h : gateNeedOf n = some w) : w.code = n := by
  unfold gateNeedOf at h
  split_ifs at h <;> cases h <;> simp [GateNeed.code, *]

theorem gateOf_code {w : Gate} (h : gateOf n = some w) : w.code = n := by
  unfold gateOf at h
  split_ifs at h <;> cases h <;> simp [Gate.code, *]

theorem figKindOf_code {w : FigKind} (h : figKindOf n = some w) : w.code = n := by
  unfold figKindOf at h
  split_ifs at h <;> cases h <;> simp [FigKind.code, *]

theorem boardKindOf_code {w : BoardKind} (h : boardKindOf n = some w) : w.code = n := by
  unfold boardKindOf at h
  split_ifs at h <;> cases h <;> simp [BoardKind.code, *]

theorem check_eq_some {q : Bool} {u : Unit} : check q = some u ↔ q = true := by
  unfold check
  cases q <;> simp

/-! Vectors. -/

/-- The record written is the record read. -/
theorem getElem?_set_self {α : Type} {v : Vector α n} (i : Fin n) (x : α) : (v.set i.val x)[i.val]? = some x := by
  simp

theorem getElem?_isNone {α : Type} {v : Vector α n} (i : Nat) : v[i]? = none ↔ n ≤ i := by
  simp

theorem map_eq_none {α β : Type} {f : α → β} {v : Vector α n} (i : Nat) : (v[i]?).map f = none ↔ n ≤ i := by
  simp

end

end Sys2Proof.Machine

/-! Records sent back as the bytes they were read from (R177). -/

namespace Sys2Proof.Machine

section

variable {d : List Byte}

/-! Records of fixed length. -/

theorem bellRec_bytes {x : BellRec} (read : readBell d = some (some x)) (flag : u8 d 0 ≤ 1) : x.bytes = d.take 24 := by
  unfold readBell at read
  split_ifs at read with short
  have len : 24 ≤ d.length := Nat.not_lt.1 short
  have fields := Option.some.inj read
  unfold bellRecOf at fields
  simp only [Option.bind_eq_bind, Option.bind_eq_some_iff, Option.pure_def, Option.some.injEq] at fields
  obtain ⟨board, board_, channel, channel_, curve, curve_, -, -, -, -, -, -, -, -, -, -, -, -, -, -, -, -, rfl⟩ := fields
  unfold BellRec.bytes
  rw [← bytesAt_zero]
  simp only [boolByte_flagAt flag, fin?_eq_some board_, fin?_eq_some channel_, curveOf_code curve_, u8_bytes len,
    u16_bytes len, u32_bytes len, u8_cons len, bytesAt_join, Nat.reduceAdd, Nat.reduceLeDiff]

theorem motifDir_bytes {x : MotifDir} (read : readMotifDir d = some (some x)) : x.bytes = d.take 4 := by
  unfold readMotifDir at read
  split_ifs at read with short range
  · have len : 4 ≤ d.length := Nat.not_lt.1 short
    obtain rfl := Option.some.inj (Option.some.inj read)
    unfold MotifDir.bytes
    rw [← bytesAt_zero]
    simp only [u16_bytes len, bytesAt_join, Nat.reduceAdd, Nat.reduceLeDiff]
  · exact nomatch Option.some.inj read

theorem groupRec_bytes {x : GroupRec} (read : readGroup d = some (some x)) : x.bytes = d.take 4 := by
  unfold readGroup at read
  split_ifs at read with short range
  · have len : 4 ≤ d.length := Nat.not_lt.1 short
    obtain rfl := Option.some.inj (Option.some.inj read)
    unfold GroupRec.bytes
    rw [← bytesAt_zero]
    simp only [u16_bytes len, bytesAt_join, Nat.reduceAdd, Nat.reduceLeDiff]
  · exact nomatch Option.some.inj read

theorem showRec_bytes {x : ShowRec} (read : readShow d = some (some x)) (flag : u8 d 0 ≤ 1) : x.bytes = d.take 13 := by
  unfold readShow at read
  split_ifs at read with short
  have len : 13 ≤ d.length := Nat.not_lt.1 short
  have fields := Option.some.inj read
  unfold showRecOf at fields
  simp only [Option.bind_eq_bind, Option.bind_eq_some_iff, Option.pure_def, Option.some.injEq] at fields
  obtain ⟨top, top_, -, -, -, -, need, need_, -, -, -, -, rfl⟩ := fields
  unfold ShowRec.bytes
  rw [← bytesAt_zero]
  simp only [boolByte_flagAt flag, fin?_eq_some top_, gateNeedOf_code need_, u8_bytes len, u16_bytes len,
    u32_bytes len, u8_cons len, bytesAt_join, Nat.reduceAdd, Nat.reduceLeDiff]

theorem boardRec_bytes {x : BoardRec} (read : readBoard d = some (some x)) (flag : u8 d 0 ≤ 1) : x.bytes = d.take 4 := by
  unfold readBoard at read
  split_ifs at read with short
  have len : 4 ≤ d.length := Nat.not_lt.1 short
  have fields := Option.some.inj read
  unfold boardRecOf at fields
  simp only [Option.bind_eq_bind, Option.bind_eq_some_iff, Option.pure_def, Option.some.injEq] at fields
  obtain ⟨-, -, kind, kind_, group, group_, rfl⟩ := fields
  unfold BoardRec.bytes
  rw [← bytesAt_zero]
  simp only [boolByte_flagAt flag, fin?_eq_some group_, boardKindOf_code kind_, u8_bytes len, u8_cons len,
    Nat.reduceAdd, Nat.reduceLeDiff]

/-! Optional indices. -/

/-- An optional index sent as it was read. -/
theorem optFin_bytes {n o : Nat} {x : Option (Fin n)} (len : o + 2 ≤ d.length) (read : optFinAt n d o = some x)
    (flag : u8 d o ≤ 1) (zeros : u8 d o = 0 → ∀ k, o + 1 ≤ k → k < o + 1 + 1 → u8 d k = 0) :
    optBytes 1 (x.map (fun i => [byteOf i.val])) = bytesAt d o 2 := by
  unfold optFinAt at read
  split at read
  · next present =>
    obtain ⟨i, index, rfl⟩ := Option.map_eq_some_iff.1 read
    have one : u8 d o = 1 := by
      have some_ := flagAt_eq_true_iff.1 present
      omega
    rw [Option.map_some, fin?_eq_some index, u8_bytes (Nat.le_refl d.length) (by omega)]
    exact optBytes_some (k := 1) (by omega) one
  · next absent =>
    cases read
    have zero : u8 d o = 0 := not_not.1 (fun h => absent (flagAt_eq_true_iff.2 h))
    exact optBytes_none (k := 1) (by omega) zero (zeros zero)

theorem vector_bytes {x : Option (Fin 32)} (read : readVector d = some (some x)) (flag : u8 d 0 ≤ 1)
    (zeros : u8 d 0 = 0 → ∀ k, 0 + 1 ≤ k → k < 0 + 1 + 1 → u8 d k = 0) : vectorBytes x = d.take 2 := by
  unfold readVector at read
  split_ifs at read with short
  exact optFin_bytes (Nat.not_lt.1 short) (Option.some.inj read) flag zeros

theorem moveEntry_bytes {x : MoveEntry} (read : readMove d = some (some x)) (flag : u8 d 8 ≤ 1)
    (zeros : u8 d 8 = 0 → ∀ k, 8 + 1 ≤ k → k < 8 + 1 + 1 → u8 d k = 0) : x.bytes = d.take 10 := by
  unfold readMove at read
  split_ifs at read with short
  have len : 10 ≤ d.length := Nat.not_lt.1 short
  have fields := Option.some.inj read
  unfold moveEntryOf at fields
  simp only [Option.bind_eq_bind, Option.bind_eq_some_iff, Option.pure_def, Option.some.injEq] at fields
  obtain ⟨figure, figure_, -, -, way, way_, start, start_, arrive, arrive_, rfl⟩ := fields
  have mark := optFin_bytes len arrive_ flag zeros
  unfold MoveEntry.bytes
  rw [← bytesAt_zero]
  simp only [mark, fin?_eq_some figure_, wayOf_code way_, fin?_eq_some start_, u8_bytes len, u16_bytes len, u8_cons len,
    bytesAt_join, Nat.reduceAdd, Nat.reduceLeDiff]

/-! Rows, by their kinds. -/

theorem row_bytes {x : Row} (read : readRow d = some (some x)) : x.bytes = d.take ([5, 3, 5, 2].getD (u8 d 0) 0) := by
  unfold readRow at read
  split_ifs at read with short note short rest short nest short mark short
  · have len : 5 ≤ d.length := Nat.not_lt.1 short
    have fields := Option.some.inj read
    unfold noteOf at fields
    simp only [Option.bind_eq_bind, Option.bind_eq_some_iff, Option.pure_def, Option.some.injEq] at fields
    obtain ⟨bell, bell_, -, -, rfl⟩ := fields
    have kind : (0 : Byte) = byteOf (u8 d 0) := by rw [note]; rfl
    unfold Row.bytes
    rw [note, kind]
    show _ = bytesAt d 0 5
    simp only [fin?_eq_some bell_, u8_bytes len, u16_bytes len, u8_cons len, bytesAt_join, Nat.reduceAdd,
      Nat.reduceLeDiff]
  · have len : 3 ≤ d.length := Nat.not_lt.1 short
    obtain rfl := Option.some.inj (Option.some.inj read)
    have kind : (1 : Byte) = byteOf (u8 d 0) := by rw [rest]; rfl
    unfold Row.bytes
    rw [rest, kind]
    show _ = bytesAt d 0 3
    simp only [u16_bytes len, u8_cons len, Nat.reduceAdd, Nat.reduceLeDiff]
  · have len : 5 ≤ d.length := Nat.not_lt.1 short
    have fields := Option.some.inj read
    unfold nestOf at fields
    simp only [Option.bind_eq_bind, Option.bind_eq_some_iff, Option.pure_def, Option.some.injEq] at fields
    obtain ⟨motif, motif_, -, -, -, -, rfl⟩ := fields
    have kind : (2 : Byte) = byteOf (u8 d 0) := by rw [nest]; rfl
    unfold Row.bytes
    rw [nest, kind]
    show [byteOf (u8 d 0), byteOf motif.val, byteOf (u8 d 2)] ++ leInt 1 (s8 d 3) ++ [byteOf (u8 d 4)] = bytesAt d 0 5
    rw [s8_bytes (by omega)]
    simp only [fin?_eq_some motif_, u8_bytes len, u8_cons len, bytesAt_join, Nat.reduceAdd, Nat.reduceLeDiff]
  · have len : 2 ≤ d.length := Nat.not_lt.1 short
    obtain ⟨m, mark_, rfl⟩ := Option.map_eq_some_iff.1 (Option.some.inj read)
    have kind : (3 : Byte) = byteOf (u8 d 0) := by rw [mark]; rfl
    unfold Row.bytes
    rw [mark, kind]
    show _ = bytesAt d 0 2
    simp only [fin?_eq_some mark_, u8_bytes len, u8_cons len, Nat.reduceAdd, Nat.reduceLeDiff]
  · exact nomatch Option.some.inj read

/-! Verdicts and outcomes (R25). -/

/-- An action other than QUIET, with the fields of a quiet level sent as zeros. -/
theorem plainVerdict_bytes {o c : Nat} (len : o + 7 ≤ d.length) (code : u8 d o = c) (flag : u8 d (o + 1) ≤ 1)
    (zeros : ∀ k, o + 2 ≤ k → k < o + 2 + 5 → u8 d k = 0) :
    [byteOf c, boolByte (flagAt d (o + 1)), 0] ++ leBytes 4 0 = bytesAt d o 7 := by
  have tail : ([0] ++ leBytes 4 0 : List Byte) = bytesAt d (o + 2) 5 := zeros_bytes (by omega) zeros
  rw [← code, boolByte_flagAt flag, ← bytesAt_join (a := 1) (b := 6) rfl, ← bytesAt_join (a := 1) (b := 5) rfl,
    ← u8_bytes (Nat.le_refl d.length) (by omega), ← u8_bytes (Nat.le_refl d.length) (by omega), ← tail]
  rfl

theorem quietVerdict_bytes {o : Nat} (len : o + 7 ≤ d.length) (code : u8 d o = 3) (flag : u8 d (o + 1) ≤ 1) :
    [3, boolByte (flagAt d (o + 1)), byteOf (u8 d (o + 2))] ++ leBytes 4 (u32 d (o + 3)) = bytesAt d o 7 := by
  have three : (3 : Byte) = byteOf (u8 d o) := by rw [code]; rfl
  rw [three, boolByte_flagAt flag, ← bytesAt_join (a := 1) (b := 6) rfl, ← bytesAt_join (a := 1) (b := 5) rfl,
    ← bytesAt_join (a := 1) (b := 4) rfl, ← u8_bytes (Nat.le_refl d.length) (by omega),
    ← u8_bytes (Nat.le_refl d.length) (by omega), ← u8_bytes (Nat.le_refl d.length) (by omega),
    u32_bytes (Nat.le_refl d.length) (by omega)]
  rfl

theorem verdict_bytes {o : Nat} {v : Verdict} (len : o + 7 ≤ d.length) (read : verdictAt d o = some v)
    (flag : u8 d (o + 1) ≤ 1) (zeros : u8 d o ≠ 3 → ∀ k, o + 2 ≤ k → k < o + 2 + 5 → u8 d k = 0) :
    v.bytes = bytesAt d o 7 := by
  unfold verdictAt actionOf at read
  obtain ⟨action, action_, rfl⟩ := Option.map_eq_some_iff.1 read
  unfold Verdict.bytes
  split_ifs at action_ with none_ cue beacon quiet hold bells all board <;> cases action_
  · exact plainVerdict_bytes len none_ flag (zeros (by omega))
  · exact plainVerdict_bytes len cue flag (zeros (by omega))
  · exact plainVerdict_bytes len beacon flag (zeros (by omega))
  · have is_ := quietVerdict_bytes len quiet flag
    rw [bells] at is_
    exact is_
  · have is_ := quietVerdict_bytes len quiet flag
    rw [all] at is_
    exact is_
  · exact plainVerdict_bytes len board flag (zeros (by omega))

theorem outcome_bytes {index o n : Nat} {t : ParseOutcome} (read : outcomeAt index d o = .field n (some t))
    (clean : u8 d o = 1 → u8 d (o + 1 + 1) ≤ 1 ∧
      (u8 d (o + 1) ≠ 3 → ∀ k, o + 1 + 2 ≤ k → k < o + 1 + 2 + 5 → u8 d k = 0)) :
    n = (if u8 d o = 0 then 2 else 8) ∧ o + n ≤ d.length ∧ t.bytes = bytesAt d o n := by
  unfold outcomeAt at read
  split_ifs at read with none_ next short within verdict short
  · cases read
    have zero : (0 : Byte) = byteOf (u8 d o) := by rw [next]; rfl
    refine ⟨(if_pos next).symm, by omega, ?_⟩
    unfold ParseOutcome.bytes
    rw [zero, ← bytesAt_join (a := 1) (b := 1) rfl, ← u8_bytes (Nat.le_refl d.length) (by omega),
      ← u8_bytes (Nat.le_refl d.length) (by omega)]
    rfl
  · cases read
  · injection read with size value
    subst size
    obtain ⟨v, at_, rfl⟩ := Option.map_eq_some_iff.1 value
    obtain ⟨flag, zeros⟩ := clean verdict
    have one : (1 : Byte) = byteOf (u8 d o) := by rw [verdict]; rfl
    refine ⟨(if_neg next).symm, by omega, ?_⟩
    show 1 :: v.bytes = _
    rw [verdict_bytes (by omega) at_ flag zeros, one]
    exact u8_cons (Nat.le_refl d.length) (by omega) rfl

theorem parseEntry_bytes {index : Nat} {x : ParseEntry} (read : readParse index d = some (some x))
    (first : u8 d 8 = 1 → u8 d (8 + 1 + 1) ≤ 1 ∧
      (u8 d (8 + 1) ≠ 3 → ∀ k, 8 + 1 + 2 ≤ k → k < 8 + 1 + 2 + 5 → u8 d k = 0))
    (second : let o := 8 + (if u8 d 8 = 0 then 2 else 8)
      u8 d o = 1 → u8 d (o + 1 + 1) ≤ 1 ∧ (u8 d (o + 1) ≠ 3 → ∀ k, o + 1 + 2 ≤ k → k < o + 1 + 2 + 5 → u8 d k = 0)) :
    x.bytes = d.take (8 + (if u8 d 8 = 0 then 2 else 8) +
      (if u8 d (8 + (if u8 d 8 = 0 then 2 else 8)) = 0 then 2 else 8)) := by
  unfold readParse at read
  split_ifs at read with short
  have len : 8 ≤ d.length := Nat.not_lt.1 short
  split at read
  · cases read
  · cases read
  · next n t onTrue =>
    split at read
    · cases read
    · cases read
    · next m f onFalse =>
      have fields := Option.some.inj read
      unfold parseEntryOf at fields
      simp only [Option.bind_eq_bind, Option.bind_eq_some_iff, Option.pure_def, Option.some.injEq] at fields
      obtain ⟨filter, filter_, -, -, comparison, comparison_, t', rfl, f', rfl, rfl⟩ := fields
      obtain ⟨size, -, tBytes⟩ := outcome_bytes onTrue first
      rw [size] at onFalse tBytes
      obtain ⟨size', -, fBytes⟩ := outcome_bytes onFalse second
      rw [size'] at fBytes
      have mask : (BitVec.ofNat 16 (u16 d 3)).toNat = u16 d 3 :=
        Nat.mod_eq_of_lt (numAt_lt 2 d 3)
      have match_ : (BitVec.ofNat 16 (u16 d 5)).toNat = u16 d 5 :=
        Nat.mod_eq_of_lt (numAt_lt 2 d 5)
      unfold ParseEntry.bytes
      rw [← bytesAt_zero]
      simp only [dirFilterOf_code filter_, comparisonOf_code comparison_, mask, match_, tBytes, fBytes, u8_bytes len,
        u16_bytes len, u8_cons len, bytesAt_join, Nat.reduceAdd, Nat.reduceLeDiff]
      exact bytesAt_join (Nat.zero_add _).symm

/-! Settings. -/

theorem settings_bytes {x : Settings} (read : readSettings d = some (some x)) (flag : u8 d 33 ≤ 1)
    (fallbackFlag : u8 d (18 + 1) ≤ 1)
    (zeros : u8 d 18 ≠ 3 → ∀ k, 18 + 2 ≤ k → k < 18 + 2 + 5 → u8 d k = 0) : x.bytes = d.take 34 := by
  unfold readSettings at read
  split_ifs at read with short
  have len : 34 ≤ d.length := Nat.not_lt.1 short
  have fields := Option.some.inj read
  unfold settingsOf at fields
  simp only [Option.bind_eq_bind, Option.bind_eq_some_iff, Option.pure_def, Option.some.injEq] at fields
  obtain ⟨-, -, -, -, -, -, -, -, -, -, -, -, -, -, -, -, fallback, fallback_, -, -, -, -, -, -, -, -, -, -, -, -, rfl⟩ := fields
  have sent := verdict_bytes (o := 18) (by omega) fallback_ fallbackFlag zeros
  unfold Settings.bytes
  rw [← bytesAt_zero]
  simp only [sent, boolByte_flagAt flag, u8_bytes len, u16_bytes len, u32_bytes len, u8_cons len, bytesAt_join,
    Nat.reduceAdd, Nat.reduceLeDiff]

/-! Figures, with their zone spans. -/

theorem zoneSpan_bytes {kind : FigKind} {span o : Nat} {z : ZoneSpan} (len : o + 5 ≤ d.length)
    (read : zoneSpanAt kind span d o = some z) : z.bytes = bytesAt d o 5 := by
  unfold zoneSpanAt at read
  simp only [Option.bind_eq_bind, Option.bind_eq_some_iff, Option.pure_def, Option.some.injEq] at read
  obtain ⟨zone, zone_, -, -, -, -, rfl⟩ := read
  unfold ZoneSpan.bytes
  rw [fin?_eq_some zone_, u16_bytes (Nat.le_refl d.length) (by omega), u16_bytes (Nat.le_refl d.length) (by omega),
    bytesAt_join rfl, u8_cons (Nat.le_refl d.length) (by omega) rfl]

theorem zoneSpans_bytes {kind : FigKind} {span : Nat} (n s : Nat) (zs : List ZoneSpan) (len : 19 + 5 * (s + n) ≤ d.length)
    (read : (List.range' s n).mapM (fun i => zoneSpanAt kind span d (19 + 5 * i)) = some zs) :
    zs.length = n ∧ zs.flatMap ZoneSpan.bytes = bytesAt d (19 + 5 * s) (5 * n) := by
  induction n generalizing s zs with
  | zero =>
    cases read
    exact ⟨rfl, (bytesAt_none d _).symm⟩
  | succ n ih =>
    rw [List.range'_succ, List.mapM_cons] at read
    simp only [Option.bind_eq_bind, Option.bind_eq_some_iff, Option.pure_def, Option.some.injEq] at read
    obtain ⟨z, first, rest, others, rfl⟩ := read
    obtain ⟨count, bytes⟩ := ih (s + 1) rest (by omega) others
    refine ⟨by rw [List.length_cons, count], ?_⟩
    rw [List.flatMap_cons, zoneSpan_bytes (by omega) first, bytes, bytesAt_join (by omega)]
    exact congrArg (bytesAt d _) (by omega)

theorem figRec_bytes {x : FigRec} (read : readFigure d = some (some x)) (flag : u8 d 0 ≤ 1) :
    x.bytes = d.take (19 + 5 * u8 d 18) := by
  unfold readFigure at read
  split_ifs at read with short many cut
  · cases Option.some.inj read
  · have len : 19 ≤ d.length := Nat.not_lt.1 short
    have fields := Option.some.inj read
    unfold figRecOf at fields
    simp only [Option.bind_eq_bind, Option.bind_eq_some_iff, Option.pure_def, Option.some.injEq] at fields
    obtain ⟨board, board_, channel, channel_, kind, kind_, -, -, -, -, -, -, -, -, -, -, -, -, spans, spans_, rfl⟩ := fields
    rw [List.range_eq_range'] at spans_
    obtain ⟨count, sent⟩ := zoneSpans_bytes _ 0 spans (by omega) spans_
    unfold FigRec.bytes listBytes
    rw [← bytesAt_zero, count, sent]
    simp only [boolByte_flagAt flag, fin?_eq_some board_, fin?_eq_some channel_, figKindOf_code kind_, u8_bytes len,
      u16_bytes len, u8_cons len, bytesAt_join, Nat.reduceAdd, Nat.reduceLeDiff, Nat.reduceMul]
    exact congrArg (bytesAt d 0) (by omega)

/-! Schedule entries and headers (R155). -/

theorem countSource_bytes {o : Nat} {c : CountSource} (len : o + 2 ≤ d.length)
    (read : countSourceOf (u8 d o) (u8 d (o + 1)) = some c) (zero : u8 d o ≠ 3 → u8 d (o + 1) = 0) :
    c.bytes = bytesAt d o 2 := by
  have whole : [byteOf (u8 d o), byteOf (u8 d (o + 1))] = bytesAt d o 2 := by
    rw [u8_bytes (Nat.le_refl d.length) (by omega), u8_cons (Nat.le_refl d.length) (by omega) rfl]
  rw [← whole]
  unfold countSourceOf at read
  split_ifs at read with none_ hour12 hour24 fixed <;> cases read
  · rw [zero (by omega), none_]
    rfl
  · rw [zero (by omega), hour12]
    rfl
  · rw [zero (by omega), hour24]
    rfl
  · rw [fixed]
    rfl

theorem schedEntry_bytes {i : Nat} {h : i < 64} {e : SchedEntry} (read : readSchedule i d = some (.entry ⟨i, h⟩ (some e)))
    (flag : u8 d 6 ≤ 1) (zeros : u8 d 6 = 0 → ∀ k, 6 + 1 ≤ k → k < 6 + 1 + 3 → u8 d k = 0)
    (zero : u8 d 8 ≠ 3 → u8 d 9 = 0) : e.bytes = d.take 10 := by
  unfold readSchedule at read
  rw [dif_pos h] at read
  split_ifs at read with short
  have len : 10 ≤ d.length := Nat.not_lt.1 short
  have fields : schedEntryOf d = some e := by
    injection read with item
    injection item
  unfold schedEntryOf at fields
  simp only [Option.bind_eq_bind, Option.bind_eq_some_iff, Option.pure_def] at fields
  obtain ⟨bells, bells_, figures, figures_, fields⟩ := fields
  have parts : ∃ trigger, (if flagAt d 6 then (countSourceOf (u8 d 8) (u8 d 9)).map (fun c =>
        some { vector := u8 d 7, source := c }) else some none) = some trigger ∧
      e = { offset := u32 d 0, bellGate := bells, figureGate := figures, trigger := trigger } := by
    split at fields
    · next present =>
      obtain ⟨trigger, some_, is_⟩ := Option.bind_eq_some_iff.1 fields
      exact ⟨trigger, by rw [if_pos present, some_], (Option.some.inj is_).symm⟩
    · next absent =>
      obtain ⟨trigger, some_, is_⟩ := Option.bind_eq_some_iff.1 fields
      exact ⟨trigger, by rw [if_neg absent, some_], (Option.some.inj is_).symm⟩
  obtain ⟨trigger, trigger_, rfl⟩ := parts
  have sent : optBytes 3 (trigger.map (fun t => byteOf t.vector :: t.source.bytes)) = bytesAt d 6 4 := by
    split at trigger_
    · next present =>
      obtain ⟨c, source, rfl⟩ := Option.map_eq_some_iff.1 trigger_
      have one : u8 d 6 = 1 := by
        have some_ := flagAt_eq_true_iff.1 present
        omega
      rw [Option.map_some, countSource_bytes (by omega) source zero, u8_cons len (by decide) rfl]
      exact optBytes_some (k := 3) (by omega) one
    · next absent =>
      cases trigger_
      have none_ : u8 d 6 = 0 := not_not.1 (fun h => absent (flagAt_eq_true_iff.2 h))
      exact optBytes_none (k := 3) (by omega) none_ (zeros none_)
  unfold SchedEntry.bytes
  rw [← bytesAt_zero]
  simp only [sent, gateOf_code bells_, gateOf_code figures_, u8_bytes len, u32_bytes len, u8_cons len, bytesAt_join,
    Nat.reduceAdd, Nat.reduceLeDiff]

theorem header_bytes {cycle count : Nat} (read : readSchedule 64 d = some (.header (some (cycle, count)))) (b : Bank) :
    ({ b with cycle := cycle, count := count } : Bank).headerBytes = leInt 6 b.base ++ (d.drop 6).take 5 := by
  unfold readSchedule at read
  rw [dif_neg (by decide), if_pos rfl] at read
  split_ifs at read with short range
  · have len : 11 ≤ d.length := Nat.not_lt.1 short
    injection read with item
    injection item with fields
    injection fields with pair
    injection pair with cycle_ count_
    unfold Bank.headerBytes timeBytes
    show leInt 6 b.base ++ leBytes 4 cycle ++ [byteOf count] = leInt 6 b.base ++ bytesAt d 6 5
    rw [← cycle_, ← count_, List.append_assoc, u32_bytes len (by decide), u8_bytes len (by decide), bytesAt_join rfl]
  · injection read with item
    injection item with fields
    exact nomatch fields

end

end Sys2Proof.Machine

/-! READ_RECORD and READ_STATE: indices, parts, objects, and records that come back as they were written (R171, R172,
R176, R177). -/

namespace Sys2Proof.Machine

section

variable {s t u : State} {d : List Byte} {index : Nat}

/-! The answers (R171, R172). -/

theorem requestFrame_reads {f : List Byte} {row : RequestRow} {q : Request} {a : Reply} (reached : s.reaches f row = true)
    (read : readRequest (framePayload f) = some q) (out : carryOut q s = (a, s)) :
    Host.Outcome.next (s.requestFrame f row) = (.next (s.respond f a) : Host.Outcome State Fault Refusal) :=
  congrArg Host.Outcome.next (requestFrame_answers reached read out rfl)

theorem selectorReads_iff (table selector : Nat) :
    selectorReads table selector = true ↔ selector = 0 ∨ (table = 7 ∧ selector = 1) := by
  simp [selectorReads]

theorem readRecord_of_none {table selector n : Nat} (out : s.recordBytes table selector index = none) :
    s.readRecord table selector index n = Reply.plain .badIndex := by
  unfold State.readRecord
  rw [out]

theorem readRecord_of_some {table selector n : Nat} (there : s.recordBytes table selector index = some d) :
    s.readRecord table selector index n = if selectorReads table selector then partReply d n else Reply.plain .badValue := by
  unfold State.readRecord
  rw [there]

theorem readState_of_none {object n : Nat} (out : s.objectBytes object index = none) :
    s.readState object index n = Reply.plain .badIndex := by
  unfold State.readState
  rw [out]

theorem readState_of_some {object n : Nat} (there : s.objectBytes object index = some d) :
    s.readState object index n = partReply d n := by
  unfold State.readState
  rw [there]

/-! The indices of the tables and the objects. -/

theorem itemBytes_eq_none (b : Bank) : b.itemBytes index = none ↔ 65 ≤ index := by
  unfold Bank.itemBytes
  split
  · next header => exact ⟨nofun, fun h => by omega⟩
  · next other =>
    rw [map_eq_none]
    omega

theorem fin?_map_eq_none {α : Type} {n : Nat} (g : Fin n → α) : (fin? n index).map g = none ↔ n ≤ index := by
  unfold fin?
  split
  · next small => exact ⟨nofun, fun h => absurd small (Nat.not_lt.2 h)⟩
  · next large => exact ⟨fun _ => Nat.not_lt.1 large, fun _ => rfl⟩

theorem recordBytes_eq_none (table selector : Nat) : s.recordBytes table selector index = none ↔
    [48, 48, 64, 1024, 32, 512, 16, 65, 16, 32, 4].getD table 1 ≤ index := by
  match table with
  | 0 => exact map_eq_none index
  | 1 => exact fin?_map_eq_none _
  | 2 => exact map_eq_none index
  | 3 => exact map_eq_none index
  | 4 => exact map_eq_none index
  | 5 => exact map_eq_none index
  | 6 => exact map_eq_none index
  | 7 =>
    show (if selector = 1 then s.calendar.activeBank.itemBytes index else s.calendar.shadowBank.itemBytes index) = none ↔ _
    split
    · exact itemBytes_eq_none _
    · exact itemBytes_eq_none _
  | 8 => exact map_eq_none index
  | 9 => exact map_eq_none index
  | 10 => exact map_eq_none index
  | n + 11 =>
    show (if index = 0 then some s.settings.bytes else none) = none ↔ 1 ≤ index
    split
    · next zero => exact ⟨nofun, fun h => by omega⟩
    · next other => exact ⟨fun _ => by omega, fun _ => rfl⟩

theorem objectBytes_eq_none (object : Nat) : s.objectBytes object index = none ↔
    (object = 3 ∧ 4 ≤ index) ∨ (object = 4 ∧ 16 ≤ index) ∨ (object = 5 ∧ 32 ≤ index) ∨ (object = 6 ∧ 4 ≤ index) := by
  match object with
  | 0 => exact ⟨nofun, fun h => by omega⟩
  | 1 => exact ⟨nofun, fun h => by omega⟩
  | 2 => exact ⟨nofun, fun h => by omega⟩
  | 3 => exact (map_eq_none index).trans (by omega)
  | 4 => exact (fin?_map_eq_none _).trans (by omega)
  | 5 => exact (fin?_map_eq_none _).trans (by omega)
  | 6 => exact (fin?_map_eq_none _).trans (by omega)
  | 7 => exact ⟨nofun, fun h => by omega⟩
  | n + 8 => exact ⟨nofun, fun h => by omega⟩

/-! The objects engine, clock and group (R11, R138, R172). -/

theorem boolBytes_eq (l : List Bool) : l.map boolByte = l.flatMap (fun on => leBytes 1 (if on then 1 else 0)) := by
  induction l with
  | nil => rfl
  | cons on l ih =>
    rw [List.map_cons, ih]
    cases on <;> rfl

theorem showRequest_bytes (q : ShowRequest) : q.bytes = leBytes 1 q.showId.val ++ leBytes 1 q.count ++ leBytes 1 q.tempo ++
    (match q.anchor with
      | some a => [1] ++ leInt 6 a
      | none => [0, 0, 0, 0, 0, 0, 0]) ++
    (match q.origin with
      | .calendar v => [0] ++ leBytes 1 v.val
      | .cue => [1, 0]) ++
    leBytes 1 q.cyclesWaited := by
  unfold ShowRequest.bytes
  cases q.anchor <;> cases q.origin <;> rfl

theorem engine_bytes (s : State) : s.engineBytes = leBytes 1 (match s.mgmt.engine with
      | .config => 0
      | .run => 1) ++ [s.node] ++ leBytes 1 s.mgmt.events.length ++ leBytes 1 s.mgmt.lost ++
    s.mgmt.mask.toList.flatMap (fun on => leBytes 1 (if on then 1 else 0)) ++
    leBytes 1 s.showUnit.queue.length ++ s.showUnit.queue.flatMap (fun q =>
      leBytes 1 q.showId.val ++ leBytes 1 q.count ++ leBytes 1 q.tempo ++
      (match q.anchor with
        | some a => [1] ++ leInt 6 a
        | none => [0, 0, 0, 0, 0, 0, 0]) ++
      (match q.origin with
        | .calendar v => [0] ++ leBytes 1 v.val
        | .cue => [1, 0]) ++
      leBytes 1 q.cyclesWaited) := by
  unfold State.engineBytes listBytes
  rw [boolBytes_eq, List.append_assoc _ (leBytes 1 s.showUnit.queue.length)]
  refine congrArg₂ (· ++ ·) ?_ (congrArg (byteOf s.showUnit.queue.length :: ·) ?_)
  · cases s.mgmt.engine <;> rfl
  · exact congrArg (fun g => s.showUnit.queue.flatMap g) (funext showRequest_bytes)

theorem clock_bytes (c : Clock) : c.bytes = leBytes 1 (match c.state with
      | .unset => 0
      | .set => 1
      | .freeRunning => 2) ++ leInt 6 c.time ++ leBytes 1 c.freeze ++
    leBytes 2 (match c.lossDeadline with
      | some d => (d - c.time).toNat
      | none => 0) ++
    leInt 2 c.lastDiff ++ leBytes 4 c.beaconsAccepted ++ leBytes 4 c.badBeacon ++ leBytes 4 c.steps := by
  unfold Clock.bytes
  cases c.state <;> cases c.lossDeadline <;> rfl

/-- The current admitted to a figure, 0 where there is none. -/
def Figure.drawn (y : Figure) : Nat :=
  match y.admitted with
  | some a => a.1
  | none => 0

/-- Whether a figure draws from the group. -/
def Figure.draws (y : Figure) (g : Fin 4) : Bool := y.admitted.any (fun a => a.2 = g)

theorem motorAccount_eq (s : State) (g : Fin 4) : s.motorAccount g =
    ((List.finRange 16).filter (fun x => s.figs[x].draws g)).map (fun x => (x, s.figs[x].drawn)) := by
  unfold State.motorAccount indices
  induction List.finRange 16 with
  | nil => rfl
  | cons x l ih =>
    rw [List.filterMap_cons, ih, List.filter_cons]
    unfold Figure.draws Figure.drawn
    cases admitted : s.figs[x].admitted with
    | none => rfl
    | some a =>
      by_cases same : a.2 = g
      · rw [if_pos (show Option.any (fun a => decide (a.2 = g)) (some a) = true from decide_eq_true same), List.map_cons,
          admitted]
        dsimp only
        rw [if_pos same]
      · rw [if_neg (show ¬Option.any (fun a => decide (a.2 = g)) (some a) = true from fun h => same (of_decide_eq_true h))]
        dsimp only
        rw [if_neg same]

theorem group_bytes (s : State) (g : Fin 4) : s.groupBytes g = leBytes 2 s.groups[g].limit ++ leBytes 2 s.groups[g].reserve ++
    leBytes 2 (s.strikeSum g) ++ leBytes 2 (s.motorSum g) ++
    leBytes 1 (s.strikeAccount.countP (fun a => a.group = g)) ++
    (leBytes 1 ((List.finRange 16).filter (fun x => s.figs[x].draws g)).length ++
      ((List.finRange 16).filter (fun x => s.figs[x].draws g)).flatMap (fun x =>
        leBytes 1 x.val ++ leBytes 2 s.figs[x].drawn)) := by
  unfold State.groupBytes listBytes
  rw [motorAccount_eq, List.length_map, List.flatMap_map]
  rfl

/-! Records read back (R171, R177). -/

theorem bellState_bytes (b : BellState) (now : Time) : b.bytes now =
    leBytes 4 b.heat ++ leBytes 4 (min (now - b.heatAt).toNat 4294967295) ++
      (match b.lastFire with
        | some t => 1 :: leInt 6 t
        | none => [0, 0, 0, 0, 0, 0, 0]) ++ [if b.unavailable then 1 else 0] := by
  unfold BellState.bytes
  cases b.lastFire <;> rfl

theorem itemBytes_of_entry {b : Bank} {i : Nat} (entry : i < 64) : b.itemBytes i = (b.entries[i]?).map SchedEntry.bytes :=
  if_neg (by omega)

theorem itemBytes_header (b : Bank) : b.itemBytes 64 = some b.headerBytes := if_pos rfl

theorem shadowBank_of_a {c : Calendar} (active : c.active = .a) : c.shadowBank = c.bankB := by
  unfold Calendar.shadowBank
  rw [active]

theorem shadowBank_of_b {c : Calendar} (active : c.active = .b) : c.shadowBank = c.bankA := by
  unfold Calendar.shadowBank
  rw [active]

theorem activeBank_of_a {c : Calendar} (active : c.active = .a) : c.activeBank = c.bankA := by
  unfold Calendar.activeBank
  rw [active]

theorem activeBank_of_b {c : Calendar} (active : c.active = .b) : c.activeBank = c.bankB := by
  unfold Calendar.activeBank
  rw [active]

/-- A schedule entry in both banks is read back whichever of them is the shadow. -/
theorem recordBytes_entry (i : Fin 64) (e : SchedEntry) :
    State.recordBytes { s with calendar := { s.calendar with
      bankA := { s.calendar.bankA with entries := s.calendar.bankA.entries.set i.val e },
      bankB := { s.calendar.bankB with entries := s.calendar.bankB.entries.set i.val e } } } 7 0 i.val = some e.bytes := by
  refine (itemBytes_of_entry i.isLt).trans ?_
  cases active : s.calendar.active with
  | a =>
    rw [shadowBank_of_a (by exact active), getElem?_set_self]
    rfl
  | b =>
    rw [shadowBank_of_b (by exact active), getElem?_set_self]
    rfl

/-! The whole. -/

/-- Settles O54: reads answer from the state and leave it, and what was written is read back. -/
theorem readsChangeNothing : Obligations.ReadsChangeNothing := by
  intro s f part
  refine ⟨fun table selector index n reached read => ⟨fun out => ?_, fun d there takes => ?_, fun d there refused => ?_⟩,
    fun object index n reached read => ⟨fun out => ?_, fun d there => ?_⟩, fun table selector index => recordBytes_eq_none _ _,
    fun object index => objectBytes_eq_none _, fun index => ?_, fun index => congrArg some (clock_bytes s.clock),
    fun g => ?_, fun d => ?_⟩
  · exact requestFrame_reads reached read (congrArg (·, s) (readRecord_of_none out))
  · refine requestFrame_reads reached read (congrArg (·, s) ((readRecord_of_some there).trans ?_))
    exact if_pos ((selectorReads_iff _ _).2 takes)
  · refine requestFrame_reads reached read (congrArg (·, s) ((readRecord_of_some there).trans ?_))
    exact if_neg (fun h => refused ((selectorReads_iff _ _).1 h))
  · exact requestFrame_reads reached read (congrArg (·, s) (readState_of_none out))
  · exact requestFrame_reads reached read (congrArg (·, s) (readState_of_some there))
  · exact congrArg some (engine_bytes s)
  · exact (congrArg (Option.map s.groupBytes) (fin?_val g)).trans (congrArg some (group_bytes s g))
  · intro flag zeros verdict outcome size option
    have sent : ∀ {α : Type} {n : Nat} {v : Vector α n} (i : Fin n) {x : α} {g : α → List Byte} {l : List Byte},
        g x = l → ((v.set i.val x)[i.val]?).map g = some l := by
      intro α n v i x g l is_
      rw [getElem?_set_self, Option.map_some, is_]
    refine ⟨fun i x read first second => sent i (parseEntry_bytes read first second), fun i x read on => ?_,
      fun i x read => sent i (motifDir_bytes read), fun i x read => sent i (row_bytes read),
      fun i x read on => sent i (showRec_bytes read on), fun i x read clean => sent i (moveEntry_bytes read clean.1 clean.2),
      fun i x read clean => sent i (vector_bytes read clean.1 clean.2), fun i e read clean zero => ?_,
      fun cycle count read => ?_, fun i x read on => sent i (figRec_bytes read on),
      fun i x read on => sent i (boardRec_bytes read on), fun i x read => sent i (groupRec_bytes read),
      fun x read clean on => congrArg some (settings_bytes read on clean.1 clean.2), fun index item read => ?_⟩
    · refine (congrArg (Option.map _) (fin?_val i)).trans (congrArg some ?_)
      show (s.bellRecs.set i.val x)[i].bytes ++ s.bells[i].bytes s.now = _
      have written : (s.bellRecs.set i.val x)[i] = x := by simp
      rw [written, bellRec_bytes read on, bellState_bytes]
      simp only [List.append_assoc]
      rfl
    · intro c
      rw [recordBytes_entry, schedEntry_bytes read clean.1 clean.2 zero]
    · intro c
      refine ⟨fun active => ?_, fun active => ?_⟩
      · refine (itemBytes_header _).trans (congrArg some ?_)
        rw [shadowBank_of_a (by exact active)]
        exact header_bytes read c.bankB
      · refine (itemBytes_header _).trans (congrArg some ?_)
        rw [shadowBank_of_b (by exact active)]
        exact header_bytes read c.bankA
    · refine ⟨fun active => ?_, fun active => ?_⟩
      · show s.calendar.activeBank.itemBytes index = Bank.itemBytes (Calendar.shadowBank _) index
        rw [activeBank_of_a active, shadowBank_of_b (by rfl)]
      · show s.calendar.activeBank.itemBytes index = Bank.itemBytes (Calendar.shadowBank _) index
        rw [activeBank_of_b active, shadowBank_of_a (by rfl)]

end

end Sys2Proof.Machine
